-- ==== Sys2Proof/Word.lean ====
section
/-! DEFINITION. The word types of the ZD: bytes, halfwords, words and doublewords as bit vectors (R6, R158). -/

namespace Sys2Proof

/-- One byte. -/
abbrev Byte := BitVec 8
/-- A 16-bit field (a status, a flag word, a sync-object id). -/
abbrev W16 := BitVec 16
/-- A 32-bit word. -/
abbrev W32 := BitVec 32
/-- A 64-bit word: a general register, a control-space word. -/
abbrev W64 := BitVec 64
/-- A vector register of 4,096 bits (R189). -/
abbrev VReg := BitVec 4096

end Sys2Proof
end

