-- ==== Sys2Proof/Machine/Bits.lean ====
section
/-! DEFINITION. Bit fields, little-endian byte strings (R6) and sign extension, shared by every unit. -/

namespace Sys2Proof.Machine

/-- Bits `[lo + len - 1 : lo]` of `w`. -/
def fld (w lo len : Nat) : Nat := (w >>> lo) % 2 ^ len

/-- `w` with bits `[lo + len - 1 : lo]` replaced by `v`. -/
def setFld (w lo len v : Nat) : Nat :=
  w - (fld w lo len <<< lo) + ((v % 2 ^ len) <<< lo)

/-- Bit `i` of `w`. -/
def bit (w i : Nat) : Bool := w.testBit i

/-- 1 for true, 0 for false. -/
def b2n (b : Bool) : Nat := if b then 1 else 0

/-- The `k` bytes of `n`, least significant first (R6). -/
def leBytes : Nat → Nat → List Byte
  | 0, _ => []
  | k + 1, n => BitVec.ofNat 8 n :: leBytes k (n / 256)

/-- The number a byte string holds, least significant byte first (R6). -/
def leNat : List Byte → Nat
  | [] => 0
  | b :: bs => b.toNat + 256 * leNat bs

/-- `len` bytes of `bs` from `off` as a number; bytes past the end read 0. -/
def getLe (bs : List Byte) (off len : Nat) : Nat := leNat ((bs.drop off).take len)

/-- One byte of `bs`; 0 past the end. -/
def getB (bs : List Byte) (off : Nat) : Nat := getLe bs off 1

/-- `k` zero bytes. -/
def zeroBytes (k : Nat) : List Byte := List.replicate k 0

/-- The two's-complement value of the low `w` bits of `n`. -/
def sgn (w n : Nat) : Int :=
  let m := n % 2 ^ w
  if w = 0 then 0 else if m < 2 ^ (w - 1) then (m : Int) else (m : Int) - (2 ^ w : Nat)

/-- The low `w` bits of an integer. -/
def wrapN (w : Nat) (i : Int) : Nat := (i % ((2 ^ w : Nat) : Int)).toNat

/-- Add with saturation at `2 ^ w - 1` (the saturating counters of the register tables). -/
def satAdd (w a b : Nat) : Nat := min (a + b) (2 ^ w - 1)

/-- Smallest multiple of `m` not below `n` (`m > 0`). -/
def roundUp (n m : Nat) : Nat := (n + m - 1) / m * m

/-- `⌈n / m⌉`. -/
def ceilDiv (n m : Nat) : Nat := (n + m - 1) / m

/-- The 64-bit word as a number and back. -/
def n64 (n : Nat) : W64 := BitVec.ofNat 64 n

/-- Is every byte of the list 0? -/
def allZero (bs : List Byte) : Bool := bs.all (· == 0)

/-- `[a, a + 1, …]` of length `n`. -/
def natsFrom (a n : Nat) : List Nat := (List.range n).map (a + ·)

/-- The first index of the list at which `p` holds. -/
def firstIdx {α : Type} (p : α → Bool) : Nat → List α → Option Nat
  | _, [] => none
  | i, x :: xs => if p x then some i else firstIdx p (i + 1) xs

end Sys2Proof.Machine
end

