-- ==== Sys2Proof/Syntax.lean ====
section
/-! DEFINITION. The commands of the block: one constructor of Instr per row of the opcode table, with the operands each carries. -/

namespace Sys2Proof

/-- The channel a command packet arrives on (Table 03.1). -/
inductive Chan where
  | command | management
deriving DecidableEq, Repr

/-- A command packet as it arrives (Table 03.2), its OPCODE being the row's own; `params` are the bytes after the header. -/
structure Pkt where
  chan : Chan
  flags : W16
  tag : W32
  paramLen : W32
  tnb : W32
  step : W64
  crc : W32
  rsv : W32
  params : List Byte
deriving DecidableEq, Repr

/-- The header of the CS_WRITE packet that carries one LV bit (Table 03.2, R102): ADDR, VALUE and MASK are the row's own. -/
structure Hdr where
  chan : Chan
  flags : W16
  tag : W32
  tnb : W32
  step : W64
  crc : W32
deriving DecidableEq, Repr

/-- A scalar instruction of layout R (Table 05.13): the issuing logical core and thread, the register fields and the bits of the
FUNC field that the row leaves reserved. -/
structure RArgs where
  core : BitVec 11
  thr : BitVec 10
  d : BitVec 5
  a : BitVec 5
  b : BitVec 5
  rsv : BitVec 11
deriving DecidableEq, Repr

/-- Layout I. -/
structure IArgs where
  core : BitVec 11
  thr : BitVec 10
  d : BitVec 5
  a : BitVec 5
  imm : W16
deriving DecidableEq, Repr

/-- Layout M: `d` is the destination of a load, the source of a store. -/
structure MemArgs where
  core : BitVec 11
  thr : BitVec 10
  d : BitVec 5
  a : BitVec 5
  width : BitVec 3
  space : Bool
  ro : Bool
  off : BitVec 11
deriving DecidableEq, Repr

/-- The six branches (R162). -/
inductive BrOp where
  | beq | bne | blt | bge | bltu | bgeu
deriving DecidableEq, Repr

/-- Layout B. -/
structure BArgs where
  core : BitVec 11
  thr : BitVec 10
  op : BrOp
  a : BitVec 5
  b : BitVec 5
  off : W16
deriving DecidableEq, Repr

/-- Layout J. -/
structure JArgs where
  core : BitVec 11
  thr : BitVec 10
  off : BitVec 26
deriving DecidableEq, Repr

/-- A matrix instruction (Table 06.2): bits [21:19], [18:14], [13:9], [8:4], [3], [2:0]. -/
structure MxArgs where
  core : BitVec 11
  thr : BitVec 10
  acc : BitVec 3
  g1 : BitVec 5
  g2 : BitVec 5
  g3 : BitVec 5
  f3 : Bool
  low : BitVec 3
deriving DecidableEq, Repr

/-- A vector instruction (R195). -/
structure VArgs where
  core : BitVec 11
  thr : BitVec 10
  d : BitVec 5
  a : BitVec 5
  b : BitVec 5
  ew : BitVec 2
  s : Bool
  t : BitVec 2
deriving DecidableEq, Repr

/-- A row-engine or conversion instruction (Tables 08.3, 09.4): bits [21:17], [16], [15:0]. -/
structure EArgs where
  core : BitVec 11
  thr : BitVec 10
  g : BitVec 5
  c : Bool
  rsv : W16
deriving DecidableEq, Repr

/-- An activation-stack instruction (Table 12.3): bits [21:17], [16:12], [11:0]. -/
structure SArgs where
  core : BitVec 11
  thr : BitVec 10
  g1 : BitVec 5
  g2 : BitVec 5
  rsv : BitVec 12
deriving DecidableEq, Repr

/-- A pack instruction (Table 13.1): bits [21:17], [16:0]. -/
structure PArgs where
  core : BitVec 11
  thr : BitVec 10
  g : BitVec 5
  rsv : BitVec 17
deriving DecidableEq, Repr

/-- NWRITE (R414). -/
structure NArgs where
  core : BitVec 11
  thr : BitVec 10
  func : BitVec 4
  g : BitVec 5
  idx : BitVec 3
  rsv : BitVec 14
deriving DecidableEq, Repr

/-- Who holds a grant of energy tokens (R56). -/
inductive Grantee where
  | team (t : Nat) | hub (k : Nat) | stack (s : Nat) | ballast
deriving DecidableEq, Repr

/-- What the ration unit's meters and models give at a boundary (R56, R61, R62): what each grantee has consumed in the tick that ends, the
uncontrolled energy, the mean draw, the demand D(k) of the tick that opens, and the planned demand of each grantee in it. -/
structure Meter where
  used : List (Grantee × Nat)
  uncontrolled : Nat
  drawW : Nat
  demandW : Nat
  demands : List (Grantee × Nat)
deriving DecidableEq, Repr

/-- A frame as it arrives at a port (R405 to R409): its bytes from the destination address to the check sequence, how many; those of its Ethernet, IP and UDP
headers, or of its ARP or ICMP message, as they arrive; and the codewords that the port has corrected, and found uncorrectable, since the frame before
it. -/
structure NetFrame where
  hub : Nat
  port : Nat
  size : Nat
  head : List Byte
  corrected : Nat
  uncorrectable : Nat
deriving DecidableEq, Repr

/-- What an Announce message tells of its master (R410, IEEE 1588-2019): the fields its best master clock algorithm compares, in their order. -/
structure PtpMaster where
  priority1 : Byte
  clockClass : Byte
  accuracy : Byte
  variance : W16
  priority2 : Byte
  identity : W64
  stepsRemoved : W16
deriving DecidableEq, Repr

/-- A PTP message: an Announce; a Sync (with its Follow_Up, from a two-step master); or the Delay_Resp that closes an exchange, with the time it
gives. -/
inductive PtpKind where
  | announce
  | sync
  | delayResp (timeNs : Nat)
deriving DecidableEq, Repr

/-- A PTP message on a port (R410): its domain, its master and its kind. -/
structure PtpMsg extends NetFrame where
  domain : Nat
  master : PtpMaster
  kind : PtpKind
deriving DecidableEq, Repr

/-- What the scrub found at an address (R306). -/
structure ScrubFinding where
  addr : Nat
  kind : Nat
deriving DecidableEq, Repr

/-- What interrupts an update (R396). -/
inductive Interrupt where
  | restart | sramError (rowsLost : Bool) | stateLost
deriving DecidableEq, Repr

/-- A pack-protocol message as it arrives at a port (R419, R420). -/
structure PackRx extends NetFrame where
  bytes : List Byte
deriving DecidableEq, Repr

/-- Names a unicast pack stream of this device (R416): the pack, the other member, the hub that sends and the address index h′ it sends to. -/
structure StreamKey where
  pack : Nat
  member : Nat
  srcHub : Nat
  dstHub : Nat
deriving DecidableEq, Repr

/-- A RoCEv2 packet as it arrives at a port (R411, R412): the local connection, packet number, ECN mark, whether it is the first and the last
packet of its message, and, by its kind, address, key, length, immediate data and payload. -/
structure RocePkt extends NetFrame where
  qpn : Nat
  psn : Nat
  first : Bool
  last : Bool
  va : Nat
  rkey : Nat
  len : Nat
  imm : Option W32
  data : List Byte
deriving DecidableEq, Repr

inductive BadFrame where
  | fcs | ip | udp | pack
deriving DecidableEq, Repr

/-- Why a port goes DOWN (R404): loss of signal, loss of FEC alignment, that many uncorrectable codewords within 10 ms, a reconfiguration. -/
inductive LinkCause where
  | signal | fec | codewords (n : Nat) | command
deriving DecidableEq, Repr

inductive RecoveryCause where
  | replays | laneLock
deriving DecidableEq, Repr

inductive FaultTrigger where
  | check | state | bond | channel | hang
deriving DecidableEq, Repr

/-- A vertical bond bundle (R483, Table 18.6): interface 1 to 8, kind (0 core channel, 1 team shaft, 2 owned by no team), the owner
(a core by the numbers of `TripleRef.core`, or a team's node by those of `TripleRef.node`), and the bundle's number within the interface. -/
structure BundleRef where
  iface : Nat
  kind : Nat
  owner : Nat
  bundle : Nat
deriving DecidableEq, Repr

/-- A lane of a bundle that has caused retries, and when, in the model's units of time, rising (R483). -/
structure LaneRetries where
  lane : Nat
  at_ : List Nat
deriving DecidableEq, Repr

/-- A lane that a scan slot measured: its margin in 1/64 UI (R484). -/
structure LaneMargin where
  ref : BundleRef
  lane : Nat
  margin : Nat
deriving DecidableEq, Repr

/-- A clock triple (R487): a core's, by logical core, 2,048 + the logical team for an unused spare core, or 2,304 + 9 u + core for unit u of the eight
physical teams that no logical team uses (two a layer, in order); or one of the three of a team node, by logical team, or 256 + u. -/
inductive TripleRef where
  | core (c : Nat) | node (team idx : Nat)
deriving DecidableEq, Repr

/-- What one scan slot measured (R484, R488): the layer (4 for bundles that no team owns), the physical team whose margin it used, and the lanes. -/
structure ScanFinding where
  layer : Nat
  phys : Nat
  lanes : List LaneMargin
deriving DecidableEq, Repr

/-- Sensors that did not answer in a sample (R501). -/
structure SampleFinding where
  silent : List Nat
deriving DecidableEq, Repr

inductive SuspectCause where
  | disagree | stuck
deriving DecidableEq, Repr

/-- What the flow estimate takes beside what the state holds (R496): the metered draw in W. -/
structure FlowFinding where
  drawW : Nat
deriving DecidableEq, Repr

/-- Stage 1: the rails within their windows, by stage-1 bit (Table 19.10); and what a board programmer has written to the boot flash while RST_N was
low, by flash byte address (R518, R520, R551). -/
structure Stage1Finding where
  rails : Nat
  flash : List (Nat × List Byte)
deriving DecidableEq, Repr

/-- Stage 2: whether the core clock locks within 10 ms; and the bytes of the inactive bank, by offset, that do not hold what the first and the second copy
of the staged image wrote there (R529). -/
structure Stage2Finding where
  clockLocks : Bool
  copy1 : List (Nat × List Byte)
  copy2 : List (Nat × List Byte)
deriving DecidableEq, Repr

/-- Stage 3: failed lanes, clock triples with one bond lost, cores that lost two bonds (physical team, core; physical
teams are numbered layer × 66 + physical team), and whether a fault can be neither repaired nor worked around (Table 17.4). -/
structure Stage3Finding where
  failed : List (BundleRef × Nat)
  oneBond : List TripleRef
  fenced : List (Nat × Nat)
  halt : Bool
deriving DecidableEq, Repr

/-- Stage 4: failing rows of S0 to S3. -/
structure Stage4Finding where
  rows : List Nat
deriving DecidableEq, Repr

/-- Stage 5: hubs present, by bit, and those of them whose SRAM failed; the stacks that fail to train, by pin rate in 0.1 Gb/s; interface lanes repaired, by stack;
harness modules that are down (hub, module of the hub); SRAM rows repaired. -/
structure Stage5Finding where
  hubs : Nat
  sramBad : Nat
  fails : List (Nat × List Nat)
  lanes : List (Nat × Nat)
  modules : List (Nat × Nat)
  sramRows : Nat
deriving DecidableEq, Repr

/-- Stage 6: cores that fail the self-test (physical team, core), row engines that fail (physical team), the peak VIN_T current in 0.1 A, and
whether VIN_T fell below its window during the waves. -/
structure Stage6Finding where
  fenced : List (Nat × Nat)
  rowBad : List Nat
  peak : Nat
  vinLow : Bool
deriving DecidableEq, Repr

/-- Stage 7, the broadcast or a repair round, by core (physical team, core): the packets whose hop CRC failed after the retries, what a core's staging
area holds in place of a packet, and the cores that did not report within 2 ms. -/
structure Stage7Finding where
  undelivered : List ((Nat × Nat) × List Nat)
  damaged : List ((Nat × Nat) × Nat × List Byte)
  late : List (Nat × Nat)
deriving DecidableEq, Repr

/-- Stage 8: the package draw metered over the last 1 ms, in W (R467). -/
structure Stage8Finding where
  drawW : Nat
deriving DecidableEq, Repr

/-- The commands: one constructor per row of the opcode table, in the table's order. -/
inductive Instr where
  /-- DEV_IDENTIFY (R4). -/
  | devIdentify (p : Pkt)
  /-- DEV_RESET (R84). -/
  | devReset (p : Pkt)
  /-- DEV_ECHO (R100). -/
  | devEcho (p : Pkt)
  /-- CS_READ (R101). -/
  | csRead (p : Pkt)
  /-- CS_WRITE (R102). -/
  | csWrite (p : Pkt)
  /-- CS_COMMIT (R91). -/
  | csCommit (p : Pkt)
  /-- CS_DISCARD (R90). -/
  | csDiscard (p : Pkt)
  /-- COMMIT_TIMEOUT (R92). -/
  | commitTimeout
  /-- MEM_READ (R103). -/
  | memRead (p : Pkt)
  /-- MEM_WRITE (R104). -/
  | memWrite (p : Pkt)
  /-- MEM_FILL (R103). -/
  | memFill (p : Pkt)
  /-- MEM_COPY (R103). -/
  | memCopy (p : Pkt)
  /-- SYNC_SET (R106). -/
  | syncSet (p : Pkt)
  /-- SYNC_READ (R106). -/
  | syncRead (p : Pkt)
  /-- STREAM_WAIT (R106). -/
  | streamWait (p : Pkt)
  /-- PROG_LOAD (R133). -/
  | progLoad (p : Pkt)
  /-- PROG_UNLOAD (R107). -/
  | progUnload (p : Pkt)
  /-- TASK_SUBMIT (R108). -/
  | taskSubmit (p : Pkt)
  /-- TASK_CANCEL (R112). -/
  | taskCancel (p : Pkt)
  /-- TENSOR_DEFINE (R372). -/
  | tensorDefine (p : Pkt)
  /-- TENSOR_DROP (R115). -/
  | tensorDrop (p : Pkt)
  /-- STEP_FENCE (R116). -/
  | stepFence (p : Pkt)
  /-- EPOCH_QUERY (R316). -/
  | epochQuery (p : Pkt)
  /-- EVAL_SNAPSHOT (R337). -/
  | evalSnapshot (p : Pkt)
  /-- SNAPSHOT_COPY (R337). -/
  | snapshotCopy
  /-- SNAPSHOT_COPY_DONE (R337). -/
  | snapshotCopyDone
  /-- PACK_DEFINE (R342). -/
  | packDefine (p : Pkt)
  /-- PACK_RELEASE (R117). -/
  | packRelease (p : Pkt)
  /-- PORT_QUERY (R405). -/
  | portQuery (p : Pkt)
  /-- RC_OPEN (R413). -/
  | rcOpen (p : Pkt)
  /-- RC_CLOSE (R413). -/
  | rcClose (p : Pkt)
  /-- FW_CHUNK (R524). -/
  | fwChunk (p : Pkt)
  /-- FW_STATUS (R119). -/
  | fwStatus (p : Pkt)
  /-- FW_ARM (R526). -/
  | fwArm (p : Pkt)
  /-- ID_ATTEST (R535). -/
  | idAttest (p : Pkt)
  /-- ID_PUBKEY (R534). -/
  | idPubkey (p : Pkt)
  /-- THERM_READ (R498). -/
  | thermRead (p : Pkt)
  /-- THERM_WAIVE (R503). -/
  | thermWaive (p : Pkt)
  /-- DIAG_TEAMS (R490). -/
  | diagTeams (p : Pkt)
  /-- DIAG_SCAN (R488). -/
  | diagScan (p : Pkt)
  /-- BRING_STATUS (R468). -/
  | bringStatus (p : Pkt)
  /-- TOPO_READ (R462). -/
  | topoRead (p : Pkt)
  /-- TOPO_ACCEPT (R465). -/
  | topoAccept (p : Pkt)
  /-- TOPO_ABANDON (R466). -/
  | topoAbandon (p : Pkt)
  /-- CLR_OVERRUN (R67). -/
  | clrOverrun (h : Hdr)
  /-- CLR_CARRY (R67). -/
  | clrCarry (h : Hdr)
  /-- TICK_CLR_REC_DROP (R67). -/
  | tickClrRecDrop (h : Hdr)
  /-- QUAR_CLR (R55). -/
  | quarClr (h : Hdr) (team : BitVec 8)
  /-- CLR_PACE (R68). -/
  | clrPace (h : Hdr)
  /-- CLR_SHORTFALL (R68). -/
  | clrShortfall (h : Hdr)
  /-- CLR_MALFORMED (R96). -/
  | clrMalformed (h : Hdr)
  /-- CLR_EVT_DROP (R96). -/
  | clrEvtDrop (h : Hdr)
  /-- CLR_BULK_ORPHAN (R96). -/
  | clrBulkOrphan (h : Hdr)
  /-- CLR_BXL (R445). -/
  | clrBxl (h : Hdr)
  /-- CLR_DEAD_REREAD (R124). -/
  | clrDeadReread (h : Hdr)
  /-- CLR_DEAD_DROP (R311). -/
  | clrDeadDrop (h : Hdr)
  /-- CLR_RED (R311). -/
  | clrRed (h : Hdr)
  /-- CLR_L1 (R311). -/
  | clrL1 (h : Hdr)
  /-- CLR_NM_ERR (R312). -/
  | clrNmErr (h : Hdr)
  /-- CLR_STK_ERR (R312). -/
  | clrStkErr (h : Hdr)
  /-- CLR_AS (R341). -/
  | clrAs (h : Hdr)
  /-- CLR_DROP (R341). -/
  | clrDrop (h : Hdr)
  /-- CLR_TRAP (R270). -/
  | clrTrap (h : Hdr)
  /-- CLR_NAN_CNT (R280). -/
  | clrNanCnt (h : Hdr)
  /-- CLR_ENTRY_DROP (R280). -/
  | clrEntryDrop (h : Hdr)
  /-- CLR_RUNS (R278). -/
  | clrRuns (h : Hdr)
  /-- CLR_ALARM (R280). -/
  | clrAlarm (h : Hdr)
  /-- WATCH_CLR_REC_DROP (R280). -/
  | watchClrRecDrop (h : Hdr)
  /-- CLR_CONTRIB (R368). -/
  | clrContrib (h : Hdr)
  /-- CLR_REFUSED (R368). -/
  | clrRefused (h : Hdr)
  /-- CLR_TALLY (R368). -/
  | clrTally (h : Hdr)
  /-- CLR_VOTE (R368). -/
  | clrVote (h : Hdr)
  /-- CLR_FAIL (R400). -/
  | clrFail (h : Hdr)
  /-- CLR_FACTOR (R400). -/
  | clrFactor (h : Hdr)
  /-- CLR_WAIT (R400). -/
  | clrWait (h : Hdr)
  /-- CLR_LAST (R400). -/
  | clrLast (h : Hdr)
  /-- CLR_CNT (R427). -/
  | clrCnt (h : Hdr) (hub : Nat)
  /-- CLR_REL (R494). -/
  | clrRel (h : Hdr)
  /-- CLR_ALERT (R494). -/
  | clrAlert (h : Hdr)
  /-- CLR_THERM (R517). -/
  | clrTherm (h : Hdr)
  /-- CLR_NET (R536). -/
  | clrNet (h : Hdr)
  /-- BULK_PACKET (R441). -/
  | bulkPacket (tag : W32) (flags : W16) (data : List Byte)
  /-- REPLY_SEND (R82). -/
  | replySend (mgmt : Bool)
  /-- EVENT_QUEUE_SPACE (R86). -/
  | eventQueueSpace
  /-- TICK_BOUNDARY (R41). -/
  | tickBoundary (m : Meter)
  /-- TASK_SPAN_START (R38). -/
  | taskSpanStart
  /-- TICK_OUT_FALL (R43). -/
  | tickOutFall
  /-- REPLAY_MARGIN_OPEN (R42). -/
  | replayMarginOpen
  /-- HOLDOVER (R47). -/
  | holdover
  /-- PPS_EDGE (R44). -/
  | ppsEdge
  /-- PTP_MESSAGE (R410). -/
  | ptpMessage (msg : PtpMsg)
  /-- TICK_OVERRUN (R52). -/
  | tickOverrun (tag : W32)
  /-- QUARANTINE (R54). -/
  | quarantine (team : BitVec 8)
  /-- TASK_END (R138). -/
  | taskEnd (tag : W32)
  /-- GRANT_EXHAUSTED (R57). -/
  | grantExhausted (grantee : Grantee)
  /-- RAMP_WINDOW_END (R63). -/
  | rampWindowEnd
  /-- RESET_RAMP_DONE (R84). -/
  | resetRampDone
  /-- RESET_EFFECT (R439). -/
  | resetEffect
  /-- ADDI (R159). -/
  | addi (r : IArgs)
  /-- ANDI (R159). -/
  | andi (r : IArgs)
  /-- ORI (R159). -/
  | ori (r : IArgs)
  /-- XORI (R159). -/
  | xori (r : IArgs)
  /-- SHIFTI (R159). -/
  | shifti (r : IArgs)
  /-- SLTI (R159). -/
  | slti (r : IArgs)
  /-- MOVZ (R159). -/
  | movz (r : IArgs)
  /-- MOVK (R159). -/
  | movk (r : IArgs)
  /-- ADD (R160). -/
  | add (r : RArgs)
  /-- SUB (R160). -/
  | sub (r : RArgs)
  /-- AND (R160). -/
  | and (r : RArgs)
  /-- OR (R160). -/
  | or (r : RArgs)
  /-- XOR (R160). -/
  | xor (r : RArgs)
  /-- SLL (R160). -/
  | sll (r : RArgs)
  /-- SRL (R160). -/
  | srl (r : RArgs)
  /-- SRA (R160). -/
  | sra (r : RArgs)
  /-- SLT (R160). -/
  | slt (r : RArgs)
  /-- SLTU (R160). -/
  | sltu (r : RArgs)
  /-- MIN (R160). -/
  | min (r : RArgs)
  /-- MAX (R160). -/
  | max (r : RArgs)
  /-- MINU (R160). -/
  | minu (r : RArgs)
  /-- MAXU (R160). -/
  | maxu (r : RArgs)
  /-- MUL (R160). -/
  | mul (r : RArgs)
  /-- MULHS (R160). -/
  | mulhs (r : RArgs)
  /-- MULHU (R160). -/
  | mulhu (r : RArgs)
  /-- DIVS (R160). -/
  | divs (r : RArgs)
  /-- DIVU (R160). -/
  | divu (r : RArgs)
  /-- REMS (R160). -/
  | rems (r : RArgs)
  /-- REMU (R160). -/
  | remu (r : RArgs)
  /-- SEL (R160). -/
  | sel (r : RArgs)
  /-- LD (R161). -/
  | ld (r : MemArgs)
  /-- ST (R161). -/
  | st (r : MemArgs)
  /-- BRANCH (R162). -/
  | branch (r : BArgs)
  /-- JAL (R159). -/
  | jal (r : JArgs)
  /-- JALR (R159). -/
  | jalr (r : IArgs)
  /-- END (R162). -/
  | endThread (r : RArgs)
  /-- NOP (R159). -/
  | nop (r : RArgs)
  /-- SIGNAL (R144). -/
  | signal (r : IArgs)
  /-- SYNC_SIGNAL_APPLY (R146). -/
  | syncSignalApply (src : Nat) (obj : W16)
  /-- WAIT (R144). -/
  | wait (r : RArgs)
  /-- WAKE (R147). -/
  | wake (core : BitVec 11) (obj : W16)
  /-- SREAD (R144). -/
  | sread (r : RArgs)
  /-- SSTART (R151). -/
  | sstart (r : IArgs)
  /-- SWAIT (R151). -/
  | swait (r : IArgs)
  /-- STREAM_COMPLETION (R155). -/
  | streamCompletion (slot : BitVec 14)
  /-- FADD (R163). -/
  | fadd (r : RArgs)
  /-- FSUB (R163). -/
  | fsub (r : RArgs)
  /-- FMUL (R163). -/
  | fmul (r : RArgs)
  /-- FFMA (R163). -/
  | ffma (r : RArgs)
  /-- FDIV (R163). -/
  | fdiv (r : RArgs)
  /-- FSQRT (R163). -/
  | fsqrt (r : RArgs)
  /-- FMIN (R163). -/
  | fmin (r : RArgs)
  /-- FMAX (R163). -/
  | fmax (r : RArgs)
  /-- FABS (R163). -/
  | fabs (r : RArgs)
  /-- FNEG (R163). -/
  | fneg (r : RArgs)
  /-- FCMPEQ (R163). -/
  | fcmpeq (r : RArgs)
  /-- FCMPLT (R163). -/
  | fcmplt (r : RArgs)
  /-- FCMPLE (R163). -/
  | fcmple (r : RArgs)
  /-- FCVT_S64 (R163). -/
  | fcvtS64 (r : RArgs)
  /-- FCVT_F_S64 (R163). -/
  | fcvtFS64 (r : RArgs)
  /-- FCVT_BF16 (R163). -/
  | fcvtBf16 (r : RArgs)
  /-- FCVT_F_BF16 (R163). -/
  | fcvtFBf16 (r : RArgs)
  /-- FCVT_FP16 (R163). -/
  | fcvtFp16 (r : RArgs)
  /-- FCVT_F_FP16 (R163). -/
  | fcvtFFp16 (r : RArgs)
  /-- MMUL (R169). -/
  | mmul (r : MxArgs)
  /-- MMUL_EXECUTE (R174). -/
  | mmulExecute (core : BitVec 11)
  /-- MDRAIN (R169). -/
  | mdrain (r : MxArgs)
  /-- MDRAIN_EXECUTE (R176). -/
  | mdrainExecute (core : BitVec 11)
  /-- MFENCE (R169). -/
  | mfence (r : MxArgs)
  /-- MSTAT (R169). -/
  | mstat (r : MxArgs)
  /-- VCLAIM (R190). -/
  | vclaim (r : VArgs)
  /-- VRELEASE (R190). -/
  | vrelease (r : VArgs)
  /-- VSETVL (R192). -/
  | vsetvl (r : VArgs)
  /-- VSTAT (R202). -/
  | vstat (r : VArgs)
  /-- VLD (R196). -/
  | vld (r : VArgs)
  /-- VST (R196). -/
  | vst (r : VArgs)
  /-- VBCAST (R195). -/
  | vbcast (r : VArgs)
  /-- VEXT (R199). -/
  | vext (r : VArgs)
  /-- VADD (R200). -/
  | vadd (r : VArgs)
  /-- VSUB (R200). -/
  | vsub (r : VArgs)
  /-- VMUL (R200). -/
  | vmul (r : VArgs)
  /-- VFMA (R200). -/
  | vfma (r : VArgs)
  /-- VMIN (R200). -/
  | vmin (r : VArgs)
  /-- VMAX (R200). -/
  | vmax (r : VArgs)
  /-- VABS (R200). -/
  | vabs (r : VArgs)
  /-- VNEG (R200). -/
  | vneg (r : VArgs)
  /-- VDIV (R201). -/
  | vdiv (r : VArgs)
  /-- VSQRT (R201). -/
  | vsqrt (r : VArgs)
  /-- VRCP (R201). -/
  | vrcp (r : VArgs)
  /-- VRSQRT (R201). -/
  | vrsqrt (r : VArgs)
  /-- VEXP2 (R201). -/
  | vexp2 (r : VArgs)
  /-- VLOG2 (R201). -/
  | vlog2 (r : VArgs)
  /-- VAND (R195). -/
  | vand (r : VArgs)
  /-- VOR (R195). -/
  | vor (r : VArgs)
  /-- VXOR (R195). -/
  | vxor (r : VArgs)
  /-- VSHL (R195). -/
  | vshl (r : VArgs)
  /-- VSHR (R195). -/
  | vshr (r : VArgs)
  /-- VCMPEQ (R195). -/
  | vcmpeq (r : VArgs)
  /-- VCMPLT (R195). -/
  | vcmplt (r : VArgs)
  /-- VCMPLE (R195). -/
  | vcmple (r : VArgs)
  /-- VSEL (R195). -/
  | vsel (r : VArgs)
  /-- VCVT (R200). -/
  | vcvt (r : VArgs)
  /-- VPERM (R199). -/
  | vperm (r : VArgs)
  /-- VSLIDEDN (R199). -/
  | vslidedn (r : VArgs)
  /-- VSLIDEUP (R199). -/
  | vslideup (r : VArgs)
  /-- VRED (R203). -/
  | vred (r : VArgs)
  /-- VQMOV (R203). -/
  | vqmov (r : VArgs)
  /-- VQSET (R203). -/
  | vqset (r : VArgs)
  /-- VEP (R207). -/
  | vep (r : VArgs)
  /-- RROW (R225). -/
  | rrow (r : EArgs)
  /-- RFENCE (R224). -/
  | rfence (r : EArgs)
  /-- RSTAT (R224). -/
  | rstat (r : EArgs)
  /-- SMAX_FWD (R215). -/
  | smaxFwd (team : BitVec 8)
  /-- SMAX_BWD (R218). -/
  | smaxBwd (team : BitVec 8)
  /-- LNORM_FWD (R219). -/
  | lnormFwd (team : BitVec 8)
  /-- LNORM_BWD (R220). -/
  | lnormBwd (team : BitVec 8)
  /-- RMS_FWD (R219). -/
  | rmsFwd (team : BitVec 8)
  /-- RMS_BWD (R220). -/
  | rmsBwd (team : BitVec 8)
  /-- CAMAX (R244). -/
  | camax (r : EArgs)
  /-- CAMAX_EXECUTE (R259). -/
  | camaxExecute (core : BitVec 11)
  /-- CCVT (R245). -/
  | ccvt (r : EArgs)
  /-- CCVT_EXECUTE (R246). -/
  | ccvtExecute (core : BitVec 11)
  /-- CDEC (R242). -/
  | cdec (r : EArgs)
  /-- CDEC_EXECUTE (R263). -/
  | cdecExecute (core : BitVec 11)
  /-- CFENCE (R257). -/
  | cfence (r : EArgs)
  /-- CSTAT (R261). -/
  | cstat (r : EArgs)
  /-- APUSH (R324). -/
  | apush (r : SArgs)
  /-- APOP (R325). -/
  | apop (r : SArgs)
  /-- APEEK (R325). -/
  | apeek (r : SArgs)
  /-- AMARK (R324). -/
  | amark (r : SArgs)
  /-- AUNMARK (R325). -/
  | aunmark (r : SArgs)
  /-- AUSED (R324). -/
  | aused (r : SArgs)
  /-- AFENCE (R326). -/
  | afence (r : SArgs)
  /-- STACK_APPLY (R326). -/
  | stackApply (core : BitVec 11)
  /-- PSEND (R346). -/
  | psend (r : PArgs)
  /-- PSEND_EXECUTE (R350). -/
  | psendExecute (core : BitVec 11)
  /-- PFENCE (R346). -/
  | pfence (r : PArgs)
  /-- NWRITE (R414). -/
  | nwrite (r : NArgs)
  /-- NAN_REPORT (R270). -/
  | nanReport (idx : Nat)
  /-- STILL_ALARM (R277). -/
  | stillAlarm
  /-- PARTITION_FLUSH_DONE (R282). -/
  | partitionFlushDone (layer : BitVec 2)
  /-- STACK_SCRUB (R306). -/
  | stackScrub (f : ScrubFinding)
  /-- STACK_LOST (R310). -/
  | stackLost (stack : Nat)
  /-- MODULE_LOST (R489). -/
  | moduleLost (hub : Nat) (module : Nat)
  /-- HUB_LOST (R489). -/
  | hubLost (hub : Nat)
  /-- PUSH_START (R394). -/
  | pushStart
  /-- UPDATE_START (R378). -/
  | updateStart (tensor : W32)
  /-- UPDATE_FINISH (R381). -/
  | updateFinish (tensor : W32)
  /-- UPDATE_INTERRUPT (R396). -/
  | updateInterrupt (tensor : W32) (cause : Interrupt)
  /-- COPYBACK_DONE (R393). -/
  | copybackDone (tensor : W32)
  /-- FACTOR_REFRESH (R388). -/
  | factorRefresh (tensor : W32)
  /-- STAGED_CONVERT (R356). -/
  | stagedConvert (pack : W32) (step : W64) (tensor : W32)
  /-- CONTRIB (R420). -/
  | contrib (m : PackRx)
  /-- SCALE (R423). -/
  | scale (m : PackRx)
  /-- SCALE_ACK (R423). -/
  | scaleAck (m : PackRx)
  /-- ACK (R422). -/
  | ack (m : PackRx)
  /-- REDUCED (R360). -/
  | reduced (m : PackRx)
  /-- SHARD_DONE (R361). -/
  | shardDone (m : PackRx)
  /-- VOTE (R366). -/
  | vote (m : PackRx)
  /-- VOTE_SEND (R364). -/
  | voteSend (pack : W32)
  /-- VOTE_TIMEOUT (R365). -/
  | voteTimeout (pack : W32)
  /-- FALLBACK_DECISION (R367). -/
  | fallbackDecision (pack : W32)
  /-- REPAIR (R424). -/
  | repair (m : PackRx)
  /-- NACK (R425). -/
  | nack (m : PackRx)
  /-- ACK_TIMER (R422). -/
  | ackTimer (key : StreamKey)
  /-- RETRANSMIT (R422). -/
  | retransmit (key : StreamKey)
  /-- SCALE_RESEND (R423). -/
  | scaleResend (pack : W32) (tensor : W32) (dst : W16)
  /-- REPAIR_TIMER (R424). -/
  | repairTimer (pack : W32) (src : W16)
  /-- RDMA_WRITE (R412). -/
  | rdmaWrite (m : RocePkt)
  /-- RDMA_READ (R412). -/
  | rdmaRead (m : RocePkt)
  /-- RC_INVALID_REQUEST (R411). -/
  | rcInvalidRequest (m : RocePkt)
  /-- RC_ACK (R414). -/
  | rcAck (m : RocePkt)
  /-- RC_RETRY (R415). -/
  | rcRetry (hub : Nat) (qpn : Nat)
  /-- CNP_RECEIVED (R411). -/
  | cnpReceived (m : RocePkt)
  /-- RATE_RECOVERY (R411). -/
  | rateRecovery (hub : Nat) (qpn : Nat)
  /-- ARP_REQUEST (R408). -/
  | arpRequest (f : NetFrame)
  /-- NEIGHBOUR_SOLICITATION (R408). -/
  | neighbourSolicitation (f : NetFrame)
  /-- ICMP_DISCARD (R408). -/
  | icmpDiscard (f : NetFrame)
  /-- RX_DROP (R409). -/
  | rxDrop (f : NetFrame)
  /-- MALFORMED_FRAME (R425). -/
  | malformedFrame (f : NetFrame) (kind : BadFrame)
  /-- PFC_FRAME (R407). -/
  | pfcFrame (hub : Nat) (port : Nat) (enable : BitVec 8) (quanta : List W16)
  /-- PFC_WATCHDOG (R407). -/
  | pfcWatchdog (hub : Nat) (port : Nat) (prio : BitVec 3)
  /-- LINK_DOWN (R404). -/
  | linkDown (hub : Nat) (port : Nat) (cause : LinkCause)
  /-- LINK_UP (R404). -/
  | linkUp (hub : Nat) (port : Nat)
  /-- AN_RETRY (R402). -/
  | anRetry (hub : Nat) (port : Nat)
  /-- DATA_FLIT (R433). -/
  | dataFlit (raw : List Byte)
  /-- CREDIT_FLIT (R442). -/
  | creditFlit (raw : List Byte)
  /-- IDLE_FLIT (R432). -/
  | idleFlit (raw : List Byte)
  /-- INIT_FLIT (R437). -/
  | initFlit (raw : List Byte)
  /-- REPLAY_TIMEOUT (R434). -/
  | replayTimeout
  /-- RECOVERY (R435). -/
  | recovery (cause : RecoveryCause)
  /-- SIGNAL_DETECT (R436). -/
  | signalDetect (lane : BitVec 2)
  /-- TRAIN_DONE (R429). -/
  | trainDone (lanesOk : BitVec 4)
  /-- TRAIN_TIMEOUT (R436). -/
  | trainTimeout
  /-- RECOVERY_TIMEOUT (R436). -/
  | recoveryTimeout
  /-- INIT_RESEND (R436). -/
  | initResend
  /-- CORE_FAULT (R473). -/
  | coreFault (core : BitVec 12) (trigger : FaultTrigger) (sealReadable : Bool)
  /-- CORE_HANG (R471). -/
  | coreHang (core : BitVec 11)
  /-- RESTORE_DONE (R474). -/
  | restoreDone (core : BitVec 11)
  /-- TEAM_COMMON_FAULT (R480). -/
  | teamCommonFault (team : BitVec 8)
  /-- LANE_FAIL (R483). -/
  | laneFail (b : BundleRef) (lane : LaneRetries)
  /-- CLOCK_BOND_LOSS (R487). -/
  | clockBondLoss (t : TripleRef)
  /-- FARRIER_SCAN_SLOT (R484). -/
  | farrierScanSlot (f : ScanFinding)
  /-- FFR_WRITE (R481). -/
  | ffrWrite
  /-- SENSOR_SAMPLE (R497). -/
  | sensorSample (readings : List W16) (f : SampleFinding)
  /-- THERMAL_MODEL (R500), with the metered power of each region in W. -/
  | thermalModel (powers : List W16)
  /-- SENSOR_SUSPECT (R501). -/
  | sensorSuspect (sensor : Nat) (cause : SuspectCause)
  /-- FLOW_ESTIMATE (R496). -/
  | flowEstimate (f : FlowFinding)
  /-- FLOW_LOW (R496). -/
  | flowLow
  /-- THROTTLE_DEEPEN (R506). -/
  | throttleDeepen (region : Nat)
  /-- THROTTLE_RELEASE (R506). -/
  | throttleRelease (region : Nat)
  /-- GRACE_END (R507). -/
  | graceEnd (region : Nat)
  /-- THERMAL_TRIP (R512). -/
  | thermalTrip
  /-- TRIP_RELEASE (R512). -/
  | tripRelease
  /-- WINDOW_REOPEN (R513). -/
  | windowReopen
  /-- RAIL_FAULT (R516). -/
  | railFault (rail : Nat)
  /-- RST_N_FALL (R550). -/
  | rstNFall
  /-- RST_N_RISE (R550). -/
  | rstNRise
  /-- MP_WATCHDOG (R448). -/
  | mpWatchdog
  /-- SUPPLIES_AND_RESET (R446). -/
  | suppliesAndReset (f : Stage1Finding)
  /-- CLOCK_AND_MP_BOOT (R529). -/
  | clockAndMpBoot (f : Stage2Finding)
  /-- BOND_SELF_TEST (R446). -/
  | bondSelfTest (f : Stage3Finding)
  /-- NEAR_MEMORY_TEST (R446). -/
  | nearMemoryTest (f : Stage4Finding)
  /-- HUB_BRINGUP (R303). -/
  | hubBringup (f : Stage5Finding)
  /-- COMPUTE_WAVE_RELEASE (R455). -/
  | computeWaveRelease (core : Nat)
  /-- COMPUTE_POWERUP (R457). -/
  | computePowerup (f : Stage6Finding)
  /-- FIRMWARE_BROADCAST (R458). -/
  | firmwareBroadcast (f : Stage7Finding)
  /-- REPAIR_ROUND (R459). -/
  | repairRound (f : Stage7Finding)
  /-- TOPOLOGY_AGREEMENT (R463). -/
  | topologyAgreement (f : Stage8Finding)
  /-- ROLLBACK_FUSE_PROGRAM (R531). -/
  | rollbackFuseProgram
  /-- NET_RING_SCAN (R528). -/
  | netRingScan
  /-- I3C_READ (R552). -/
  | i3cRead (reg : BitVec 8)
  /-- BYPASS (R553). -/
  | bypass
  /-- IDCODE (R553). -/
  | idcode
  /-- SAMPLE_PRELOAD (R553). -/
  | samplePreload
  /-- EXTEST (R553). -/
  | extest
  /-- EXTEST_PULSE (R553). -/
  | extestPulse
  /-- EXTEST_TRAIN (R553). -/
  | extestTrain
  /-- CLAMP (R553). -/
  | clamp
  /-- HIGHZ (R553). -/
  | highz
  /-- TRST_N_LOW (R553). -/
  | trstNLow
  /-- MEMORY_COMMAND_COMPLETE (R104). -/
  | memoryCommandComplete (tag : W32)
  /-- TRICKLE_CAP_RELEASE (R525). -/
  | trickleCapRelease
  /-- COMPUTE_POWER_DOWN_DONE (R466). -/
  | computePowerDownDone
  /-- SPILL_REFILL_DONE (R327). -/
  | spillRefillDone (team : BitVec 8)
deriving DecidableEq, Repr

end Sys2Proof
end

