-- ==== Sys2Proof/Machine/NetHead.lean ====
section
/-! DEFINITION. What the headers of a received frame say (R405 to R409), read from their bytes, most significant first (R6). Their form is the published
one (PRESUMED, log entry 183). -/

namespace Sys2Proof

/-- The number in a run of header bytes, most significant first (R6). -/
def NetFrame.be (f : NetFrame) (off len : Nat) : Nat := ((f.head.drop off).take len).foldl (fun n b => n * 256 + b.toNat) 0

def NetFrame.dstMac (f : NetFrame) : Nat := f.be 0 6
def NetFrame.srcMac (f : NetFrame) : Nat := f.be 6 6
/-- Has the frame an IEEE 802.1Q tag (R406)? -/
def NetFrame.tagged (f : NetFrame) : Bool := f.be 12 2 == 0x8100
/-- Its priority: that of its tag, else 0. -/
def NetFrame.prio (f : NetFrame) : BitVec 3 := if f.tagged then BitVec.ofNat 3 (f.be 14 1 / 32) else 0
/-- First byte after the Ethernet header, and the Ethertype before it. -/
def NetFrame.l3 (f : NetFrame) : Nat := if f.tagged then 18 else 14
def NetFrame.ether (f : NetFrame) : Nat := f.be (f.l3 - 2) 2
def NetFrame.isV4 (f : NetFrame) : Bool := f.ether == 0x0800
def NetFrame.isV6 (f : NetFrame) : Bool := f.ether == 0x86DD
def NetFrame.isArp (f : NetFrame) : Bool := f.ether == 0x0806
/-- Is it a Neighbour Solicitation (RFC 4861)? -/
def NetFrame.isNs (f : NetFrame) : Bool := f.isV6 && f.be (f.l3 + 6) 1 == 58 && f.be (f.l3 + 40) 1 == 135
/-- An IPv4 address in IPv4-mapped form. -/
def NetFrame.v4At (f : NetFrame) (off : Nat) : Nat := 0xFFFF * 2 ^ 32 + f.be off 4
/-- The IP address it goes to, or asks for, 0 where it carries none. -/
def NetFrame.dst (f : NetFrame) : Nat :=
  if f.isArp then f.v4At (f.l3 + 24)
  else if f.isV4 then f.v4At (f.l3 + 16)
  else if f.isNs then f.be (f.l3 + 48) 16
  else if f.isV6 then f.be (f.l3 + 24) 16
  else 0
/-- The IP address it comes from, 0 where it carries none. -/
def NetFrame.src (f : NetFrame) : Nat :=
  if f.isArp then f.v4At (f.l3 + 14) else if f.isV4 then f.v4At (f.l3 + 12) else if f.isV6 then f.be (f.l3 + 8) 16 else 0
/-- The UDP port it goes to, 0 where it is no datagram: no IP options and no extension headers are taken (R408). -/
def NetFrame.udp (f : NetFrame) : Nat :=
  if f.isV4 && f.be (f.l3 + 9) 1 == 17 then f.be (f.l3 + 22) 2
  else if f.isV6 && f.be (f.l3 + 6) 1 == 17 then f.be (f.l3 + 42) 2
  else 0
/-- Is it marked CE (RFC 3168)? -/
def NetFrame.ce (f : NetFrame) : Bool :=
  if f.isV4 then f.be (f.l3 + 1) 1 % 4 == 3 else f.isV6 && f.be f.l3 2 / 16 % 4 == 3

end Sys2Proof
end

