-- ==== Sys2Proof/WellFormed.lean ====
section
/-! DEFINITION. WellFormed: which commands a sender can put: names of hubs, ports, sensors, regions and cores that exist, flits of 256 bytes (R430),
packets no longer than the link hands over (Table 16.6). -/

namespace Sys2Proof

/-- A hub index and a port index (R401). -/
def portNameOk (hub port : Nat) : Bool := decide (hub < 6) && decide (port < 16)

/-- A grantee that some variant has (R56). -/
def granteeOk : Grantee → Bool
  | .team t => decide (t < 256)
  | .hub k => decide (k < 6)
  | .stack n => decide (n < 24)
  | .ballast => true

/-- A clock triple that the part has (R487). -/
def tripleOk : TripleRef → Bool
  | .core c => decide (c < 2376)
  | .node team idx => decide (team < 264) && decide (idx < 3)

/-- A frame carries an Ethernet header, and no more header bytes than it has (R406). -/
def frameOk (f : NetFrame) : Bool := portNameOk f.hub f.port && decide (14 ≤ f.head.length) && decide (f.head.length ≤ max 14 f.size)

/-- Well-formedness of a command. -/
def wellFormed : Instr → Bool
  | .clrCnt _ hub => decide (hub < 6)
  | .bulkPacket _ _ data => decide (data.length ≤ 4088)
  | .ptpMessage msg => frameOk msg.toNetFrame && decide (msg.udp = 0 ∨ msg.udp = 319 ∨ msg.udp = 320)
  | .grantExhausted g => granteeOk g
  | .syncSignalApply src _ => decide (src < 2048)
  | .stackLost stack => decide (stack < 24)
  | .moduleLost hub m => decide (hub < 6) && decide (m < 192)
  | .hubLost hub => decide (hub < 6)
  | .rcRetry hub _ => decide (hub < 6)
  | .rateRecovery hub _ => decide (hub < 6)
  | .malformedFrame f _ => frameOk f
  | .pfcFrame hub port _ quanta => portNameOk hub port && quanta.length == 8
  | .pfcWatchdog hub port _ => portNameOk hub port
  | .linkDown hub port cause => portNameOk hub port && (match cause with | .codewords n => decide (100 < n) | _ => true)
  | .linkUp hub port => portNameOk hub port
  | .anRetry hub port => portNameOk hub port
  | .laneFail b _ => decide (1 ≤ b.iface ∧ b.iface ≤ 8) && decide (b.kind < 3)
  | .clockBondLoss t => tripleOk t
  | .farrierScanSlot f => decide (f.layer < 5) && decide (f.phys < 66)
  | .sensorSample readings f => readings.length == 394 && f.silent.all fun i => decide (i < 394)
  | .thermalModel powers => powers.length == 39
  | .sensorSuspect sensor _ => decide (sensor < 394)
  | .railFault rail => decide (rail < 13)
  | .suppliesAndReset f => decide (f.rails < 2 ^ 13)
  | .nearMemoryTest _ => true
  | .computeWaveRelease core => decide (core < 2376)
  | .devIdentify p | .devReset p | .devEcho p | .csRead p | .csWrite p | .csCommit p | .csDiscard p | .memRead p | .memWrite p
  | .memFill p | .memCopy p | .syncSet p | .syncRead p | .streamWait p | .progLoad p | .progUnload p | .taskSubmit p | .taskCancel p
  | .tensorDefine p | .tensorDrop p | .stepFence p | .epochQuery p | .evalSnapshot p | .packDefine p | .packRelease p | .portQuery p
  | .rcOpen p | .rcClose p | .fwChunk p | .fwStatus p | .fwArm p | .idAttest p | .idPubkey p | .thermRead p | .thermWaive p
  | .diagTeams p | .diagScan p | .bringStatus p | .topoRead p | .topoAccept p | .topoAbandon p => decide (p.params.length ≤ 4068)
  | .contrib m | .scale m | .scaleAck m | .ack m | .reduced m | .shardDone m | .vote m | .repair m | .nack m => frameOk m.toNetFrame && m.udp == 23108
  | .rdmaWrite m | .rdmaRead m | .rcInvalidRequest m | .rcAck m | .cnpReceived m => frameOk m.toNetFrame && m.udp == 4791 && decide (m.psn < 2 ^ 24)
  | .arpRequest f | .neighbourSolicitation f | .icmpDiscard f | .rxDrop f => frameOk f
  | .dataFlit raw | .creditFlit raw | .idleFlit raw | .initFlit raw => raw.length == 256
  | .throttleDeepen region | .throttleRelease region | .graceEnd region => decide (region < 39)
  | .commitTimeout | .snapshotCopy | .snapshotCopyDone | .clrOverrun _ | .clrCarry _ | .tickClrRecDrop _ | .quarClr _ _ | .clrPace _
  | .clrShortfall _ | .clrMalformed _ | .clrEvtDrop _ | .clrBulkOrphan _ | .clrBxl _ | .clrDeadReread _ | .clrDeadDrop _ | .clrRed _
  | .clrL1 _ | .clrNmErr _ | .clrStkErr _ | .clrAs _ | .clrDrop _ | .clrTrap _ | .clrNanCnt _ | .clrEntryDrop _ | .clrRuns _
  | .clrAlarm _ | .watchClrRecDrop _ | .clrContrib _ | .clrRefused _ | .clrTally _ | .clrVote _ | .clrFail _ | .clrFactor _
  | .clrWait _ | .clrLast _ | .clrRel _ | .clrAlert _ | .clrTherm _ | .clrNet _ | .replySend _ | .eventQueueSpace | .tickBoundary _
  | .taskSpanStart | .tickOutFall | .replayMarginOpen | .holdover | .ppsEdge | .tickOverrun _ | .quarantine _ | .taskEnd _
  | .rampWindowEnd | .resetRampDone | .resetEffect | .addi _ | .andi _ | .ori _ | .xori _ | .shifti _ | .slti _ | .movz _ | .movk _
  | .add _ | .sub _ | .and _ | .or _ | .xor _ | .sll _ | .srl _ | .sra _ | .slt _ | .sltu _ | .min _ | .max _ | .minu _ | .maxu _
  | .mul _ | .mulhs _ | .mulhu _ | .divs _ | .divu _ | .rems _ | .remu _ | .sel _ | .ld _ | .st _ | .branch _ | .jal _ | .jalr _
  | .endThread _ | .nop _ | .signal _ | .wait _ | .wake _ _ | .sread _ | .sstart _ | .swait _ | .streamCompletion _ | .fadd _
  | .fsub _ | .fmul _ | .ffma _ | .fdiv _ | .fsqrt _ | .fmin _ | .fmax _ | .fabs _ | .fneg _ | .fcmpeq _ | .fcmplt _ | .fcmple _
  | .fcvtS64 _ | .fcvtFS64 _ | .fcvtBf16 _ | .fcvtFBf16 _ | .fcvtFp16 _ | .fcvtFFp16 _ | .mmul _ | .mmulExecute _ | .mdrain _
  | .mdrainExecute _ | .mfence _ | .mstat _ | .vclaim _ | .vrelease _ | .vsetvl _ | .vstat _ | .vld _ | .vst _ | .vbcast _ | .vext _
  | .vadd _ | .vsub _ | .vmul _ | .vfma _ | .vmin _ | .vmax _ | .vabs _ | .vneg _ | .vdiv _ | .vsqrt _ | .vrcp _ | .vrsqrt _
  | .vexp2 _ | .vlog2 _ | .vand _ | .vor _ | .vxor _ | .vshl _ | .vshr _ | .vcmpeq _ | .vcmplt _ | .vcmple _ | .vsel _ | .vcvt _
  | .vperm _ | .vslidedn _ | .vslideup _ | .vred _ | .vqmov _ | .vqset _ | .vep _ | .rrow _ | .rfence _ | .rstat _ | .smaxFwd _
  | .smaxBwd _ | .lnormFwd _ | .lnormBwd _ | .rmsFwd _ | .rmsBwd _ | .camax _ | .camaxExecute _ | .ccvt _ | .ccvtExecute _ | .cdec _
  | .cdecExecute _ | .cfence _ | .cstat _ | .apush _ | .apop _ | .apeek _ | .amark _ | .aunmark _ | .aused _ | .afence _
  | .stackApply _ | .psend _ | .psendExecute _ | .pfence _ | .nwrite _ | .nanReport _ | .stillAlarm | .partitionFlushDone _
  | .stackScrub _ | .pushStart | .updateStart _ | .updateFinish _ | .updateInterrupt _ _ | .copybackDone _ | .factorRefresh _
  | .stagedConvert _ _ _ | .voteSend _ | .voteTimeout _ | .fallbackDecision _ | .ackTimer _ | .retransmit _ | .scaleResend _ _ _
  | .repairTimer _ _ | .replayTimeout | .recovery _ | .signalDetect _ | .trainDone _ | .trainTimeout | .recoveryTimeout | .initResend
  | .coreFault _ _ _ | .coreHang _ | .restoreDone _ | .teamCommonFault _ | .ffrWrite | .flowEstimate _ | .flowLow | .thermalTrip
  | .tripRelease | .windowReopen | .rstNFall | .rstNRise | .mpWatchdog | .clockAndMpBoot _ | .bondSelfTest _ | .hubBringup _
  | .computePowerup _ | .firmwareBroadcast _ | .repairRound _ | .topologyAgreement _ | .rollbackFuseProgram | .netRingScan
  | .i3cRead _ | .bypass | .idcode | .samplePreload | .extest | .extestPulse | .extestTrain | .clamp | .highz | .trstNLow
  | .memoryCommandComplete _ | .trickleCapRelease | .computePowerDownDone | .spillRefillDone _ => true

end Sys2Proof
end

