-- ==== Sys2Proof/Decode.lean ====
section
/-! DEFINITION. Decoding. The opcode table gives none of its rows any bits (every row's list of fields is empty), so no table word spells a command.
The instruction words that cores fetch have their own encodings (R158, Tables 05.13 to 05.16, 06.2, 07.2, 08.3, 09.4, 12.3, 13.1, R195, R414): `decodeInsn`
reads them. -/

namespace Sys2Proof

open Machine

/-- The command that a word of `nbits` bits spells by the table's bits: no row gives bits, so there is none. -/
def decodeTableWord (nbits w : Nat) : Option Instr :=
  match nbits, w with
  | _, _ => none

/-! ### The layouts of an instruction word issued by thread `t` of core `c` -/

/-- Layout R with `rsv` for the bits that the row leaves reserved (Table 05.13). -/
def wordR (c t w rsv : Nat) : RArgs :=
  ⟨BitVec.ofNat 11 c, BitVec.ofNat 10 t, BitVec.ofNat 5 (fld w 21 5), BitVec.ofNat 5 (fld w 16 5), BitVec.ofNat 5 (fld w 11 5), BitVec.ofNat 11 rsv⟩
/-- Layout I. -/
def wordI (c t w : Nat) : IArgs :=
  ⟨BitVec.ofNat 11 c, BitVec.ofNat 10 t, BitVec.ofNat 5 (fld w 21 5), BitVec.ofNat 5 (fld w 16 5), BitVec.ofNat 16 (fld w 0 16)⟩
/-- Layout M. -/
def wordM (c t w : Nat) : MemArgs :=
  ⟨BitVec.ofNat 11 c, BitVec.ofNat 10 t, BitVec.ofNat 5 (fld w 21 5), BitVec.ofNat 5 (fld w 16 5), BitVec.ofNat 3 (fld w 13 3), bit w 12, bit w 11,
    BitVec.ofNat 11 (fld w 0 11)⟩
/-- Layout B. -/
def wordB (c t w : Nat) (op : BrOp) : BArgs :=
  ⟨BitVec.ofNat 11 c, BitVec.ofNat 10 t, op, BitVec.ofNat 5 (fld w 21 5), BitVec.ofNat 5 (fld w 16 5), BitVec.ofNat 16 (fld w 0 16)⟩
/-- Layout J. -/
def wordJ (c t w : Nat) : JArgs := ⟨BitVec.ofNat 11 c, BitVec.ofNat 10 t, BitVec.ofNat 26 (fld w 0 26)⟩
/-- A matrix instruction (Table 06.2). -/
def wordMx (c t w : Nat) : MxArgs :=
  ⟨BitVec.ofNat 11 c, BitVec.ofNat 10 t, BitVec.ofNat 3 (fld w 19 3), BitVec.ofNat 5 (fld w 14 5), BitVec.ofNat 5 (fld w 9 5), BitVec.ofNat 5 (fld w 4 5),
    bit w 3, BitVec.ofNat 3 (fld w 0 3)⟩
/-- A vector instruction (R195). -/
def wordV (c t w : Nat) : VArgs :=
  ⟨BitVec.ofNat 11 c, BitVec.ofNat 10 t, BitVec.ofNat 5 (fld w 15 5), BitVec.ofNat 5 (fld w 10 5), BitVec.ofNat 5 (fld w 5 5), BitVec.ofNat 2 (fld w 3 2),
    bit w 2, BitVec.ofNat 2 (fld w 0 2)⟩
/-- A row-engine or conversion instruction (Tables 08.3, 09.4). -/
def wordE (c t w : Nat) : EArgs :=
  ⟨BitVec.ofNat 11 c, BitVec.ofNat 10 t, BitVec.ofNat 5 (fld w 17 5), bit w 16, BitVec.ofNat 16 (fld w 0 16)⟩
/-- An activation-stack instruction (Table 12.3). -/
def wordS (c t w : Nat) : SArgs :=
  ⟨BitVec.ofNat 11 c, BitVec.ofNat 10 t, BitVec.ofNat 5 (fld w 17 5), BitVec.ofNat 5 (fld w 12 5), BitVec.ofNat 12 (fld w 0 12)⟩
/-- A pack instruction (Table 13.1). -/
def wordP (c t w : Nat) : PArgs :=
  ⟨BitVec.ofNat 11 c, BitVec.ofNat 10 t, BitVec.ofNat 5 (fld w 17 5), BitVec.ofNat 17 (fld w 0 17)⟩
/-- NWRITE (R414). -/
def wordN (c t w : Nat) : NArgs :=
  ⟨BitVec.ofNat 11 c, BitVec.ofNat 10 t, BitVec.ofNat 4 (fld w 22 4), BitVec.ofNat 5 (fld w 17 5), BitVec.ofNat 3 (fld w 14 3),
    BitVec.ofNat 14 (fld w 0 14)⟩

/-! ### The FUNC codes of each major opcode, in ascending order -/

/-- Table 05.15. -/
def funcAlu : List (RArgs → Instr) :=
  [.add, .sub, .and, .or, .xor, .sll, .srl, .sra, .slt, .sltu, .min, .max, .minu, .maxu, .mul, .mulhs, .mulhu, .divs, .divu, .rems, .remu, .sel]
/-- Table 05.16. -/
def funcFloat : List (RArgs → Instr) :=
  [.fadd, .fsub, .fmul, .ffma, .fdiv, .fsqrt, .fmin, .fmax, .fabs, .fneg, .fcmpeq, .fcmplt, .fcmple, .fcvtS64, .fcvtFS64, .fcvtBf16, .fcvtFBf16,
   .fcvtFp16, .fcvtFFp16]
/-- Table 06.2. -/
def funcMatrix : List (MxArgs → Instr) := [.mmul, .mdrain, .mfence, .mstat]
/-- Table 07.2. -/
def funcVector : List (VArgs → Instr) :=
  [.vclaim, .vrelease, .vsetvl, .vstat, .vld, .vst, .vbcast, .vext] ++
  [.vadd, .vsub, .vmul, .vfma, .vmin, .vmax, .vabs, .vneg] ++
  [.vdiv, .vsqrt, .vrcp, .vrsqrt, .vexp2, .vlog2, .vand, .vor] ++
  [.vxor, .vshl, .vshr, .vcmpeq, .vcmplt, .vcmple, .vsel, .vcvt] ++
  [.vperm, .vslidedn, .vslideup, .vred, .vqmov, .vqset, .vep]
/-- Table 08.3. -/
def funcRow : List (EArgs → Instr) := [.rrow, .rfence, .rstat]
/-- Table 09.4. -/
def funcConv : List (EArgs → Instr) := [.camax, .ccvt, .cdec, .cfence, .cstat]
/-- Table 12.3. -/
def funcStack : List (SArgs → Instr) := [.apush, .apop, .apeek, .amark, .aunmark, .aused, .afence]
/-- Table 13.1. -/
def funcPack : List (PArgs → Instr) := [.psend, .pfence]
/-- The branches, from major 0b001011 (Table 05.14). -/
def branchOps : List BrOp := [.beq, .bne, .blt, .bge, .bltu, .bgeu]

/-- The instruction that a word spells for thread `t` of logical core `c` (R158, Table 05.14); `none` where its major opcode is not in the table or its
FUNC is not listed for its major (R159). Reserved fields stay in the operands, where the instruction itself checks them. -/
def decodeInsn (c t w : Nat) : Option Instr :=
  match fld w 26 6 with
  | 0b000000 => funcAlu[fld w 0 11]?.map fun i => i (wordR c t w 0)
  | 0b000001 => some (.addi (wordI c t w))
  | 0b000010 => some (.andi (wordI c t w))
  | 0b000011 => some (.ori (wordI c t w))
  | 0b000100 => some (.xori (wordI c t w))
  | 0b000101 => some (.shifti (wordI c t w))
  | 0b000110 => some (.slti (wordI c t w))
  | 0b000111 => some (.movz (wordI c t w))
  | 0b001000 => some (.movk (wordI c t w))
  | 0b001001 => some (.ld (wordM c t w))
  | 0b001010 => some (.st (wordM c t w))
  | 0b010001 => some (.jal (wordJ c t w))
  | 0b010010 => some (.jalr (wordI c t w))
  | 0b010011 =>
    match fld w 0 11 with
    | 0 => some (.endThread (wordR c t w 0))
    | 1 => some (.nop (wordR c t w 0))
    | _ => none
  | 0b010100 => some (.signal (wordI c t w))
  | 0b010101 => some (.wait (wordR c t w (fld w 0 11)))
  | 0b010110 => some (.sread (wordR c t w (fld w 0 11)))
  | 0b010111 => some (.sstart (wordI c t w))
  | 0b011000 => some (.swait (wordI c t w))
  | 0b011001 => funcFloat[fld w 0 11]?.map fun i => i (wordR c t w 0)
  | 0b101100 => funcMatrix[fld w 22 4]?.map fun i => i (wordMx c t w)
  | 0b101101 => funcVector[fld w 20 6]?.map fun i => i (wordV c t w)
  | 0b101110 => funcRow[fld w 22 4]?.map fun i => i (wordE c t w)
  | 0b101111 => funcConv[fld w 22 4]?.map fun i => i (wordE c t w)
  | 0b110000 => funcStack[fld w 22 4]?.map fun i => i (wordS c t w)
  | 0b110001 => funcPack[fld w 22 4]?.map fun i => i (wordP c t w)
  | 0b110010 => some (.nwrite (wordN c t w))
  | m => if 0b001011 ≤ m ∧ m ≤ 0b010000 then (branchOps[m - 0b001011]?).map fun op => .branch (wordB c t w op) else none

end Sys2Proof
end

