-- ==== Sys2Proof/Machine/Crc.lean ====
section
/-! DEFINITION. CRC-32C (R73). -/

namespace Sys2Proof.Machine

/-- One bit of the reflected division by the Castagnoli polynomial. -/
def crcBit (c : Nat) : Nat := if c % 2 = 1 then (c / 2) ^^^ 0x82F63B78 else c / 2

/-- One byte of the division. -/
def crcByte (c : Nat) (b : Byte) : Nat :=
  crcBit (crcBit (crcBit (crcBit (crcBit (crcBit (crcBit (crcBit (c ^^^ b.toNat))))))))

/-- CRC-32C of a byte string: reflected, initial value and final XOR all ones (R73). -/
def crc32c (bs : List Byte) : Nat := (bs.foldl crcByte 0xFFFFFFFF) ^^^ 0xFFFFFFFF

end Sys2Proof.Machine
end

