-- ==== Sys2Proof/Config.lean ====
section
/-! DEFINITION. Config: the free values of the model. Every constant here is opaque: the spec fixes no value for it, and nothing
in Lean can see one. A claim about the model holds whatever these are. -/

namespace Sys2Proof.Config

/-- A fresh value the spec leaves open (undefined contents, an unstated number), by the number of the draw that the
state's counter `draws` gives. Log entry 3. -/
opaque freeWord : Nat → Nat

/-- What the near-memory scratch and the other bytes the spec calls undefined hold, by draw and address. Log entry 3. -/
opaque freeByte : Nat → Nat → BitVec 8

/-- Which of the values within the stated ulp bound a fast-mode function returns (R163, R201): a fixed function of the
operation and its operands, identical on every core. Log entry 4. -/
opaque fastPick : Nat → Nat → Nat → Nat

/-- Whether strict mode raises INVALID for a fused multiply-add of 0 and ∞ with a quiet NaN addend (IEEE 754-2019 leaves
it to the implementation). Log entry 5. -/
opaque fmaInvalidOnQuietNan : Bool

/-- The device identity key's public point, X and Y, 132 bytes (R534). Log entry 6. -/
opaque identityKey : List (BitVec 8)

/-- The endorsement of the identity key (R534). Log entry 6. -/
opaque identityEndorsement : List (BitVec 8)

/-- ECDSA signature with the identity key over a report (R535). Log entry 6. -/
opaque identitySign : List (BitVec 8) → List (BitVec 8)

/-- SHA-512 of the root key that signs firmware, in fuses (R522). Log entry 6. -/
opaque rootKeyHash : List (BitVec 8)

/-- The boot ROM's measurement (R535). Log entry 6. -/
opaque romMeasurement : List (BitVec 8)

/-- The length of the prefix a stopped stream has moved, in 64-byte units (R154). Log entry 7. -/
opaque streamPrefix : Nat → Nat

/-- What the conversion leaves in the pool bytes of a stored row that hold no side-list entry, by position in the pool
(R240 gives them no content): a fixed function of the position, as R251 asks. Log entry 8. -/
opaque poolFill : Nat → BitVec 8

/-- The hash by which a sender spreads its pack streams over its ports (R418), by destination member and address index. Log entry 9. -/
opaque portHash : Nat → Nat → Nat

/-- Which learning rate applies when both entries of a hyperparameter block name the same step (R377): the first one? Log entry 10. -/
opaque lrTieFirst : Bool

/-- By how many thousandths of a °C the outlet runs above the lowest rise that R495's rounded figure of a fluid (is it glycol?) admits at 6 L/min and
3,400 W. Log entry 180. -/
opaque fluidRise : Bool → Nat

/-- The flow in 0.01 L/min that the heat balance of R496 gives while the outlet is no warmer than the inlet, by fluid, draw in W, and outlet less inlet
temperature in 1/16 °C. Log entry 180. -/
opaque flowEstimate : Bool → Nat → Int → Nat

/-- The thermal model's estimate of a sensor location in 1/16 °C (R500): from the location, whose thermal resistance a fuse holds, the inlet temperature in
1/16 °C, the flow in 0.01 L/min, the metered power of its region in W, and the readings that its neighbours feed. Log entry 180. -/
opaque tempEstimate : Nat → Int → Nat → Nat → List (Nat × Int) → Int

/-- Draw in W that ballast on one team adds, by team: the ballast planner's model (R66 gives no figure). Log entry 146. -/
opaque ballastWatts : Nat → Nat

/-- The header fields of a sent frame that the spec does not fix, by the frame's number and the field's. Log entry 154. -/
opaque frameField : Nat → Nat → Nat

/-- Bytes of a priority's receive buffer that leave it in one ck, by the time and the priority's number on the device (R407 gives no rate). Log
entry 155. -/
opaque rxDrained : Nat → Nat → Nat

/-- Harness credits that each module has in each direction after bring-up (R28 gives no number). Log entry 149. -/
opaque harnessCredits : Nat

/-- Records of a team after a fault of its common domain (R480): index and contents, by draw. Log entry 3. -/
opaque freeRecords : Nat → List (Nat × Nat)

/-- Frames of a team's activation stack after such a fault, by draw: whether a mark, tag, user word, data. Log entry 3. -/
opaque freeFrames : Nat → List (Bool × Nat × Nat × List (BitVec 8))

end Sys2Proof.Config
end

