-- ==== Sys2Proof/Machine/Sparse.lean ====
section
/-! DEFINITION. Sparse tables: lists of (key, value) pairs with strictly rising keys and no entry equal to what an
unlisted key reads as, so that equal tables are equal lists. -/

namespace Sys2Proof.Machine

/-- The value listed under a key. -/
def smGet? {α : Type} : List (Nat × α) → Nat → Option α
  | [], _ => none
  | (k, v) :: m, a => if k = a then some v else if a < k then none else smGet? m a

/-- The value under a key; an unlisted key reads `d`. -/
def smGet {α : Type} (d : α) (m : List (Nat × α)) (a : Nat) : α := (smGet? m a).getD d

/-- List `v` under the key, replacing what was there. -/
def smIns {α : Type} : List (Nat × α) → Nat → α → List (Nat × α)
  | [], a, v => [(a, v)]
  | (k, w) :: m, a, v =>
    if k = a then (a, v) :: m else if a < k then (a, v) :: (k, w) :: m else (k, w) :: smIns m a v

/-- Remove the key. -/
def smDel {α : Type} : List (Nat × α) → Nat → List (Nat × α)
  | [], _ => []
  | (k, w) :: m, a => if k = a then m else if a < k then (k, w) :: m else (k, w) :: smDel m a

/-- Write `v` under the key, keeping the canonical form: the default value is never listed. -/
def smSet {α : Type} [DecidableEq α] (d : α) (m : List (Nat × α)) (a : Nat) (v : α) : List (Nat × α) :=
  if v = d then smDel m a else smIns m a v

/-- Every key is above `lo`, keys rise strictly, and no entry holds the default. -/
def smWfFrom {α : Type} [DecidableEq α] (d : α) : Option Nat → List (Nat × α) → Bool
  | _, [] => true
  | lo, (k, v) :: m =>
    (match lo with | none => true | some l => decide (l < k)) && decide (v ≠ d) && smWfFrom d (some k) m

/-- The canonical form of a sparse table with default `d`. -/
def smWf {α : Type} [DecidableEq α] (d : α) (m : List (Nat × α)) : Bool := smWfFrom d none m

/-- Change the value under a key. -/
def smMod {α : Type} [DecidableEq α] (d : α) (m : List (Nat × α)) (a : Nat) (f : α → α) : List (Nat × α) :=
  smSet d m a (f (smGet d m a))

/-- Strictly rising keys, for a table whose entries all count (no default). -/
def keysRise {α : Type} : Option Nat → List (Nat × α) → Bool
  | _, [] => true
  | lo, (k, _) :: m => (match lo with | none => true | some l => decide (l < k)) && keysRise (some k) m

/-- Add one to the number under the key (a counter table, unlisted keys read 0). -/
def smInc (m : List (Nat × Nat)) (a : Nat) : List (Nat × Nat) := smSet 0 m a (smGet 0 m a + 1)

/-- `xs` with the element at `i` changed; out of range, unchanged. -/
def listMod {α : Type} (xs : List α) (i : Nat) (f : α → α) : List α :=
  match xs, i with
  | [], _ => []
  | x :: t, 0 => f x :: t
  | x :: t, i + 1 => x :: listMod t i f

end Sys2Proof.Machine
end

