-- ==== Sys2Proof/Machine/Float.lean ====
section
/-! DEFINITION. Binary floating point: exact values, correct rounding, the fast-mode functions, and the block sums of R174
and R204 (R163, R200, R201, R265, R266). -/

namespace Sys2Proof.Machine

/-- An IEEE-shaped binary format: exponent bits and mantissa bits (Table 09.1). -/
structure FpFmt where
  eb : Nat
  mb : Nat
deriving DecidableEq, Repr

def f32 : FpFmt := ⟨8, 23⟩
def bf16 : FpFmt := ⟨8, 7⟩
def f16 : FpFmt := ⟨5, 10⟩
def e5m2 : FpFmt := ⟨5, 2⟩

/-- An exact value: a NaN, an infinity, or `(-1)^neg × m × 2^e`; a zero keeps its sign. -/
inductive FVal where
  | nan
  | inf (neg : Bool)
  | fin (neg : Bool) (m : Nat) (e : Int)
deriving DecidableEq, Repr

/-- Bits of a result with the IEEE flags it raises, coded as VSTAT codes them less 8: 1 invalid, 2 divide by zero,
4 overflow, 8 underflow, 16 inexact (Table 07.4). -/
structure FpRes where
  bits : Nat
  flags : Nat
deriving DecidableEq, Repr

namespace FpFmt
def bias (f : FpFmt) : Int := (2 ^ (f.eb - 1) : Nat) - 1
/-- Exponent of the smallest subnormal. -/
def qmin (f : FpFmt) : Int := 1 - f.bias - f.mb
def expMax (f : FpFmt) : Nat := 2 ^ f.eb - 1
def infBits (f : FpFmt) : Nat := f.expMax <<< f.mb
def width (f : FpFmt) : Nat := 1 + f.eb + f.mb
end FpFmt

def fpSign (f : FpFmt) (neg : Bool) (b : Nat) : Nat := if neg then b + 2 ^ (f.eb + f.mb) else b
def fpNeg? (f : FpFmt) (b : Nat) : Bool := b.testBit (f.eb + f.mb)
def fpMag (f : FpFmt) (b : Nat) : Nat := b % 2 ^ (f.eb + f.mb)
/-- The canonical NaN of Table 06.7. -/
def fpCanon (f : FpFmt) : Nat := f.infBits + 2 ^ (f.mb - 1)
def fpIsNan (f : FpFmt) (b : Nat) : Bool := decide (f.infBits < fpMag f b)
def fpIsInf (f : FpFmt) (b : Nat) : Bool := fpMag f b == f.infBits
def fpIsZero (f : FpFmt) (b : Nat) : Bool := fpMag f b == 0
def fpIsSnan (f : FpFmt) (b : Nat) : Bool := fpIsNan f b && !b.testBit (f.mb - 1)
/-- A NaN made quiet. -/
def fpQuiet (f : FpFmt) (b : Nat) : Nat := if b.testBit (f.mb - 1) then b else b + 2 ^ (f.mb - 1)

/-- The exact value of a code. -/
def fpVal (f : FpFmt) (b : Nat) : FVal :=
  let mag := fpMag f b
  let neg := fpNeg? f b
  let e := mag >>> f.mb
  let m := mag % 2 ^ f.mb
  if e = f.expMax then (if m = 0 then .inf neg else .nan)
  else if e = 0 then .fin neg m f.qmin
  else .fin neg (m + 2 ^ f.mb) (f.qmin + e - 1)

/-- `⌊log2 (num / den)⌋` of a positive rational. -/
def ratLog2 (num den : Nat) : Int :=
  let l : Int := (Nat.log2 num : Int) - Nat.log2 den
  if num * 2 ^ (-l).toNat < den * 2 ^ l.toNat then l - 1 else l

/-- Rounding directions of a magnitude. -/
inductive RMode where
  | near | down | up
deriving DecidableEq, Repr

/-- The code of a positive magnitude `num / den` on the grid with `mb` mantissa bits and smallest step `2 ^ qmin`, with no upper
bound, and whether the rounding was inexact. Codes count grid values in order from 0. -/
def gridRound (mb : Nat) (qmin : Int) (mode : RMode) (num den : Nat) : Nat × Bool :=
  if num = 0 then (0, false) else
  let e := ratLog2 num den
  let q := max (e - mb) qmin
  let n := num * 2 ^ (-q).toNat
  let d := den * 2 ^ q.toNat
  let m := n / d
  let r := n % d
  let up := match mode with
    | .near => decide (d < 2 * r) || (decide (2 * r = d) && m % 2 == 1)
    | .down => false
    | .up => decide (0 < r)
  let m' := if up then m + 1 else m
  ((q - qmin).toNat * 2 ^ mb + m', decide (r ≠ 0))

/-- The magnitude a grid code stands for, as mantissa and exponent. -/
def gridVal (mb : Nat) (qmin : Int) (c : Nat) : Nat × Int :=
  let e := c >>> mb
  if e = 0 then (c, qmin) else (c % 2 ^ mb + 2 ^ mb, qmin + e - 1)

/-- A dyadic magnitude as a quotient. -/
def dyNum (m : Nat) (e : Int) : Nat := m * 2 ^ e.toNat
def dyDen (e : Int) : Nat := 2 ^ (-e).toNat

/-- Round a signed rational to the format with round-to-nearest-even; overflow gives ±∞; flags under IEEE 754-2019 with
underflow after rounding (R201). -/
def fpRoundQ (f : FpFmt) (neg : Bool) (num den : Nat) : FpRes :=
  let r := gridRound f.mb f.qmin .near num den
  if f.infBits ≤ r.1 then ⟨fpSign f neg f.infBits, 4 + 16⟩
  else
    let emin := f.qmin + f.mb
    let k : Int := f.mb + 2 - emin
    let tiny := decide (num ≠ 0) &&
      decide (num * 2 ^ k.toNat < (2 ^ (f.mb + 2) - 1) * den * 2 ^ (-k).toNat)
    ⟨fpSign f neg r.1, if r.2 then 16 + (if tiny then 8 else 0) else 0⟩

/-- Round an exact value; a NaN gives the canonical NaN. -/
def fpOfVal (f : FpFmt) : FVal → FpRes
  | .nan => ⟨fpCanon f, 0⟩
  | .inf neg => ⟨fpSign f neg f.infBits, 0⟩
  | .fin neg m e => fpRoundQ f neg (dyNum m e) (dyDen e)

def fvNeg : FVal → FVal
  | .nan => .nan
  | .inf s => .inf (!s)
  | .fin s m e => .fin (!s) m e

/-- Exact product; ∞ × 0 is NaN. -/
def fvMul : FVal → FVal → FVal
  | .nan, _ => .nan
  | _, .nan => .nan
  | .inf s, .inf t => .inf (s != t)
  | .inf s, .fin t m _ => if m = 0 then .nan else .inf (s != t)
  | .fin s m _, .inf t => if m = 0 then .nan else .inf (s != t)
  | .fin s m e, .fin t n g => .fin (s != t) (m * n) (e + g)

/-- Exact signed mantissa at exponent `e0 ≤ e`. -/
def fvInt (neg : Bool) (m : Nat) (e e0 : Int) : Int :=
  let v : Int := (m * 2 ^ (e - e0).toNat : Nat)
  if neg then -v else v

/-- Exact sum; opposite infinities give NaN; an exact zero sum is −0 only when both operands are −0. -/
def fvAdd : FVal → FVal → FVal
  | .nan, _ => .nan
  | _, .nan => .nan
  | .inf s, .inf t => if s = t then .inf s else .nan
  | .inf s, .fin .. => .inf s
  | .fin .., .inf t => .inf t
  | .fin s m e, .fin t n g =>
    let e0 := min e g
    let v := fvInt s m e e0 + fvInt t n g e0
    if v = 0 then .fin (s && t && m == 0 && n == 0) 0 0
    else .fin (decide (v < 0)) v.natAbs e0

/-- Compare two exact numbers: `some true` when `x < y`. `none` when a NaN is present. -/
def fvLt (x y : FVal) : Option Bool :=
  match x, y with
  | .nan, _ => none
  | _, .nan => none
  | .inf s, .inf t => some (s && !t)
  | .inf s, .fin .. => some s
  | .fin .., .inf t => some (!t)
  | .fin s m e, .fin t n g =>
    let e0 := min e g
    some (decide (fvInt s m e e0 < fvInt t n g e0))

def fvEq (x y : FVal) : Option Bool :=
  match fvLt x y, fvLt y x with
  | some a, some b => some (!a && !b)
  | _, _ => none

def fvIsZero : FVal → Bool
  | .fin _ m _ => m == 0
  | _ => false

/-- The NaN a unit writes: fast mode, the canonical NaN; strict mode, the first NaN operand made quiet, else the canonical
NaN (R163, R201, R266). -/
def fpNanOf (f : FpFmt) (strict : Bool) (ops : List Nat) : Nat :=
  if strict then
    match ops.find? (fpIsNan f) with
    | some b => fpQuiet f b
    | none => fpCanon f
  else fpCanon f

/-- Finish an operation on codes: choose the NaN, raise INVALID for a signalling operand or a NaN made from numbers. -/
def fpFinish (f : FpFmt) (strict : Bool) (ops : List Nat) (v : FVal) : FpRes :=
  let anyNan := ops.any (fpIsNan f)
  let snan := ops.any (fpIsSnan f)
  if anyNan then ⟨fpNanOf f strict ops, if snan then 1 else 0⟩
  else match v with
    | .nan => ⟨fpCanon f, 1⟩
    | v => fpOfVal f v

def fpAdd (f : FpFmt) (strict : Bool) (a b : Nat) : FpRes :=
  fpFinish f strict [a, b] (fvAdd (fpVal f a) (fpVal f b))

/-- Subtraction: the second operand's sign is flipped for the sum only; a NaN operand keeps its own bits. -/
def fpSub (f : FpFmt) (strict : Bool) (a b : Nat) : FpRes :=
  fpFinish f strict [a, b] (fvAdd (fpVal f a) (fvNeg (fpVal f b)))

def fpMul (f : FpFmt) (strict : Bool) (a b : Nat) : FpRes :=
  fpFinish f strict [a, b] (fvMul (fpVal f a) (fpVal f b))

/-- `a × b + c` rounded once; operands in the order A, B, D. -/
def fpFma (f : FpFmt) (strict : Bool) (a b c : Nat) : FpRes :=
  let p := fvMul (fpVal f a) (fpVal f b)
  let r := fpFinish f strict [a, b, c] (fvAdd p (fpVal f c))
  let zeroInf := (fpIsZero f a && fpIsInf f b) || (fpIsInf f a && fpIsZero f b)
  if zeroInf && fpIsNan f c && !fpIsSnan f c && Config.fmaInvalidOnQuietNan then { r with flags := 1 } else r

/-- MIN and MAX: +0 above −0; a NaN operand gives a NaN (R163). -/
def fpMinMax (f : FpFmt) (strict isMax : Bool) (a b : Nat) : FpRes :=
  if fpIsNan f a || fpIsNan f b then
    ⟨fpNanOf f strict [a, b], if fpIsSnan f a || fpIsSnan f b then 1 else 0⟩
  else
    let aLess := match fvLt (fpVal f a) (fpVal f b) with
      | some true => true
      | _ => (fpIsZero f a && fpIsZero f b && fpNeg? f a && !fpNeg? f b)
    ⟨if isMax then (if aLess then b else a) else (if aLess then a else b), 0⟩

/-- Compares: 0 EQ, 1 LT, 2 LE. A NaN operand gives false; LT and LE raise INVALID on any NaN, EQ on a signalling one
(DESIGN CHOICE among the predicates of IEEE 754-2019, log entry 182). -/
def fpCmp (f : FpFmt) (k a b : Nat) : Bool × Nat :=
  let nan := fpIsNan f a || fpIsNan f b
  let snan := fpIsSnan f a || fpIsSnan f b
  if nan then (false, if k = 0 then (if snan then 1 else 0) else 1)
  else
    let x := fpVal f a
    let y := fpVal f b
    let lt := (fvLt x y).getD false
    let gt := (fvLt y x).getD false
    (if k = 0 then !lt && !gt else if k = 1 then lt else !gt, 0)

/-- Integer square root by bits: the largest `r` below `2 ^ k` with `r * r ≤ n`, built on `r0`. -/
def isqrtAux : Nat → Nat → Nat → Nat
  | 0, _, r => r
  | k + 1, n, r =>
    let r' := r + 2 ^ k
    isqrtAux k n (if r' * r' ≤ n then r' else r)

def isqrt (n : Nat) : Nat := isqrtAux (Nat.log2 n / 2 + 1) n 0

/-- A positive real by two rational bounds with a common denominator, `lo / den ≤ x ≤ hi / den`, with `lo = hi` when exact. -/
structure Bounds where
  lo : Nat
  hi : Nat
  den : Nat
deriving DecidableEq, Repr

/-- Bounds of the square root of `m × 2^e`, to 200 bits. -/
def sqrtBounds (m : Nat) (e : Int) : Bounds :=
  let e1 := if e % 2 = 0 then e else e - 1
  let m1 := if e % 2 = 0 then m else 2 * m
  let n := m1 * 2 ^ 400
  let s := isqrt n
  let h := e1 / 2 - 200
  let sc := 2 ^ h.toNat
  ⟨s * sc, (if s * s = n then s else s + 1) * sc, 2 ^ (-h).toNat⟩

/-- Reciprocal of bounds. -/
def recipBounds (b : Bounds) : Bounds :=
  if b.lo = b.hi then ⟨b.den, b.den, b.lo⟩
  else ⟨b.den * b.lo, b.den * b.hi, b.lo * b.hi⟩

/-- Round bounds in one direction: the lower bound decides, unless rounding the upper one agrees. -/
def boundsRound (f : FpFmt) (mode : RMode) (b : Bounds) : Nat :=
  (gridRound f.mb f.qmin mode b.lo b.den).1

/-- A correctly rounded positive result given by bounds (R201 strict), with its flags. -/
def fpOfBounds (f : FpFmt) (neg : Bool) (b : Bounds) : FpRes :=
  if b.lo = b.hi then fpRoundQ f neg b.lo b.den
  else
    -- an irrational result lies strictly between the bounds: twice the lower bound plus one stands for it
    fpRoundQ f neg (b.lo + b.hi) (2 * b.den)

/-- A fast-mode result: one of the format's values within `ulps` units in the last place of the exact result, as the
hardware's fixed function picks (R163, R201). A result of `2^(emax+1)` or more is ∞. -/
def fpFast (f : FpFmt) (neg : Bool) (ulps key a : Nat) (b : Bounds) : FpRes :=
  let d := (gridRound f.mb f.qmin .down b.lo b.den).1
  let exact := decide (b.lo = b.hi) && !(gridRound f.mb f.qmin .down b.lo b.den).2
  if f.infBits ≤ d then ⟨fpSign f neg f.infBits, 0⟩
  else
    let lowest := if exact then d - ulps else d - (ulps - 1)
    let highest := min (d + ulps) f.infBits
    ⟨fpSign f neg (lowest + Config.fastPick key a ulps % (highest - lowest + 1)), 0⟩

/-- A quotient as bounds. -/
def divBounds (m : Nat) (e : Int) (n : Nat) (g : Int) : Bounds :=
  let k := e - g
  ⟨m * 2 ^ k.toNat, m * 2 ^ k.toNat, n * 2 ^ (-k).toNat⟩

/-- Finish a positive-real function in the mode: strict rounds correctly, fast picks within the bound. -/
def fpMode (f : FpFmt) (strict neg : Bool) (ulps key a : Nat) (b : Bounds) : FpRes :=
  if strict then fpOfBounds f neg b else fpFast f neg ulps key a b

/-- Keys of the fast-mode functions. -/
def keyDiv : Nat := 0
def keySqrt : Nat := 1
def keyRcp : Nat := 2
def keyRsqrt : Nat := 3
def keyExp2 : Nat := 4
def keyLog2 : Nat := 5

/-- In fast mode no IEEE flag is kept (R201). -/
def fpKeep (strict : Bool) (r : FpRes) : FpRes := if strict then r else { r with flags := 0 }

def fpDiv (f : FpFmt) (strict : Bool) (a b : Nat) : FpRes :=
  let neg := fpNeg? f a != fpNeg? f b
  fpKeep strict <|
  if fpIsNan f a || fpIsNan f b then fpFinish f strict [a, b] .nan
  else match fpVal f a, fpVal f b with
    | .inf _, .inf _ => ⟨fpCanon f, 1⟩
    | .inf _, _ => ⟨fpSign f neg f.infBits, 0⟩
    | _, .inf _ => ⟨fpSign f neg 0, 0⟩
    | .fin _ m e, .fin _ n g =>
      if n = 0 then (if m = 0 then ⟨fpCanon f, 1⟩ else ⟨fpSign f neg f.infBits, 2⟩)
      else if m = 0 then ⟨fpSign f neg 0, 0⟩
      else fpMode f strict neg 1 (keyDiv + 8 * b) a (divBounds m e n g)
    | _, _ => ⟨fpCanon f, 0⟩

def fpSqrt (f : FpFmt) (strict : Bool) (a : Nat) : FpRes :=
  fpKeep strict <|
  if fpIsNan f a then fpFinish f strict [a] .nan
  else if fpIsZero f a then ⟨a, 0⟩
  else if fpNeg? f a then ⟨fpCanon f, 1⟩
  else match fpVal f a with
    | .fin _ m e => fpMode f strict false 1 keySqrt a (sqrtBounds m e)
    | _ => ⟨f.infBits, 0⟩

def fpRcp (f : FpFmt) (strict : Bool) (a : Nat) : FpRes :=
  let neg := fpNeg? f a
  fpKeep strict <|
  if fpIsNan f a then fpFinish f strict [a] .nan
  else if fpIsZero f a then ⟨fpSign f neg f.infBits, 2⟩
  else match fpVal f a with
    | .fin _ m e => fpMode f strict neg 1 keyRcp a (divBounds 1 0 m e)
    | _ => ⟨fpSign f neg 0, 0⟩

def fpRsqrt (f : FpFmt) (strict : Bool) (a : Nat) : FpRes :=
  fpKeep strict <|
  if fpIsNan f a then fpFinish f strict [a] .nan
  else if fpIsZero f a then ⟨fpSign f (fpNeg? f a) f.infBits, 2⟩
  else if fpNeg? f a then ⟨fpCanon f, 1⟩
  else match fpVal f a with
    | .fin _ m e => fpMode f strict false 1 keyRsqrt a (recipBounds (sqrtBounds m e))
    | _ => ⟨0, 0⟩

/-! ### Exponentials and logarithms by bounds at 320 fractional bits -/

/-- Fractional bits of the fixed-point bounds. -/
def fxP : Nat := 320

/-- Lower sum of `Σ_{k ≥ 1} 1 / (k 2^k)` at `2 ^ fxP`, `n` terms from `k`. -/
def ln2Sum : Nat → Nat → Nat
  | 0, _ => 0
  | n + 1, k => 2 ^ fxP / (k * 2 ^ k) + ln2Sum n (k + 1)

/-- `ln2Lo / 2^320 ≤ ln 2 ≤ ln2Hi / 2^320`. -/
def ln2Lo : Nat := ln2Sum 330 1
def ln2Hi : Nat := ln2Lo + 332

/-- Taylor sum of `exp(t / 2^P)` for `0 ≤ t < 2^P`: terms are truncated (`up = false`) or raised (`up = true`). -/
def expTaylor (up : Bool) (t : Nat) : Nat → Nat → Nat → Nat
  | 0, _, term => if up then term + 1 else 0
  | n + 1, k, term =>
    let next := t * term / (k * 2 ^ fxP) + (if up then 1 else 0)
    term + expTaylor up t n (k + 1) next

/-- Bounds of `2 ^ x` for `xlo / 2^P ≤ x ≤ xhi / 2^P` with a common integer part `n`; `lo, hi` are the fractional parts. -/
def exp2Bounds (n : Int) (lo hi : Nat) : Bounds :=
  let a := expTaylor false (lo * ln2Lo / 2 ^ fxP) 80 1 (2 ^ fxP)
  let b := expTaylor true (hi * ln2Hi / 2 ^ fxP + 1) 80 1 (2 ^ fxP)
  ⟨a * 2 ^ n.toNat, b * 2 ^ n.toNat, 2 ^ fxP * 2 ^ (-n).toNat⟩

/-- Signed fixed-point value of `(-1)^neg × m × 2^e`, rounded down at `2^-P`. -/
def fxOf (neg : Bool) (m : Nat) (e : Int) : Int :=
  let num := dyNum m e * 2 ^ fxP
  let d := dyDen e
  if neg then -(((num + d - 1) / d : Nat) : Int) else ((num / d : Nat) : Int)

/-- 2 to the power of a finite non-zero value: bounds, or overflow and underflow taken to a power far outside. -/
def exp2OfVal (neg : Bool) (m : Nat) (e : Int) : Bounds :=
  if ratLog2 (dyNum m e) (dyDen e) ≥ 12 then
    (if neg then ⟨1, 2, 2 ^ 4096⟩ else ⟨2 ^ 4096, 2 ^ 4097, 1⟩)
  else
    let x := fxOf neg m e
    let n := x / ((2 ^ fxP : Nat) : Int)
    let r := (x % ((2 ^ fxP : Nat) : Int)).toNat
    let exact := decide (e ≥ -(fxP : Int))
    if r = 0 && exact then ⟨2 ^ n.toNat, 2 ^ n.toNat, 2 ^ (-n).toNat⟩
    else exp2Bounds n r (if exact then r else r + 1)

def fpExp2 (f : FpFmt) (strict : Bool) (a : Nat) : FpRes :=
  fpKeep strict <|
  if fpIsNan f a then fpFinish f strict [a] .nan
  else match fpVal f a with
    | .fin neg m e =>
      if m = 0 then ⟨(fpOfVal f (.fin false 1 0)).bits, 0⟩
      else fpMode f strict false 2 keyExp2 a (exp2OfVal neg m e)
    | .inf neg => ⟨if neg then 0 else f.infBits, 0⟩
    | .nan => ⟨fpCanon f, 0⟩

/-- `e ^ x`, correctly rounded: `2 ^ (x / ln 2)` by bounds (the row engine's strict exponential, R214). -/
def fpExpStrict (f : FpFmt) (a : Nat) : Nat :=
  match fpVal f a with
  | .nan => fpCanon f
  | .inf neg => if neg then 0 else f.infBits
  | .fin neg m e =>
    if m = 0 then (fpOfVal f (.fin false 1 0)).bits
    else if ratLog2 (dyNum m e) (dyDen e) ≥ 12 then (if neg then 0 else f.infBits)
    else
      -- |x| / ln 2 lies between qlo and qhi at 2^-P
      let num := dyNum m e * 2 ^ (2 * fxP)
      let qlo := num / (dyDen e * ln2Hi)
      let qhi := num / (dyDen e * ln2Lo) + 1
      let P : Int := ((2 ^ fxP : Nat) : Int)
      let lo : Int := if neg then -(qhi : Int) else qlo
      let hi : Int := if neg then -(qlo : Int) else qhi
      let n := lo / P
      let b := exp2Bounds n (lo % P).toNat (hi - n * P).toNat
      (fpOfBounds f false b).bits

/-- Lower sum of `Σ w^(2k+1) / (2k+1)` for `w = t / 2^P`. -/
def atanhSum (w2 : Nat) : Nat → Nat → Nat → Nat
  | 0, _, _ => 0
  | n + 1, k, pw => pw / k + atanhSum w2 n (k + 2) (pw * w2 / 2 ^ fxP)

/-- Bounds of `|log2 x|` and its sign for a positive `m × 2^e` other than a power of two. -/
def log2Bounds (m : Nat) (e : Int) : Bool × Bounds :=
  let k := Nat.log2 m
  -- z = m / 2^k in [1, 2); above 3/2 it is halved
  let big := decide (3 * 2 ^ k < 2 * m)
  let ex : Int := e + k + (if big then 1 else 0)
  let zd := if big then 2 ^ (k + 1) else 2 ^ k
  let neg := decide (m < zd)
  let num := if neg then zd - m else m - zd
  let w := num * 2 ^ fxP / (m + zd)
  let w2 := w * w / 2 ^ fxP
  let s := 2 * atanhSum w2 120 1 w
  let lo := s * 2 ^ fxP / ln2Hi
  let hi := (s + 1024) * 2 ^ fxP / ln2Lo + 1
  -- log2 z lies between lo and hi in magnitude, with sign neg; add ex
  let P : Int := ((2 ^ fxP : Nat) : Int)
  let a : Int := ex * P + (if neg then -(hi : Int) else lo)
  let b : Int := ex * P + (if neg then -(lo : Int) else hi)
  if a < 0 then (true, ⟨b.natAbs, a.natAbs, 2 ^ fxP⟩) else (false, ⟨a.natAbs, b.natAbs, 2 ^ fxP⟩)

def fpLog2 (f : FpFmt) (strict : Bool) (a : Nat) : FpRes :=
  fpKeep strict <|
  if fpIsNan f a then fpFinish f strict [a] .nan
  else if fpIsZero f a then ⟨fpSign f true f.infBits, 2⟩
  else if fpNeg? f a then ⟨fpCanon f, 1⟩
  else match fpVal f a with
    | .fin _ m e =>
      if m = 2 ^ Nat.log2 m then
        let n : Int := e + Nat.log2 m
        if n = 0 then ⟨0, 0⟩
        else fpMode f strict (decide (n < 0)) 2 keyLog2 a ⟨n.natAbs, n.natAbs, 1⟩
      else
        let b := log2Bounds m e
        fpMode f strict b.1 2 keyLog2 a b.2
    | _ => ⟨f.infBits, 0⟩

/-! ### Conversions -/

/-- `m × 2^e` rounded to the nearest integer, ties to even. -/
def rneInt (m : Nat) (e : Int) : Nat :=
  let n := dyNum m e
  let d := dyDen e
  let q := n / d
  let r := n % d
  if d < 2 * r || (2 * r = d && q % 2 = 1) then q + 1 else q

/-- Float to an integer of `w` bits: nearest even, saturating, 0 for NaN (R163, R200), with INEXACT where it rounds (DESIGN CHOICE among the conversions of
IEEE 754-2019, log entry 182). The result is the low `w` bits. -/
def fpToInt (f : FpFmt) (w : Nat) (signed : Bool) (a : Nat) : FpRes :=
  let top : Nat := if signed then 2 ^ (w - 1) - 1 else 2 ^ w - 1
  let bot : Nat := if signed then 2 ^ (w - 1) else 0
  match fpVal f a with
  | .nan => ⟨0, 1⟩
  | .inf neg => ⟨if neg then (if signed then bot else 0) else top, 1⟩
  | .fin neg m e =>
    let n := rneInt m e
    let inex := if n * dyDen e = dyNum m e then 0 else 16
    if neg then
      (if bot < n then ⟨if signed then bot else 0, 1⟩ else ⟨wrapN w (-(n : Int)), inex⟩)
    else (if top < n then ⟨top, 1⟩ else ⟨n, inex⟩)

/-- Integer to float, nearest even. -/
def fpOfInt (f : FpFmt) (i : Int) : FpRes := fpRoundQ f (decide (i < 0)) i.natAbs 1

/-- Between float formats. A NaN: canonical in fast mode; in strict mode its sign and high payload bits, made quiet (R163). -/
def fpCvt (src dst : FpFmt) (strict : Bool) (a : Nat) : FpRes :=
  if fpIsNan src a then
    if strict then
      let pay := fpMag src a % 2 ^ src.mb
      let pay' := if src.mb ≤ dst.mb then pay <<< (dst.mb - src.mb) else pay >>> (src.mb - dst.mb)
      ⟨fpQuiet dst (fpSign dst (fpNeg? src a) (dst.infBits + pay')), if fpIsSnan src a then 1 else 0⟩
    else ⟨fpCanon dst, 0⟩
  else fpOfVal dst (fpVal src a)

/-! ### Sums (R174, R175, R204) -/

/-- The exact sum of a block with the special values of R175: NaN beats all, opposite infinities give NaN, a zero sum is +0
unless every term is −0. -/
def blockSum : List FVal → FVal
  | [] => .fin false 0 0
  | x :: xs => xs.foldl fvAdd x

/-- Split into blocks of 32. -/
def chunk32 {α : Type} (fuel : Nat) (xs : List α) : List (List α) :=
  match fuel with
  | 0 => []
  | k + 1 => if xs.isEmpty then [] else xs.take 32 :: chunk32 k (xs.drop 32)

/-- Round an exact value to FP32 with the canonical NaN. -/
def r32 (v : FVal) : Nat := (fpOfVal f32 v).bits

/-- Blocks of 32 summed exactly, each added to `acc` with one rounding to FP32 (R174, R204 fast). -/
def sumBlocks (acc : Nat) (blocks : List (List FVal)) : Nat :=
  blocks.foldl (fun a b => if b.isEmpty then a else r32 (fvAdd (fpVal f32 a) (blockSum b))) acc

/-- Multiply an exact value by a power of two. -/
def fvScale (k : Int) : FVal → FVal
  | .fin s m e => .fin s m (e + k)
  | v => v

def fvAbs : FVal → FVal
  | .fin _ m e => .fin false m e
  | .inf _ => .inf false
  | .nan => .nan

end Sys2Proof.Machine
end

