-- ==== Sys2Proof/Machine/StateBring.lean ====
section
/-! DEFINITION. The state of bring-up, of the boot flash and firmware, and of the pins (chapters 17, 20 and 21). -/

namespace Sys2Proof.Machine

/-- The copy of the core firmware in a core's staging area where it is not the section as it was sent: the packets its bitmap lacks, and those it holds
with other bytes (R458). -/
structure FwCopy where
  core : Nat × Nat
  missing : List Nat
  damage : List (Nat × List Byte)
deriving DecidableEq, Repr

/-- Bring-up: the release of the power-on reset and the begin of the stage that runs; the last report of each stage; the cause of a HALT; whether
stage 6 waits on the inlet; RESET_CAUSE; RST_N held low; the rails in window, by stage-1 bit. Physical teams are numbered layer × 66 + physical
team: fenced cores, causes, failed row engines, cores powered. -/
structure BringSt where
  t0 : Nat := 0
  stageAt : Nat := 0
  reports : List (Nat × List Byte) := []
  halted : Nat := 0
  coolantWait : Bool := false
  resetCause : Nat := 0
  rstLow : Bool := false
  /-- RST_N has been low since stage 1 was last passed, so that a board programmer may have written the boot flash (R551) -/
  flashOpen : Bool := true
  /-- the staging header with its bitmap, and the field fault record, as a board programmer's writes since then leave their bytes; empty: not written
  (R518, R551) -/
  rawStage : List Byte := []
  rawRecord : List Byte := []
  rails : Nat := 0
  /-- something was fenced, spared or repaired in the stages so far -/
  fenced : List (Nat × Nat) := []
  cause : List (Nat × Nat) := []
  rowBad : List Nat := []
  /-- cores that lost two clock bonds in stage 3, fenced in stage 6 (R453) -/
  clockBad : List (Nat × Nat) := []
  /-- cores released by the waves, in the order of R455, and when the waves began -/
  released : Nat := 0
  waveAt : Nat := 0
  /-- cores powered, in the order of R455; and row engines released, by physical team -/
  powered : Nat := 0
  rowsOn : List Nat := []
  hubs : Nat := 0
  stackRepair : List (Nat × Nat) := []
  /-- cores short after the broadcast or the last repair round: physical team and core; and the words of the stage-7 report so far -/
  short : List (Nat × Nat) := []
  copies : List FwCopy := []
  round : Nat := 0
  shortWords : List Nat := []
  /-- logical teams that stage 8 could not map -/
  unmapped : List Nat := []
  mismatch : Nat := 0
  topo : Option (List Byte) := none
  acceptSid : Option Nat := none
  /-- package draw in W, metered over the last whole millisecond (R62, R467); and when the power-down of TOPO_ABANDON began -/
  meterW : Nat := 0
  downAt : Nat := 0
deriving DecidableEq, Repr

/-- Regions of the boot flash that the device reads or writes (Table 20.1). -/
inductive FlashRegion where
  | selectorA | selectorB | bootRecord | fieldRecord | stagingHeader | bank0 | bank1 | stagingArea
deriving DecidableEq, Repr

/-- The processors that are loaded from the image buffer at every start (R529, R532). -/
inductive Proc where
  | mp | cores | hubMcu | groom | ethSerdes | bxlSerdes
deriving DecidableEq, Repr

/-- A chunk that waits to be processed: an FW_CHUNK by its slot, or a slot of the receive ring (R525, R527). -/
inductive ChunkSrc where
  | cmd (sid : Nat)
  | ring (slot : Nat)
deriving DecidableEq, Repr

/-- The boot flash as far as the device reads or writes it (R518, R519, R520, R523), and the firmware state (Table 20.7). An empty byte list stands
for a region that was never written. TOTAL, ARMED and the marked chunks are the staging header and bitmap (their bytes: `stageBytes`), the chunks
the staging area; the field fault record is held by RelSt. -/
structure FwSt where
  selA : List Byte := []
  selB : List Byte := []
  bank0 : List Byte := []
  bank1 : List Byte := []
  bootRec : List Byte := []
  chunks : List (Nat × List Byte) := []
  bitmap : List Nat := []
  total : Nat := 0
  armed : Bool := false
  /-- result of the last next-boot check -/
  lastCheck : Nat := 0
  /-- the image buffer (R529) -/
  image : List Byte := []
  bank : Nat := 0
  copyBusy : Bool := false
  /-- stage 2 found the active image bad and took another (R447) -/
  fellBack : Bool := false
  fusePending : Bool := false
  netOff : Bool := false
  netOk : Nat := 0
  netBad : Nat := 0
  /-- the section that each processor was last loaded with (R529, R532) -/
  loaded : List (Proc × List Byte) := []
  /-- chunks that have arrived whole and wait, in arrival order over both paths (R525) -/
  queue : List ChunkSrc := []
  /-- ring slots whose CRC failed at the last scan, and where the ring lay then (R528) -/
  torn : List Nat := []
  ring : Nat × Nat := (0, 0)
  /-- when chunks were written in the last second (R525) -/
  written : List Nat := []
  /-- the writes that wait on the window, announced by TEMP_WAIT (R533) -/
  waiting : Nat := 0
  measTopo : List Byte := []
deriving DecidableEq, Repr

/-- The test access port's instructions (R553). -/
inductive JtagIns where
  | bypass | idcode | samplePreload | extest | extestPulse | extestTrain | clamp | highz
deriving DecidableEq, Repr

/-- The sideband registers' reset values (Table 21.8). -/
def sideReset : List Byte := BitVec.ofNat 8 0x5A :: List.replicate 15 0

/-- Pins: the test access port (TRST_N held low, instruction, the data register selected, what the boundary cells drive), and the sideband controller:
since when VAUX and VIO are in their windows, its registers (Table 21.8) as last refreshed, and the last one read over I3C. -/
structure PinSt where
  trstLow : Bool := false
  jtag : JtagIns := .idcode
  dr : Nat := 0x25A4416F
  boundary : Nat := 0
  auxSince : Nat := 0
  side : List Byte := sideReset
  i3c : Nat := 0
deriving DecidableEq, Repr

end Sys2Proof.Machine
end

