-- ==== Sys2Proof/Machine/StateBxl.lean ====
section
/-! DEFINITION. The state of the Bexsyn host link (chapter 16). -/

namespace Sys2Proof.Machine

/-- A sequenced flit that waits for its acknowledgement (R434): header fields and the 228 payload bytes. -/
structure BxlFlit where
  fseq : Nat
  kind : Nat
  vc : Nat
  sop : Bool
  eop : Bool
  fill : Nat
  crVc : Nat
  crCount : Nat
  payload : List Byte
deriving DecidableEq, Repr

/-- A packet sent whose EOP flit is not acknowledged yet, for a resend from its start (R438): channel, bytes, FSEQ of its EOP flit. -/
structure BxlSent where
  vc : Nat
  bytes : List Byte
  eopSeq : Nat
  /-- it is the final reply of a DEV_RESET (R439) -/
  reset : Bool
deriving DecidableEq, Repr

/-- A packet open on a receive channel (R440): bytes kept, its length so far, its flits, and whether the rest of it is discarded (Table 16.7). -/
structure BxlOpen where
  vc : Nat
  bytes : List Byte
  len : Nat
  flits : Nat
  skip : Bool
  /-- the first flit of a bulk packet came when no command was there for its tag (R441) -/
  early : Bool := false
deriving DecidableEq, Repr

/-- The link: state (Table 16.4), width, trained lanes, counters (Table 16.8), sequence numbers, what is unacknowledged, credits held for the
adapter's buffers and granted of the device's, and the flits put on the wire, oldest first (the model's own record of an output). -/
structure BxlSt where
  state : Nat := 0
  width : Nat := 0
  laneOk : Nat := 0
  downCnt : Nat := 0
  recoveryCnt : Nat := 0
  fecCorr : Nat := 0
  badFlit : Nat := 0
  replayCnt : Nat := 0
  protoErr : Nat := 0
  overrun : Nat := 0
  partialDrop : Nat := 0
  /-- the transmitters are out of electrical idle (R439) -/
  txOn : Bool := false
  /-- this end has lost its link state (R438) -/
  seqReset : Bool := true
  /-- RECOVERY has trained its lanes and exchanges INIT flits -/
  initPhase : Bool := false
  stateSince : Nat := 0
  lastTrain : Nat := 0
  lastInit : Nat := 0
  txSeq : Nat := 0
  unacked : List BxlFlit := []
  sent : List BxlSent := []
  /-- packets to be sent again after a SEQ_RESET (R438) -/
  resend : List (Nat × List Byte × Bool) := []
  ackSince : Nat := 0
  /-- FSEQ at which the last replay started, and how many replays in a row started there (R435) -/
  replayFrom : Option Nat := none
  replayRun : Nat := 0
  /-- FSEQ of the next flit expected -/
  rxSeq : Nat := 0
  /-- a NAK has been sent and no flit accepted since (R433) -/
  nakSent : Bool := false
  opens : List BxlOpen := []
  /-- credits the device holds of the adapter's buffers, by channel -/
  txCredit : List (Nat × Nat) := []
  /-- free receive flits granted to the adapter, by channel -/
  granted : List (Nat × Nat) := []
  /-- credits that wait for a CREDIT flit -/
  due : List (Nat × Nat) := []
  wire : List (List Byte) := []
  /-- flits put on the wire since the last IDLE flit (R432) -/
  sinceIdle : Nat := 0
deriving DecidableEq, Repr

end Sys2Proof.Machine
end

