-- ==== Sys2Proof/Machine/StateMem.lean ====
section
/-! DEFINITION. The state of memory: device bytes, scratchpads, layer caches, reduction units, parity and error status (chapter 11). -/

namespace Sys2Proof.Machine

/-- A 128-bit tally accumulator with its NaN bit (R297). -/
structure TAcc where
  acc : Int := 0
  nan : Bool := false
deriving DecidableEq, Repr

/-- A line of a layer cache (R288): its line number, the valid sectors, the cached bytes by offset, the mask of dirty bytes, whether the tag
is DEAD (R294), its accumulators while it is in tally form (R298), by element, and the ways of its set that it occupies: one, or four in tally
form. -/
structure CLine where
  line : Nat
  valid : Nat
  data : List Host.Cell
  dirty : Nat
  dead : Bool
  tally : Option (List (Nat × TAcc))
  ways : List Nat := []
deriving DecidableEq, Repr

/-- An accumulate request that waits for a partition change (R282): element address, value, whether it is an FMAX, and who issued it:
the row engine or the conversion unit for a logical core. -/
structure TaddReq where
  addr : Nat
  value : Nat
  fmax : Bool
  core : Nat
deriving DecidableEq, Repr

/-- One near-memory layer: its layer cache, most recently used line first, its reduction unit's partial lines (R299), and the state of a
partition change (R282). -/
structure LayerSt where
  lines : List CLine := []
  partials : List (Nat × List (Nat × TAcc)) := []
  emptying : Bool := false
  tadds : List TaddReq := []
deriving DecidableEq, Repr

/-- Bytes whose contents the spec calls undefined until they are written again: addresses from `lo` to below `hi`, and the draw that gives them. -/
structure UndefRange where
  lo : Nat
  hi : Nat
  draw : Nat
deriving DecidableEq, Repr

/-- LC and NM counters and status (Tables 04.16, 11.4, 11.5, 12.6). -/
structure MemCnt where
  deadReread : Nat := 0
  deadDrop : Nat := 0
  redFwd : Nat := 0
  redSat : Nat := 0
  redFull : Nat := 0
  l1Merge : Nat := 0
  l1Full : Nat := 0
  nmCe : Nat := 0
  nmUe : Nat := 0
  stkCe : Nat := 0
  stkUe : Nat := 0
  parFix : Nat := 0
  parMismatch : Nat := 0
  asRefuse : Nat := 0
  asWait : Nat := 0
deriving DecidableEq, Repr

/-- Memory: stack, hub-SRAM and near-memory scratch bytes by device address; scratchpad bytes by core × 2^20 + offset; the layers;
uncorrectable 64-byte units of the stacks and 32-byte words of near memory (R282, R305); lost stacks (R310); stacks that tower and host cannot reach (R489); and the protected range of each hub, in granules (R307, R309). -/
structure MemSt where
  dev : List Host.Cell := []
  spad : List Host.Cell := []
  /-- undefined bytes of near-memory scratch (R282), and of the scratchpads (R136, R137, R478) -/
  undefDev : List UndefRange := []
  undefSpad : List UndefRange := []
  l0 : LayerSt := {}
  l1 : LayerSt := {}
  l2 : LayerSt := {}
  l3 : LayerSt := {}
  bad : List Nat := []
  badNm : List Nat := []
  lost : List Nat := []
  cut : List Nat := []
  prot : List (Nat × Nat) := []
  cnt : MemCnt := {}
deriving DecidableEq, Repr

end Sys2Proof.Machine
end

