-- ==== Sys2Proof/Machine/StateMp.lean ====
section
/-! DEFINITION. The state of the management processor, the control space, the tick and ration units, tensor watch and the ledger
(chapters 02, 03, 04, 10 and 12). -/

namespace Sys2Proof.Machine

/-- What an outstanding command still has to do. -/
inductive Work where
  /-- held by ORDERED, TICK_NOT_BEFORE, a pending commit, or a running ramp-down (R74, R75, R84, R88) -/
  | held (p : Pkt) (opcode : Nat)
  /-- final reply formed, waiting to be sent (R71) -/
  | done
  /-- a pending commit with its TICK_NOT_BEFORE (R91) -/
  | commit (tnb : Option Nat)
  | memRead (addr len : Nat)
  /-- and the bytes written; those received since, which do not yet fill their aligned 64-byte unit (R105), are in the slot's `bulk` -/
  | memWrite (addr len got : Nat)
  | memFill (addr len pat : Nat)
  | memCopy (src dst len : Nat)
  /-- its bulk packets wait to be sent (R104, R462) -/
  | bulkOut
  | streamWait (slot : Nat)
  | task
  | tensorDrop (id : Nat)
  | fence (pack : Nat) (step : Nat)
  | snapshot
  | packRelease (pack : Nat)
  | rcOpen (hub qpn : Nat)
  | rcClose (hub qpn : Nat)
  | fwChunk (index total crc : Nat) (data : Option (List Byte))
  | scan (layer : Nat) (swap : Bool)
  /-- TOPO_ACCEPT's final reply follows tick 0 (R465) -/
  | accept
  | abandon
  | reset
deriving DecidableEq, Repr

/-- A command slot (R71): identity in order of acceptance, channel, tag, STEP, whether the command is long and was acknowledged. -/
structure Slot where
  sid : Nat
  mgmt : Bool
  tag : Nat
  stepValid : Bool
  step : Nat
  opcode : Nat
  acked : Bool
  work : Work
  /-- bulk packets that hold flits in the receive buffer: those that arrived before the command's work began, and those whose data is not yet written.
  Of each, its flits and its data (R441, R442) -/
  bulk : List (Nat × List Byte) := []
  /-- when the packet was accepted (R365) -/
  at_ : Nat := 0
  /-- the handle that a TASK_SUBMIT names, or the pack of a STEP_FENCE: the command is outstanding until its final reply is sent (R77, R107, R117) -/
  ref : Nat := 0
deriving DecidableEq, Repr

/-- A formed reply or event that waits to be sent (R82, R83, R86): the slot it frees when sent, and its bytes. -/
structure Reply where
  sid : Option Nat
  event : Bool
  bulk : Bool
  bytes : List Byte
deriving DecidableEq, Repr

/-- A packet waiting for a slot or for the end of the boundary window (R71, R89). -/
structure RxPkt where
  opcode : Nat
  pkt : Pkt
  /-- flits it holds in the receive buffer of its channel (R442) -/
  flits : Nat := 0
  /-- the bytes of a packet shorter than a header (check 1) -/
  short : Option (List Byte) := none
  /-- bulk packets for it that have arrived meanwhile: flits and data -/
  bulk : List (Nat × List Byte) := []
deriving DecidableEq, Repr

/-- The management processor. -/
structure MpSt where
  slots : List Slot := []
  nextSid : Nat := 0
  rxWait : List RxPkt := []
  replyQ : List Reply := []
  mgmtQ : List Reply := []
  bulkQ : List Reply := []
  evtSeq : Nat := 0
  dropRun : Nat := 0
  dropFirst : Nat := 0
  malformed : Nat := 0
  evtDrop : Nat := 0
  bulkOrphan : Nat := 0
  lastCommitTick : Nat := 0
  commitCnt : Nat := 0
  lastRefuse : Nat := 0
  /-- sid of the pending commit and, once evaluated and waiting for class Q units, the boundaries counted (R92) -/
  commit : Option (Nat × Option Nat) := none
  commitExpired : Bool := false
  resetting : Bool := false
  resetAt : Option Nat := none
  inWindow : Bool := false
deriving DecidableEq, Repr

/-- Control-space configuration: words that differ from their reset values, by address (R88, R91). -/
structure CfgSt where
  shadow : List (Nat × Nat) := []
  active : List (Nat × Nat) := []
deriving DecidableEq, Repr

/-- A loaded program (R107, Table 05.4). -/
structure Prog where
  image : Nat
  len : Nat
  scratch64k : Nat
  codeOff : Nat
  codeLen : Nat
  maxThreads : Nat
deriving DecidableEq, Repr

/-- A tick task (Table 04.6) from its acceptance to its end. -/
structure Task where
  sid : Nat
  tag : Nat
  teams : Nat
  budget : Nat
  phase : Nat
  handle : Nat
  entry : Nat
  threads : Nat
  arg : Nat
  epoch : Nat
  footprint : Nat
  tnb : Option Nat
  step : Option Nat
  ordered : Bool := false
  admitted : Bool := false
  admitTick : Nat := 0
  epochRes : Nat := 0
  /-- the step the task is attributed to (R274) -/
  stepRes : Nat := 0
  /-- the replay margin of R52, in ck -/
  margin : Nat := 0
  running : Bool := false
  startAt : Nat := 0
  /-- time excluded from the counted run time so far, and since when more is being excluded (R52) -/
  excl : Nat := 0
  exclFrom : Option Nat := none
  overrun : Bool := false
  carried : Bool := false
deriving DecidableEq, Repr

/-- The accounting of the tick that is open (Table 02.11). -/
structure TickAcc where
  flags : Nat := 0
  pool : Nat := 0
  first : Nat := 0
  floatDrawn : Nat := 0
  /-- tokens granted to each grantee, and what its meter has deducted so far, by the number of `granteeId` (R56, R57) -/
  grants : List (Nat × Nat) := []
  used : List (Nat × Nat) := []
  /-- teams that have had a task in the tick: their idle time is a remainder (R66), as a mask -/
  worked : Nat := 0
  /-- teams whose margin a farrier scan uses in the tick, as a mask (R42) -/
  scanning : Nat := 0
  admitted : Nat := 0
  deferred : Nat := 0
  overruns : Nat := 0
  /-- longest time any team spent on a substitution in the tick, per team (R475, Table 02.11) -/
  replay : List (Nat × Nat) := []
  /-- a thermal action was in force at some time in the tick (R63) -/
  thermal : Bool := false
  /-- D(k) of the tick (R61) -/
  demandW : Nat := 0
  openedAt : Nat := 0
deriving DecidableEq, Repr

/-- Sums over a 100 ms window, each tick weighted by its length (R63, R66): the window's number, the length, target and draw sums, and the
ticks flagged RAMP_BREACH and SHORTFALL. -/
structure WindowAcc where
  index : Nat := 0
  len : Nat := 0
  targetSum : Nat := 0
  drawSum : Nat := 0
  breach : Nat := 0
  short : Nat := 0
  /-- the first tick flagged RAMP_BREACH, and the first flagged SHORTFALL -/
  breachTick : Nat := 0
  shortTick : Nat := 0
deriving DecidableEq, Repr

/-- What a team's time goes to (R339). -/
inductive Act where
  | idle | ballast | work (step phase : Nat) | replay (step : Nat)
deriving DecidableEq, Repr

/-- What a team does now and since when, whole microseconds of the tick that the ledger has attributed, and the activity of the highest priority in
the microsecond after them (R339). -/
structure ActRec where
  since : Nat
  act : Act
  done : Nat := 0
  top : Act
deriving DecidableEq, Repr

/-- The tick and ration units. Targets are in units of 1 / 30,000,000 W, in which every step of the shaping law is whole (R59, R61). -/
structure TickSt where
  count : Nat := 0
  running : Bool := false
  readyAt : Nat := 0
  curLen : Nat := 3000000
  syncState : Nat := 0
  offsetNs : Int := 0
  /-- local time and source time in ns of the last valid time (R44, R46) -/
  srcRef : Option (Nat × Nat) := none
  everLocked : Bool := false
  fresh : Bool := false
  holdDue : Bool := false
  overrunCnt : Nat := 0
  carryCnt : Nat := 0
  recDrop : Nat := 0
  quarantine : Nat := 0
  quarClr : Nat := 0
  /-- ticks of each team's overrun marks, newest first (R54) -/
  marks : List (Nat × List Nat) := []
  drawW : Nat := 0
  targetU : Nat := 0
  minW : Nat := 0
  paceCnt : Nat := 0
  shortCnt : Nat := 0
  /-- grantees paced in the tick: teams, hubs as 256 + k, stacks as 300 + s, the ballast planner as 400 -/
  pacedTeams : List Nat := []
  lastUncontrolled : Nat := 0
  lastLen : Nat := 3000000
  acc : TickAcc := {}
  win : WindowAcc := {}
  winDone : Option WindowAcc := none
  inMargin : Bool := false
  tasks : List Task := []
  curStep : Nat := 0
  /-- teams not idle since the tick opened -/
  acts : List (Nat × ActRec) := []
  /-- time was lost in this tick (R340) -/
  lostTime : Bool := false
  tickOut : Bool := false
deriving DecidableEq, Repr

/-- A tensor-watch entry (R273). -/
structure WatchEntry where
  tensor : Nat
  source : Nat
  step : Nat
  elements : Nat
  zeros : Nat
  sats : Nat
  nonfinite : Nat
deriving DecidableEq, Repr

/-- A run-table entry (R277). -/
structure RunEntry where
  tensor : Nat
  source : Nat
  run : Nat
  fired : Bool
deriving DecidableEq, Repr

/-- An open step (R274, R275) with its ledger totals (R339, R340). -/
structure OpenStep where
  step : Nat
  firstTick : Nat := 0
  lastTick : Nat := 0
  seen : Bool := false
  flags : Nat := 0
  tasks : Nat := 0
  /-- whole microseconds per phase: FWD to EVAL, BALLAST, IDLE, REPLAY (Table 12.5) -/
  phases : List (Nat × Nat) := []
  overruns : Nat := 0
  carry : Nat := 0
  /-- CONSUMED and UNCONTROLLED of its tick records, in tokens -/
  tokens : Nat := 0
  /-- what the final reply that closes it at the next boundary says: 1 committed, 2 skipped, 0 neither -/
  closing : Option Nat := none
deriving DecidableEq, Repr

/-- An alarm whose record was formed and that has not fired yet (R277). -/
structure AlarmDue where
  tensor : Nat
  source : Nat
  run : Nat
  step : Nat
  permille : Nat
  pct : Nat
  /-- the tick in which the record was formed -/
  tick : Nat
deriving DecidableEq, Repr

/-- The trap latch, tensor watch and the phase ledger (chapter 10, R339 to R341). -/
structure WatchSt where
  trapped : Bool := false
  trapRec : List Byte := List.replicate 48 0
  nanCnt : Nat := 0
  entryDrop : Nat := 0
  logSeq : Nat := 0
  alarmCnt : Nat := 0
  recDrop : Nat := 0
  entries : List WatchEntry := []
  runs : List RunEntry := []
  open_ : List OpenStep := []
  /-- the first STEP_FENCE that carried each step number: step, slot, and what its final reply said, once it has one (R275) -/
  fences : List (Nat × Nat × Option Nat) := []
  /-- steps that have closed -/
  closed : List Nat := []
  alarms : List AlarmDue := []
  ledSeq : Nat := 0
  ledDrop : Nat := 0
  ledRecDrop : Nat := 0
deriving DecidableEq, Repr

end Sys2Proof.Machine
end

