-- ==== Sys2Proof/Machine/StateCore.lean ====
section
/-! DEFINITION. The state of the tower's cores and teams: threads, engines, contexts, streams, sync objects, row engine and
activation stack (chapters 05 to 09 and 12). -/

namespace Sys2Proof.Machine

/-- Units whose queue or slots a thread can wait for (R130). -/
inductive UnitId where
  | matrix | vector | row | conv | stack | pack | stream (idx : Nat)
deriving DecidableEq, Repr

/-- What a BLOCKED thread waits for (R130): room in a unit (the instruction issues again), the end of its earlier instructions in a
unit (a fence), a sync object with its target, its stream, the result of an instruction of the stack unit, the fill of an L1 line whose
waiter list is full, or a free miss register (R286). -/
inductive BlockOn where
  | room (u : UnitId)
  | fence (u : UnitId)
  | sync (obj target : Nat)
  | stream (idx : Nat)
  | result (u : UnitId)
  | fill (line : Nat)
  | missReg
  /-- the fill of the instruction buffer, which ends then (R131) -/
  | fetch (till : Nat)
deriving DecidableEq, Repr

/-- The states of R128. -/
inductive TState where
  | idle | ready | blocked (on : BlockOn) | ended
deriving DecidableEq, Repr

/-- A thread context: its state, program counter and registers (R127, R128). `stop` marks a thread that a failing queued instruction
stops at its next issue (R187). -/
structure Thread where
  st : TState
  pc : Nat
  regs : Vector W64 32
  stop : Bool
  /-- when it became READY or last issued (R471) -/
  since : Nat
deriving DecidableEq, Repr

/-- A vector context held by a thread (R190, Table 07.4), and the elements that a READ_ONLY VLD which waits for a miss register or a fill has been given
(R196, R286): it asks for the others when it issues again. -/
structure VCtx where
  owner : Nat
  v : Vector VReg 32
  vl : Nat
  q : Vector W64 4
  vstat : Nat
  got : List (List Byte) := []
deriving DecidableEq, Repr

/-- An entry of a matrix queue (R169): MMUL with its accumulator, ACCUM, and the values of gA, gB and gS, MDRAIN, MFENCE, or MSTAT with its
CLEAR bit and its destination. -/
inductive MatOp where
  | mmul (acc : Nat) (accum : Bool) (a b shape : Nat)
  | mdrain (acc : Nat) (c shape : Nat)
  | mfence
  | mstat (clear : Bool) (d : Nat)
deriving DecidableEq, Repr

/-- The conversion instructions that enter the queue (R257). -/
inductive ConvOp where
  | camax | ccvt | cdec
deriving DecidableEq, Repr

/-- The stack instructions (Table 12.3) with the register values read at issue. -/
inductive StkOp where
  | push (off : Nat) | pop (off : Nat) | peek (off : Nat) | mark (tag user : Nat) | unmark (d tag : Nat) | used (d : Nat)
deriving DecidableEq, Repr

/-- One sector of the read-only L1: 128 bytes as they were when filled (R285, R287). -/
structure L1Line where
  line : Nat
  sectors : List (Nat × List Byte)
deriving DecidableEq, Repr

/-- A miss register (R286): its line, the sectors it fetches, the requests on its waiter list, and when the fill completes. -/
structure MissReg where
  line : Nat
  sectors : List Nat
  waiters : Nat
  till : Nat
deriving DecidableEq, Repr

/-- The program a core runs (R107, R133, R136). -/
structure CoreProg where
  handle : Nat
  image : Nat
  codeLo : Nat
  codeHi : Nat
  taskSid : Nat
  tag : Nat
  phase : Nat
  step : Nat
deriving DecidableEq, Repr

/-- A queued instruction: issuing thread, instruction address and operation; and, once the task that issued it has ended, that task's program
(R272): such an entry belongs to no thread of the next task. -/
structure QEntry (α : Type) where
  thr : Nat
  pc : Nat
  op : α
  task : Option CoreProg := none
deriving DecidableEq, Repr

/-- Tensor-watch counts a conversion delivered: tensor, step, ELEMENTS, ZEROS, SATS and NONFINITE (R253, R264). -/
structure WatchPart where
  tensor : Nat
  step : Nat
  elements : Nat
  zeros : Nat
  sats : Nat
  nonfin : Nat
deriving DecidableEq, Repr

/-- Counts of effects a logical slot had in the tick, kept in the team node for a replay (R148, R156, R272, R301, R329, R351), and
what a replay still suppresses. -/
structure EffectCount where
  signals : List (Nat × Nat) := []
  nans : Nat := 0
  tadds : Nat := 0
  stackOps : Nat := 0
  stackRes : List Nat := []
  psends : Nat := 0
  nwrites : Nat := 0
  posted : List Nat := []
  started : List Nat := []
  faults : Nat := 0
  /-- tensor-watch counts delivered, which a replay takes back before it starts (R264) -/
  watched : List WatchPart := []
  /-- instructions completed, and entries that have left units' queues, by which a replay knows the point of the fault -/
  instrs : Nat := 0
  entries : Nat := 0
  /-- CCVTs whose tensor-watch counts were lost, each counted in ENTRY_DROP_CNT (R273, R275) -/
  drops : Nat := 0
  /-- heads that waited for a layer to empty and ended then (R282): of the conversion queue (true) or of the row queue, and the FAULT_ADDR of one
  that failed -/
  accEnd : List (Bool × Option Nat) := []
deriving DecidableEq, Repr

/-- A task as it begins on a slot (R127, R136), with its program: kept so that a replay can begin it again. -/
structure Begun where
  task : Task
  prog : Prog
  handle : Nat
deriving DecidableEq, Repr

/-- The state words restored with a replay: MSTAT, RSTAT, CSTAT (R231, R264). -/
structure StatWords where
  mstat : Nat := 0
  rstat : Nat := 0
  cstat : Nat := 0
deriving DecidableEq, Repr

/-- Everything a core holds for one logical slot. -/
structure CoreSt where
  prog : Option CoreProg := none
  scratch64k : Nat := 0
  threads : List (Nat × Thread) := []
  matq : List (QEntry MatOp) := []
  acc : List (Nat × W32) := []
  /-- the draw that gives the accumulators' contents after a task has ended (R166) -/
  accDraw : Option Nat := none
  stat : StatWords := {}
  ctxs : List VCtx := []
  rowq : List (QEntry Nat) := []
  convq : List (QEntry (ConvOp × Nat)) := []
  packq : List (QEntry Nat) := []
  l1 : List L1Line := []
  mregs : List MissReg := []
  /-- lines of the instruction buffer, most recently used first (R131) -/
  ibuf : List (Nat × List Byte) := []
  /-- the thread that issued last (R129) -/
  lastIssued : Nat := 1023
  /-- the head of the row queue or of the conversion queue has done all but the accumulate requests that wait (R282) -/
  rowBusy : Bool := false
  convBusy : Bool := false
deriving DecidableEq, Repr

/-- A stream descriptor (Table 05.10). -/
structure StreamDesc where
  src : Nat
  dst : Nat
  rowBytes : Nat
  rows : Nat
  srcStride : Int
  dstStride : Int
  kind : Nat
  depth : Nat
  syncId : Nat
  signalN : Nat
  flags : Nat
deriving DecidableEq, Repr

/-- What a stream slot runs: a stream, or the NWRITE of R414, which uses the slot until its completion. -/
inductive StreamRun where
  | move (d : StreamDesc)
  | nwrite (hub qpn lastPsn : Nat) (syncId signalN : Nat) (signalEn : Bool)
deriving DecidableEq, Repr

/-- A stream slot (R150 to R156): what runs and what ran last, a status forced on it (R154), completions since boot, and the last completion word. -/
structure StreamSlot where
  run : Option StreamRun := none
  last : Option StreamRun := none
  forced : Option Nat := none
  seq : Nat := 0
  word : Nat := 0
  taskSid : Nat := 0
  /-- an NWRITE that a replayed instruction takes over (R415) -/
  adopt : Bool := false
deriving DecidableEq, Repr

/-- A part of a replay: the configuration under which its work first ran (R475), and how many instructions, queue entries and streams are still to be
redone once it is over. -/
structure ReplayPart where
  conf : List (Nat × Nat)
  instrs : Nat := 0
  entries : Nat := 0
  posts : Nat := 0
deriving DecidableEq, Repr

/-- What the seal of a slot holds at a boundary (R472): the slot's context, its scratchpad, its streams' slots, and what a replay still
suppressed then, with the parts it had left. -/
structure SealRec where
  core : CoreSt
  spad : List Host.Cell
  undef : List UndefRange
  streams : List (Nat × StreamSlot)
  /-- the slot's instructions in the team's stack unit -/
  stkq : List (QEntry StkOp)
  suppress : EffectCount
  parts : List ReplayPart := []
deriving DecidableEq, Repr

/-- Per-slot bookkeeping of the team node (R148, R472 to R475). -/
structure SlotNode where
  eff : EffectCount := {}
  suppress : EffectCount := {}
  sealed : Option SealRec := none
  /-- 0 working, 1 stopped and being restored, 2 replaying, 3 stopped for good, 4 restored and waiting for its host core (R479) -/
  mode : Nat := 0
  /-- tasks that have begun on the slot since the seal, and those of them that are still to begin again in a replay, oldest first (R474) -/
  begun : List Begun := []
  replayQ : List Begun := []
  /-- the parts of a replay in order, each with the configuration under which its work first ran (R475) -/
  parts : List ReplayPart := []
deriving DecidableEq, Repr

/-- A SIGNAL on its way to the team node that holds the object (R146, R147). -/
structure SignalMsg where
  src : Nat
  obj : Nat
  n : Nat
deriving DecidableEq, Repr

/-- A frame of an activation stack (R323): data with its tag, or a mark with its tag and user word. -/
inductive Frame where
  | data (tag : Nat) (bytes : List Byte)
  | mark (tag : Nat) (user : Nat)
deriving DecidableEq, Repr

/-- A row-engine record (Table 08.6) as its 16 bytes' number. -/
structure RowRec where
  stat0 : Nat
  stat1 : Nat
  tensor : Nat
  flags : Nat
  nInf : Nat
deriving DecidableEq, Repr

/-- Everything a logical team holds beside its cores: row engine (R224 to R230) and activation stack (R322 to R329). -/
structure TeamSt where
  rotor : Nat := 7
  side : List (Nat × RowRec) := []
  ovf : List (Nat × RowRec) := []
  stkq : List (Nat × QEntry StkOp) := []
  frames : List Frame := []
  used : Nat := 0
  held : Nat := 0
  /-- bytes in the near share, and whether the head of the queue waits for a spill or refill (R327) -/
  near : Nat := 0
  waiting : Bool := false
  /-- the spill or refill the head waited for is done -/
  moved : Bool := false
  ballast : Bool := false
deriving DecidableEq, Repr

/-- A NaN report on its way to the trap latch (R269 to R271): its source, the time of the write, and the body of Table 10.4. -/
structure NanRep where
  hub : Bool
  src : Nat
  unit : Nat
  wrote : Nat
  body : List Byte
deriving DecidableEq, Repr

/-- The tower: cores by logical core number, slots' team-node records, streams by slot id, sync counts, watches, messages. -/
structure TowerSt where
  cores : List (Nat × CoreSt) := []
  slots : List (Nat × SlotNode) := []
  streams : List (Nat × StreamSlot) := []
  sync : List (Nat × Nat) := []
  watches : List (Nat × List Nat) := []
  signals : List SignalMsg := []
  wakes : List (Nat × Nat) := []
  teams : List (Nat × TeamSt) := []
  nans : List NanRep := []
deriving DecidableEq, Repr

end Sys2Proof.Machine
end

