-- ==== Sys2Proof/Machine/StateDev.lean ====
section
/-! DEFINITION. The state of the device as a whole: fuses, device state and stage (chapters 00, 04, 17). -/

namespace Sys2Proof.Machine

/-- Fuses (R4, Table 17.8): values a shipped part holds. -/
structure FuseSt where
  variant : Nat
  stepping : Nat
  uid : Nat
  macBase : Nat
  expHubs : Nat
  expStacks : Nat
  maxDegraded : Nat
  maxHalf : Nat
  pinMin : Nat
  rollback : Nat
  /-- SHA-512 of the root signing key (R522) -/
  rootHash : List Byte
deriving DecidableEq, Repr

/-- Device state and stage (R99). -/
structure DevSt where
  fuses : FuseSt
  /-- 0 BRINGUP, 1 TOPOLOGY_HOLD, 2 READY, 3 ABANDONED -/
  state : Nat := 0
  stage : Nat := 0
  pinRate : Nat := 0
  fwVersion : Nat := 0
  hubsLost : List Nat := []
  hubsPresent : List Nat := []
  /-- hubs present whose SRAM failed its test in stage 5 (Table 17.7) -/
  sramBad : List Nat := []
deriving DecidableEq, Repr

end Sys2Proof.Machine
end

