-- ==== Sys2Proof/Machine/StateEth.lean ====
section
/-! DEFINITION. The state of the Ethernet ports, the pack protocol's streams and the RoCEv2 connections (chapter 15). -/

namespace Sys2Proof.Machine

/-- A RoCEv2 packet that a port sends (R411 to R415): the remote connection, the packet number, and what its kind carries: address, key, length,
immediate data and payload of a write; the code of a NAK; the payload of a read's answer. -/
inductive RcTx where
  | write (qpn psn va rkey len imm : Nat) (first last : Bool) (data : List Byte)
  | ack (qpn psn : Nat)
  | nak (qpn psn code : Nat)
  | readResp (qpn psn : Nat) (first last : Bool) (data : List Byte)
  | cnp (qpn : Nat)
deriving DecidableEq, Repr

/-- What a port sends: a pack datagram or a RoCEv2 packet (of a connection's address family) to an IP address; an answer to ARP (to the asking station) or to a Neighbour Solicitation; a
report that joins or leaves a group; a pause frame; a PTP Delay_Req, to an IP address or, with 0, over Layer 2. -/
inductive EthTx where
  | pack (hub port dstIp : Nat) (bytes : List Byte)
  | roce (hub port : Nat) (v6 : Bool) (dstIp : Nat) (p : RcTx)
  | arpReply (hub port mac dstIp : Nat)
  | neighbourAdvert (hub port dstIp : Nat)
  | groupJoin (hub port group : Nat)
  | groupLeave (hub port group : Nat)
  | pfc (hub port prio : Nat) (xoff : Bool)
  | delayReq (hub port domain dstIp : Nat)
deriving DecidableEq, Repr

/-- A frame on the wire: its Ethernet, IP and UDP headers as bytes (R6, R406), and what it carries. -/
structure TxFrame where
  head : List Byte
  msg : EthTx
deriving DecidableEq, Repr

/-- A port (R404, Table 15.3): state 0 DOWN, 1 TRAINING, 2 UP; its counters; for each paused priority the time until which it is paused; since when
it has been paused; until when pause frames on a priority are ignored; the frames that wait for the end of a pause, oldest first; the bytes in each
priority's receive buffer and the priorities under XOFF (R407). `trainAt` is the time of the last change of state. -/
structure PortSt where
  state : Nat := 0
  downCnt : Nat := 0
  fecCorr : Nat := 0
  fecUncorr : Nat := 0
  rxFrames : Nat := 0
  txFrames : Nat := 0
  rxBadFcs : Nat := 0
  rxDrop : Nat := 0
  pfcRx : Nat := 0
  pfcWd : Nat := 0
  pausedTill : List (Nat × Nat) := []
  pausedSince : List (Nat × Nat) := []
  ignoreTill : List (Nat × Nat) := []
  txHeld : List EthTx := []
  rxFill : List (Nat × Nat) := []
  xoff : List Nat := []
  trainAt : Nat := 0
deriving DecidableEq, Repr

/-- Counters of a hub (Table 15.11). -/
structure HubEth where
  malformed : Nat := 0
  nackTx : Nat := 0
  nackRx : Nat := 0
  retx : Nat := 0
  repeatCnt : Nat := 0
  repair : Nat := 0
  relay : Nat := 0
  rcErr : Nat := 0
  lastReason : Nat := 0
  lastMember : Nat := 0
deriving DecidableEq, Repr

/-- A sequenced message that a sender holds. -/
structure OutMsg where
  seq : Nat
  step : Nat
  bytes : List Byte
deriving DecidableEq, Repr

/-- A sending stream (R416, R421, R422): unicast to (member, h′) or multicast to a group. `next` numbers the next message, `sent` the next to put on
the wire, `acked` the first not acknowledged, `limit` the first beyond the credit; the resend interval and the time it runs from; the send rate, in
units of 2^-32 of the port's, and since when it recovers. -/
structure SendStream where
  pack : Nat
  mc : Bool
  srcHub : Nat
  dst : Nat
  dstHub : Nat
  next : Nat := 0
  sent : Nat := 0
  acked : Nat := 0
  limit : Nat := 0
  held : List OutMsg := []
  since : Nat := 0
  interval : Nat := 300000
  rate : Nat := 4294967296
  rateAt : Nat := 0
  /-- the port the stream is on (R418) -/
  port : Option Nat := none
deriving DecidableEq, Repr

/-- A receiving stream (R421 to R424): `next` is the next SEQ to deliver; messages beyond a gap; deliveries not yet acknowledged and since when; the
first SEQ beyond the credit granted, and the one that the last ACK gave; whether a CE mark waits to be echoed; since when a gap has lasted, and the last REPAIR. -/
structure RecvStream where
  pack : Nat
  mc : Bool
  member : Nat
  /-- source hub of a unicast stream, 0 for multicast; and the address index h′, or the group index -/
  srcHub : Nat
  hub : Nat
  next : Nat := 0
  buffer : List (Nat × List Byte) := []
  unacked : Nat := 0
  unackedAt : Nat := 0
  limit : Nat := 0
  told : Nat := 0
  ce : Bool := false
  gapSince : Option Nat := none
  lastRepair : Option Nat := none
deriving DecidableEq, Repr

/-- A SCALE not yet acknowledged (R423). -/
structure ScaleOut where
  pack : Nat
  step : Nat
  tensor : Nat
  dst : Nat
  bytes : List Byte
  at_ : Nat
deriving DecidableEq, Repr

/-- An NWRITE in flight on a connection (R414): the stream slot, its packet numbers, and its packets, which the hub holds (R415). -/
structure Flight where
  slot : Nat
  firstPsn : Nat
  lastPsn : Nat
  pkts : List RcTx
deriving DecidableEq, Repr

/-- A RoCEv2 connection (R411 to R415). -/
structure RcConn where
  qpn : Nat
  hub : Nat
  port : Nat
  v6 : Bool
  remoteQpn : Nat
  remoteAddr : Nat
  rkey : Nat
  recvPsn : Nat
  sendPsn : Nat
  error : Bool := false
  closing : Option Nat := none
  retries : Nat := 0
  since : Nat := 0
  /-- send rate in units of 2^-32 of the port's, and the time of its last change -/
  rate : Nat := 4294967296
  rateAt : Nat := 0
  flights : List Flight := []
  /-- the write request being received: address and length -/
  write : Option (Nat × Nat) := none
deriving DecidableEq, Repr

/-- The port block's clock choice (R410): the selected port, its master, and the time of the master's last Announce. -/
structure PtpSel where
  port : Nat
  master : PtpMaster
  heard : Nat
deriving DecidableEq, Repr

/-- The Ethernet side: ports by hub × 16 + port, hubs' counters, connections, streams, SCALEs, for each hub which waiting stream it last granted a
credit (R422), the PTP choice, and the frames sent, oldest first (the model's own record of an output). -/
structure EthSt where
  ports : List (Nat × PortSt) := []
  hubs : List (Nat × HubEth) := []
  conns : List RcConn := []
  sends : List SendStream := []
  recvs : List RecvStream := []
  scales : List ScaleOut := []
  grantAt : List (Nat × Nat) := []
  ptp : Option PtpSel := none
  tx : List TxFrame := []
deriving DecidableEq, Repr

end Sys2Proof.Machine
end

