-- ==== Sys2Proof/Machine/StateRel.lean ====
section
/-! DEFINITION. The reliability state: teams and their spares, bond bundles, clock triples, the field fault record, modules (chapter 18). -/

namespace Sys2Proof.Machine

/-- A logical team's hardware (R21, R479, R480, Table 18.7): its physical team, the slot on core 8, the slot served by another slot's core
with that slot, the fenced physical cores, its state, substitutions, and what is due at the next boundary. -/
structure TeamRel where
  moved : Option Nat := none
  onSpare : Option Nat := none
  shared : Option (Nat × Nat) := none
  fenced : Nat := 0
  degraded : Bool := false
  lost : Bool := false
  subst : Nat := 0
  /-- CAUSE, SLOT_FAILED, SLOT_HOST of a degradation due (R479) -/
  degradeDue : Option (Nat × Nat × Nat) := none
  /-- CAUSE and SLOT_FAILED of a loss due (R480), and the tick of its fault -/
  lostDue : Option (Nat × Nat × Nat) := none
  /-- slots whose sealed state was unreadable: their tasks stop at the next boundary (R478) -/
  stateLost : List Nat := []
  /-- the substitution is not shown yet (R477) -/
  fresh : Bool := false
deriving DecidableEq, Repr

/-- A bond bundle (R483 to R486): failed lanes, marginal lanes replaced, lanes to be replaced at the next boundary (true for a failed
one), half width. -/
structure BundleRel where
  ref : BundleRef
  failed : List Nat := []
  swapped : List Nat := []
  due : List (Nat × Bool) := []
  half : Bool := false
deriving DecidableEq, Repr

/-- A margin scan in progress (R488): slots taken per physical team, and what it has found. -/
structure ScanRun where
  layer : Nat
  swap : Bool
  slots : List (Nat × Nat) := []
  lanes : Nat := 0
  marginal : Nat := 0
  swapped : Nat := 0
  minMargin : Nat := 255
deriving DecidableEq, Repr

/-- A fault found in TOPOLOGY_HOLD (R464): of a core, with its cause and whether its sealed state was readable; of a stack, a harness module, a hub;
of a team's common domain, with its cause (a number from 256 on names the node of a physical team that no logical team uses); or of a
bundle that no team owns. -/
inductive HeldFault where
  | core (c cause : Nat) (readable : Bool)
  | stack (n : Nat)
  | module (hub m : Nat)
  | hub (k : Nat)
  | common (team cause : Nat)
  | unowned
deriving DecidableEq, Repr

/-- The reliability state. -/
structure RelSt where
  teams : List (Nat × TeamRel) := []
  bundles : List BundleRel := []
  bonds : List (TripleRef × Nat) := []
  scans : List ScanRun := []
  /-- field fault record in the flash, and entries that wait to be written (R481) -/
  ffr : List (List Byte) := []
  ffrPending : List (List Byte) := []
  modules : List (Nat × Nat) := []
  /-- harness credits of the modules that no longer have all of them: hub and module, credits to the hub, credits to the tower (R28) -/
  credits : List ((Nat × Nat) × Nat × Nat) := []
  /-- faults found in TOPOLOGY_HOLD, oldest first (R464) -/
  heldFaults : List HeldFault := []
  /-- physical teams whose margin a scan slot has used in this tick (R484) -/
  scanned : List Nat := []
  /-- slots that the background scan has taken since READY, by physical team, and by 264 + physical team for bundles that no team owns (R484) -/
  bgSlots : List (Nat × Nat) := []
  alert : Bool := false
  substCnt : Nat := 0
  degradeCnt : Nat := 0
  lostCnt : Nat := 0
  stateLostCnt : Nat := 0
  swapCnt : Nat := 0
  failCnt : Nat := 0
  clkOneCnt : Nat := 0
  halfCnt : Nat := 0
  sealCeCnt : Nat := 0
  moduleCnt : Nat := 0
deriving DecidableEq, Repr

end Sys2Proof.Machine
end

