-- ==== Sys2Proof/Machine/StateStep.lean ====
section
/-! DEFINITION. The state of a training step: tensors, epochs, packs, the tally and the groom engine (chapters 12 to 14). -/

namespace Sys2Proof.Machine

/-- A factor refresh that has started (R388, R389): the step it belongs to, or none for the definition's own (R372), and what it read then, unless a
read failed: the hyperparameter block, STAT_L and STAT_R. -/
structure RefreshJob where
  step : Option Nat
  inputs : Option (List Byte × List (List Nat) × List (List Nat))
deriving DecidableEq, Repr

/-- A tensor descriptor (Table 04.9) with what the device keeps of it: the epoch switches since its definition (R314), a layout failure
(R373), the initial factor refresh still due (R372), and the TENSOR_DROP that waits for a fence (R115). -/
structure Tensor where
  id : Nat
  kind : Nat
  fmt : Nat
  log2 : Nat
  flags : Nat
  rule : Nat
  hub : Nat
  refresh : Nat
  chunk : Nat
  rows : Nat
  cols : Nat
  master : Nat
  work : Nat
  hyper : Nat
  switches : Nat := 0
  check6 : Bool := false
  lostState : Bool := false
  dropping : Option Nat := none
  /-- factor refreshes that have started and are not yet done, in order -/
  refreshes : List RefreshJob := []
  /-- the steps whose decisions make refreshes due at the next boundary, in order (R388) -/
  refreshNext : List Nat := []
  /-- a refresh done and not yet in use: the step whose statistics built it -/
  refreshed : Option Nat := none
  /-- pushed in the epoch switch that runs (R317) -/
  pushed : Bool := false
deriving DecidableEq, Repr

/-- A row that has been counted and not yet converted (R356): its values with the tensor scale left out, and the messages whose buffers it
holds. -/
structure Staged where
  row : Nat
  member : Nat
  vals : List FVal
  msgs : Nat
deriving DecidableEq, Repr

/-- Segments of a row delivered so far, without ROW_END (R420): blocks delivered and their values. -/
structure RowSeg where
  member : Nat
  row : Nat
  blocks : Nat
  vals : List FVal
  msgs : Nat
deriving DecidableEq, Repr

/-- The partial norms of an owner for a tensor (R361, R362): the exact sum of squares in units of `2 ^ -298`, per chunk likewise; `last` is set
once its last shard-done message is delivered. -/
structure Partial where
  member : Nat
  sumsq : Nat := 0
  chunks : List (Nat × Nat) := []
  nonfinite : Bool := false
  last : Bool := false
deriving DecidableEq, Repr

/-- The phase of a groom update (R378 to R381, R397). -/
inductive UpdPhase where
  | running | finished | failed (cause : Nat)
deriving DecidableEq, Repr

/-- A groom update of one tensor for one step: its shadow slot, phase, and the values latched when it began: hyperparameter block, bitmap and
arithmetic mode (R267, R377), and its footprint. -/
structure Update where
  tensor : Nat
  shadow : Option Nat
  phase : UpdPhase
  hyper : List Byte
  bitmap : List Byte
  strict : Bool
  footprint : Nat
  /-- it failed, or ran, after the pack's decision to commit (R398) -/
  late : Bool := false
  /-- row mode (R379): the trained rows whose shadow rows are written, the largest finite magnitude of their MASTER, and their first NaN -/
  written : List Nat := []
  amax : Nat := 0
  nan : Option Nat := none
  /-- that NaN has been reported (R269) -/
  nanSent : Bool := false
deriving DecidableEq, Repr

/-- A tensor in one step of its pack (R352 to R363): T of each member, rows this device has sent, segments, counted rows waiting in staging,
contribution bits, accumulators and NaN bits per row, rows reduced here, reduced rows received (FP32 codes) and parts of such rows, shard-done
messages, and the bitmap read for the step (R186). -/
structure TensorStep where
  tensor : Nat
  ts : List (Nat × Int) := []
  sentRows : List Nat := []
  segs : List RowSeg := []
  staged : List Staged := []
  bits : List (Nat × List Nat) := []
  /-- per row, the integers that each member's contribution adds, by ascending member (R357) -/
  accs : List (Nat × List (Nat × List Int)) := []
  nanBits : List (Nat × List Nat) := []
  /-- members whose row has been converted, per row -/
  convd : List (Nat × List Nat) := []
  doneRows : List Nat := []
  reduced : List (Nat × List Nat) := []
  /-- reduced rows received and released again (R381) -/
  released : List Nat := []
  /-- partial norms of the rows of this device's shard that are reduced (R362) -/
  own : Partial := { member := 0 }
  redPart : List (Nat × Nat × List Nat) := []
  partials : List Partial := []
  shardSent : Bool := false
  bitmap : Option (List Byte) := none
  /-- the tally has reported a NaN of this tensor and step (R269) -/
  nanSent : Bool := false
  /-- reduced rows lost to an error (R396) -/
  rowsLost : Bool := false
deriving DecidableEq, Repr

/-- A step of a pack that is open, or decided and not yet finished with (R352, R364 to R367, R393, R398). -/
structure PackStep where
  step : Nat
  tensors : List TensorStep := []
  /-- votes held: member and commit -/
  votes : List (Nat × Bool) := []
  fence : Option Nat := none
  fenceAt : Nat := 0
  voted : Option Bool := none
  votedAt : Nat := 0
  /-- commit, DECIDED_BY and the status of the fallback -/
  decision : Option (Bool × Nat × Nat × Nat) := none
  applied : Bool := false
  updates : List Update := []
  waitedShadow : List Nat := []
  waitedFactor : List Nat := []
deriving DecidableEq, Repr

/-- A pack (R342, Table 15.9): members' addresses by hub index, port masks, shadow extents and multicast groups of the hubs, tensors in the
table's order. -/
structure Pack where
  id : Nat
  n : Nat
  me : Nat
  v6 : Bool
  members : List (List Nat)
  ports : List Nat
  extents : List (Nat × Nat)
  groups : List Nat
  tensors : List Nat
  lastFenced : Option Nat := none
  lastDecided : Option Nat := none
  releasing : Option Nat := none
  steps : List PackStep := []
deriving DecidableEq, Repr

/-- A copy-back in progress (R393). -/
structure CopyBack where
  tensor : Nat
  pack : Nat
  shadow : Nat
deriving DecidableEq, Repr

/-- An epoch switch (Table 12.1): the step, whether the previous epoch has been retired, whether pushes have run. -/
structure Switch where
  step : Nat
  retired : Bool := false
  started : Bool := false
deriving DecidableEq, Repr

/-- An EVAL_SNAPSHOT in progress (R337). -/
structure Snapshot where
  sid : Nat
  epoch : Nat
  copied : Bool := false
  /-- steps that every pack had decided when it was accepted: their epoch switch does not wait for it (R317) -/
  before : List Nat := []
deriving DecidableEq, Repr

/-- PACK counters (Table 13.5). -/
structure PackCnt where
  contrib : Nat := 0
  dup : Nat := 0
  stale : Nat := 0
  unknown : Nat := 0
  under : Nat := 0
  tallySat : Nat := 0
  nonfinite : Nat := 0
  timeout : Nat := 0
  skip : Nat := 0
  fallback : Nat := 0
deriving DecidableEq, Repr

/-- GROOM counters and LAST fields (Table 14.9). -/
structure GroomCnt where
  rerun : Nat := 0
  fail : Nat := 0
  diverge : Nat := 0
  factorBad : Nat := 0
  waitShadow : Nat := 0
  waitFactor : Nat := 0
  lastTensor : Nat := 0
  lastCause : Nat := 0
  lastHub : Nat := 0
  lastDiverged : Bool := false
  lastStep : Nat := 0
deriving DecidableEq, Repr

/-- The state of the training step. -/
structure StepSt where
  tensors : List Tensor := []
  packs : List Pack := []
  epochCur : Nat := 0
  epochPrev : Option Nat := none
  switch : Option Switch := none
  snapshot : Option Snapshot := none
  evalResume : Bool := false
  copyBacks : List CopyBack := []
  /-- the groom mode latched per step (R267): step and STRICT bit; and the steps of which a reduced shard has reached a hub -/
  latched : List (Nat × Bool) := []
  latchDue : List Nat := []
  cnt : PackCnt := {}
  groom : GroomCnt := {}
deriving DecidableEq, Repr

end Sys2Proof.Machine
end

