-- ==== Sys2Proof/Machine/StateTherm.lean ====
section
/-! DEFINITION. The state of the thermal controller: sensors, regions, coolant, trip and the bridle window (chapter 19). -/

namespace Sys2Proof.Machine

/-- A thermal region (R504 to R508): throttle step, time of the last deepening, since when it is cool enough to be released, curb level in
force and curb level due at the next boundary (0 none to 4 for 0 %), rein with its cause, length and end of the grace interval, whether a curb was
imposed, and the neighbours under whose temperature limit of R511 it stands. -/
structure RegionSt where
  step : Nat := 0
  deepenAt : Option Nat := none
  coolSince : Option Nat := none
  curb : Nat := 0
  curbDue : Nat := 0
  rein : Bool := false
  cause : Nat := 0
  graceMs : Nat := 0
  graceEnd : Nat := 0
  imposed : Bool := false
  pairing : List Nat := []
deriving DecidableEq, Repr

/-- The thermal controller. Temperatures are in 1/16 °C; times are the model's clock. -/
structure ThermSt where
  temp : List (Nat × Int) := []
  est : List (Nat × Int) := []
  suspect : List Nat := []
  waived : List Nat := []
  /-- since when estimate and reading differ by more than 6 °C (R501) -/
  diffSince : List (Nat × Nat) := []
  /-- since when the reading has not changed, and the estimate then -/
  stuckSince : List (Nat × (Nat × Int)) := []
  silentSince : List (Nat × Nat) := []
  /-- since when a reading or estimate of R512 has been at or above the trip value -/
  hotSince : List (Nat × Nat) := []
  estHotSince : List (Nat × Nat) := []
  regions : List (Nat × RegionSt) := []
  tripped : Bool := false
  coldSince : Option Nat := none
  window : Option Bool := none
  winOkSince : Option Nat := none
  flow : Nat := 0
  lowSince : Option Nat := none
  flowLow : Bool := false
  coolantHot : Bool := false
  suspectCnt : Nat := 0
  reinCnt : Nat := 0
  curbCnt : Nat := 0
  pullCnt : Nat := 0
deriving DecidableEq, Repr

end Sys2Proof.Machine
end

