-- ==== Sys2Proof/Machine/State.lean ====
section
/-! DEFINITION. The state of the block, its state at reset, and the closed lists of faults and refusals. -/

namespace Sys2Proof.Machine

/-- Why the block stops with a fault. No command of the spec stops the block as a whole, so the list is empty of reasons but one, kept
for a machine word that no state of the part can hold; nothing raises it. Safe. -/
inductive Fault where
  /-- Raised by nothing. Safe. -/
  | none
deriving DecidableEq, Repr

/-- Why a command has no meaning in the model. -/
inductive Refusal where
  /-- Raised by Dispatch for a row without a meaning yet. Safe: nothing is claimed of the command. -/
  | notModelled (mnemonic : String)
deriving DecidableEq, Repr

/-- The whole state of the part (INVENTORY.md, State). -/
structure State where
  /-- commands that wait, first in, first out -/
  pending : List Instr
  /-- the model's clock, in thirds of a nanosecond: one ck is 2, one µs is 3,000 (R7). The model's own field. -/
  now : Nat
  /-- number of free values drawn so far. The model's own field. -/
  draws : Nat
  dev : DevSt
  mp : MpSt
  cfg : CfgSt
  progs : List (Nat × Prog)
  tick : TickSt
  watch : WatchSt
  tower : TowerSt
  mem : MemSt
  step : StepSt
  therm : ThermSt
  rel : RelSt
  eth : EthSt
  bxl : BxlSt
  bring : BringSt
  fw : FwSt
  pin : PinSt
deriving DecidableEq, Repr

/-- The fuses of the part the model is of (log entry 1). -/
def resetFuses : FuseSt :=
  ⟨0x0001, 0x0002, 0, 0, 0x0F, 0xFFFFFF, 0, 0, 80, 0, Config.rootKeyHash⟩

/-- The state right after reset. -/
def State.reset : State :=
  { pending := [], now := 0, draws := 0, dev := { fuses := resetFuses }, mp := {}, cfg := {}, progs := [], tick := {}, watch := {},
    tower := {}, mem := {}, step := {}, therm := {}, rel := {}, eth := {}, bxl := {}, bring := {},
    fw := {}, pin := {} }

end Sys2Proof.Machine
end

