-- ==== Sys2Proof/Machine/Cfg.lean ====
section
/-! DEFINITION. Control-space configuration: the SH words with their fields, ranges and apply classes (R88, R124, R125, Tables 02.5 to
02.9, 04.16, 04.17), and the named fields of the active configuration. -/

namespace Sys2Proof.Machine

/-- Apply class of an SH field (R92, Table 03.13). -/
inductive ShCls where
  | t | nm (n : Nat) | eval | groom (k : Nat) | eth (k : Nat)
deriving DecidableEq, Repr

/-- A field of an SH word: place, reset value, range, alignment. -/
structure ShField where
  lo : Nat
  len : Nat
  reset : Nat
  min : Nat
  max : Nat
  align : Nat
deriving DecidableEq, Repr

/-- An SH word. -/
structure ShWord where
  addr : Nat
  cls : ShCls
  fields : List ShField
deriving DecidableEq, Repr

def baseDev : Nat := 0x7F0000000000
def baseCmd : Nat := 0x7F0000010000
def baseTick : Nat := 0x7F0000020000
def baseRation : Nat := 0x7F0000021000
def baseTherm : Nat := 0x7F0000022000
def baseWatch : Nat := 0x7F0000030000
def baseArith : Nat := 0x7F0000031000
def baseLc : Nat := 0x7F0000040000
def baseNm : Nat := 0x7F0000041000
def baseEval : Nat := 0x7F0000043000
def baseLedger : Nat := 0x7F0000044000
def baseGroom : Nat := 0x7F0000050000
def basePack : Nat := 0x7F0000051000
def baseEth : Nat := 0x7F0000060000
def baseFw : Nat := 0x7F0000070000

/-- A field whose range is its width. -/
def wide (lo len reset : Nat) : ShField := ⟨lo, len, reset, 0, 2 ^ len - 1, 1⟩

/-- SH words of the tick, ration, thermal, watch, arithmetic and cache blocks. -/
def shWordsA : List ShWord :=
  [⟨baseTick, .t, [⟨0, 13, 1000, 250, 8000, 1⟩, ⟨16, 5, 8, 4, 25, 1⟩, wide 24 2 0]⟩,
   ⟨baseTick + 8, .t, [wide 0 23 0]⟩,
   ⟨baseTick + 0x30, .t, [⟨0, 48, 0, 0, 2 ^ 48 - 1, 64⟩]⟩,
   ⟨baseTick + 0x38, .t, [wide 0 16 0]⟩,
   ⟨baseRation, .t, [⟨0, 12, 1200, 1200, 3400, 1⟩, wide 16 12 0, ⟨32, 7, 10, 1, 100, 1⟩, wide 40 2 0]⟩,
   ⟨baseTherm, .t, [⟨0, 9, 50, 10, 500, 1⟩]⟩,
   ⟨baseTherm + 8, .t, [wide 0 1 0]⟩,
   ⟨baseWatch, .t, [⟨0, 7, 99, 1, 100, 1⟩, wide 7 1 1, ⟨16, 16, 256, 1, 65535, 1⟩, wide 32 1 0]⟩,
   ⟨baseWatch + 8, .t, [⟨0, 48, 0, 0, 2 ^ 48 - 1, 64⟩]⟩,
   ⟨baseWatch + 0x10, .t, [wide 0 24 0]⟩,
   ⟨baseArith, .t, [wide 0 4 0]⟩,
   ⟨baseLc, .t, [wide 0 1 0]⟩]

/-- SH words of near memory, layer `n`. -/
def shWordsNm (n : Nat) : List ShWord :=
  [⟨baseNm + 8 * n, .nm n, [⟨0, 16, 1024, 256, 2048, 64⟩, ⟨16, 16, 768, 0, 2048, 64⟩, ⟨32, 16, 128, 0, 2048, 64⟩,
     ⟨48, 16, 128, 0, 2048, 64⟩]⟩,
   ⟨baseNm + 0x20 + 0x10 * n, .nm n, [⟨0, 48, 0, 0, 2 ^ 48 - 1, 2048⟩]⟩,
   ⟨baseNm + 0x28 + 0x10 * n, .nm n, [⟨0, 32, 0, 0, 65536, 64⟩]⟩]

/-- SH words of the evaluation slice, the ledger, the groom engines and the packs. -/
def shWordsB : List ShWord :=
  ((List.range 4).map fun i => (⟨baseEval + 8 * i, .eval, [wide 0 64 0]⟩ : ShWord)) ++
  [⟨baseLedger, .t, [⟨0, 48, 0, 0, 2 ^ 48 - 1, 64⟩]⟩, ⟨baseLedger + 8, .t, [wide 0 16 0]⟩] ++
  ((List.range 6).map fun k => (⟨baseGroom + 8 * k, .groom k, [⟨0, 11, 1024, 64, 1536, 1⟩]⟩ : ShWord)) ++
  [⟨basePack, .t, [⟨0, 32, 5000, 100, 1000000, 1⟩]⟩]

/-- SH words of the Ethernet block of hub `k` (Table 04.16). -/
def shWordsEth (k : Nat) : List ShWord :=
  [⟨baseEth + 0x10 * k, .eth k, [wide 0 64 0x1111111100000000]⟩,
   ⟨baseEth + 0x10 * k + 8, .eth k, [wide 0 16 0, wide 16 16 3, wide 32 16 0xFFFF]⟩]

/-- SH words of the Ethernet block beyond Table 04.16 (Table 15.11). -/
def shWordsEth2 (k : Nat) : List ShWord :=
  [⟨baseEth + 0x80 + 8 * k, .eth k, [wide 0 3 3, wide 3 3 4, wide 6 6 26, wide 12 6 34, wide 18 8 0x18, wide 26 8 0]⟩]
def shWordsPort (k p : Nat) : List ShWord :=
  let b := baseEth + 0x1000 + 0x400 * k + 0x40 * p
  [⟨b + 8, .eth k, [wide 0 48 0, wide 48 12 0]⟩, ⟨b + 0x10, .eth k, [wide 0 32 0]⟩, ⟨b + 0x18, .eth k, [wide 0 64 0]⟩,
   ⟨b + 0x20, .eth k, [wide 0 64 0]⟩]

/-- SH words of the firmware block. -/
def shWordsFw : List ShWord :=
  [⟨baseFw, .t, [⟨0, 10, 10, 1, 1000, 1⟩]⟩, ⟨baseFw + 0x18, .t, [⟨0, 48, 0, 0, 2 ^ 48 - 1, 64⟩]⟩, ⟨baseFw + 0x20, .t, [wide 0 16 0]⟩]

/-- Every SH word, in ascending address. -/
def shWords : List ShWord :=
  shWordsA ++ (List.range 4).flatMap (fun n => (shWordsNm n).take 1) ++ (List.range 4).flatMap (fun n => (shWordsNm n).drop 1) ++
  shWordsB ++ (List.range 6).flatMap shWordsEth ++ (List.range 6).flatMap shWordsEth2 ++
  ((List.range 6).flatMap fun k => (List.range 16).flatMap (shWordsPort k)) ++ shWordsFw

/-- Value of a word from its fields' reset values. -/
def shFieldsReset (fs : List ShField) : Nat := fs.foldl (fun w f => w + f.reset * 2 ^ f.lo) 0

/-- Mask of a word's SH bits. -/
def shMask (fs : List ShField) : Nat := fs.foldl (fun w f => w + (2 ^ f.len - 1) * 2 ^ f.lo) 0

/-- The SH word at an address. -/
def shAt (a : Nat) : Option ShWord := shWords.find? fun w => w.addr == a

/-- Reset value of the SH word at an address. -/
def shReset (a : Nat) : Nat :=
  match shAt a with
  | some w => shFieldsReset w.fields
  | none => 0

/-- Value of an SH word in a configuration. -/
def cfgGet (c : List (Nat × Nat)) (a : Nat) : Nat := (smGet? c a).getD (shReset a)

/-- Configuration with an SH word written; a word at its reset value is not listed. -/
def cfgPut (c : List (Nat × Nat)) (a v : Nat) : List (Nat × Nat) := smSet (shReset a) c a v

/-- Field of an active SH word. -/
def cfgF (s : State) (a lo len : Nat) : Nat := fld (cfgGet s.cfg.active a) lo len

def cfgInterval (s : State) : Nat := cfgF s baseTick 0 13
def cfgReplayPct (s : State) : Nat := cfgF s baseTick 16 5
def cfgSource (s : State) : Nat := cfgF s baseTick 24 2
def cfgPhase (s : State) : Nat := cfgF s (baseTick + 8) 0 23
def cfgTickLog (s : State) : Nat × Nat := (cfgF s (baseTick + 0x30) 0 48, cfgF s (baseTick + 0x38) 0 16)
def cfgEnvelope (s : State) : Nat := cfgF s baseRation 0 12
def cfgFloor (s : State) : Nat := cfgF s baseRation 16 12
def cfgRamp (s : State) : Nat := cfgF s baseRation 32 7
def cfgGait (s : State) : Nat := cfgF s baseRation 40 2
def cfgZeroPct (s : State) : Nat := cfgF s baseWatch 0 7
def cfgStillEn (s : State) : Bool := cfgF s baseWatch 7 1 == 1
def cfgStillSteps (s : State) : Nat := cfgF s baseWatch 16 16
def cfgNanArm (s : State) : Bool := cfgF s baseWatch 32 1 == 1
def cfgWatchLog (s : State) : Nat × Nat := (cfgF s (baseWatch + 8) 0 48, cfgF s (baseWatch + 0x10) 0 24)
/-- Strict mode of a unit: 0 scalar, 1 vector, 2 row engine, 3 groom elementwise (R266). -/
def cfgStrict (s : State) (u : Nat) : Bool := cfgF s baseArith u 1 == 1
def cfgDeadTrap (s : State) : Bool := cfgF s baseLc 0 1 == 1
def cfgCacheMib (s : State) (n : Nat) : Nat := cfgF s (baseNm + 8 * n) 0 16
def cfgAstackMib (s : State) (n : Nat) : Nat := cfgF s (baseNm + 8 * n) 16 16
def cfgRowovfMib (s : State) (n : Nat) : Nat := cfgF s (baseNm + 8 * n) 32 16
def cfgScratchMib (s : State) (n : Nat) : Nat := cfgF s (baseNm + 8 * n) 48 16
def cfgXbase (s : State) (n : Nat) : Nat := cfgF s (baseNm + 0x20 + 0x10 * n) 0 48
def cfgXmib (s : State) (n : Nat) : Nat := cfgF s (baseNm + 0x28 + 0x10 * n) 0 32
/-- EVAL.TEAMS as one 256-bit number. -/
def cfgEvalTeams (s : State) : Nat :=
  (List.range 4).foldl (fun w i => w + cfgGet s.cfg.active (baseEval + 8 * i) * 2 ^ (64 * i)) 0
def cfgLedgerLog (s : State) : Nat × Nat := (cfgF s baseLedger 0 48, cfgF s (baseLedger + 8) 0 16)
def cfgReserveMib (s : State) (k : Nat) : Nat := cfgF s (baseGroom + 8 * k) 0 11
def cfgVoteTimeout (s : State) : Nat := cfgF s basePack 0 32
def cfgGraceMs (s : State) : Nat := cfgF s baseTherm 0 9
def cfgCoolant (s : State) : Nat := cfgF s (baseTherm + 8) 0 1
def cfgNetRing (s : State) : Nat × Nat := (cfgF s (baseFw + 0x18) 0 48, cfgF s (baseFw + 0x20) 0 16)
def cfgTrickle (s : State) : Nat := cfgF s baseFw 0 10

/-! ### Variant figures (Table 00.2) and the address map (R32 to R35) -/

/-- Hubs of a variant. -/
def varHubs (v : Nat) : Nat := if v = 2 then 6 else if v = 4 then 2 else 4
/-- Stacks per hub of a variant. -/
def varStacksPerHub (v : Nat) : Nat := if v = 1 || v = 4 then 6 else 4

def hubCount (s : State) : Nat := varHubs s.dev.fuses.variant
def stacksPerHub (s : State) : Nat := varStacksPerHub s.dev.fuses.variant
/-- Is the hub fitted and not lost? -/
def hubFitted (s : State) (k : Nat) : Bool := decide (k < hubCount s) && !s.dev.hubsLost.contains k
/-- Bytes of a hub's stack window, W of R33. -/
def hubWindow (s : State) : Nat := stacksPerHub s * 80 * 2 ^ 30
/-- First address past the stack region. -/
def stackEnd (s : State) : Nat := hubCount s * hubWindow s

def nearBase : Nat := 0x400000000000
def sramBase : Nat := 0x500000000000
def csBase : Nat := 0x7F0000000000
def csEnd : Nat := 0x800000000000
def sramLen : Nat := 0x60000000
def layerLen : Nat := 0x80000000

/-- A region of the address map that an address lies in. -/
inductive Region where
  | stack (hub : Nat)
  | near (n : Nat)
  | sram (k : Nat)
deriving DecidableEq, Repr

/-- The mapped region of an address (R32, R35); `none` for an unmapped one. -/
def regionOf (s : State) (a : Nat) : Option Region :=
  if a < stackEnd s then
    (if hubFitted s (a / hubWindow s) then some (.stack (a / hubWindow s)) else none)
  else if nearBase ≤ a ∧ a < nearBase + 4 * layerLen then
    let n := (a - nearBase) / layerLen
    if (a - nearBase) % layerLen < cfgScratchMib s n * 2 ^ 20 then some (.near n) else none
  else if sramBase ≤ a ∧ a < sramBase + 6 * 2 ^ 32 then
    let k := (a - sramBase) / 2 ^ 32
    if hubFitted s k && decide ((a - sramBase) % 2 ^ 32 < sramLen) then some (.sram k) else none
  else none

/-- End of the run of fitted hub windows from hub `k` on. -/
def windowsEnd (s : State) : Nat → Nat → Nat
  | 0, k => k * hubWindow s
  | f + 1, k => if hubFitted s k then windowsEnd s f (k + 1) else k * hubWindow s

/-- First address past the mapped range that holds `a`; `a` itself when it is unmapped. -/
def mappedEnd (s : State) (a : Nat) : Nat :=
  match regionOf s a with
  | some (.stack k) => windowsEnd s 6 k
  | some (.near n) => nearBase + n * layerLen + cfgScratchMib s n * 2 ^ 20
  | some (.sram k) => sramBase + k * 2 ^ 32 + sramLen
  | none => a

/-- First byte of `[a, a + len)` that is unmapped, or that lies in another region (R36, R37); `none` when the range is mapped. -/
def unmappedAt (s : State) (a len : Nat) : Option Nat :=
  if len = 0 then none else if a + len ≤ mappedEnd s a then none else some (mappedEnd s a)

/-- Images of the PROG_LOADs that are accepted and still held (R134). -/
def loadsHeld (s : State) : List (Nat × Nat) :=
  s.mp.slots.filterMap fun x =>
    match x.work with
    | .held p 0x0301 => some (getLe p.params 0 8, getLe p.params 8 4)
    | _ => none

/-- The protected extents: the groom-reserved part of each hub's SRAM (R25, R391) and the images of the programs accepted (R134). -/
def protExtents (s : State) : List (Nat × Nat) :=
  ((List.range 6).filter (hubFitted s)).map (fun k => (sramBase + k * 2 ^ 32, cfgReserveMib s k * 2 ^ 20)) ++
  (s.progs.map fun p => (p.2.image, p.2.len)) ++ loadsHeld s

/-- First byte of `[a, a + len)` that is write-protected under R25 or R134. -/
def protectedAt (s : State) (a len : Nat) : Option Nat :=
  (protExtents s).foldl (fun r e =>
    let f := max a e.1
    if f < a + len ∧ f < e.1 + e.2 then
      (match r with | some x => some (min x f) | none => some f)
    else r) none

/-- DETAIL of ST_ADDR_PROTECTED: the hub whose window holds the byte, 0xFF for near memory (R134). -/
def protDetail (s : State) (a : Nat) : Nat :=
  match regionOf s a with
  | some (.stack k) => k
  | some (.sram k) => k
  | _ => 0xFF

/-- Granule of an address within its hub's window, and that hub (R33). -/
def granuleOf (s : State) (a : Nat) : Nat × Nat := (a / hubWindow s, a % hubWindow s / 2048)

/-- Stack that holds an address of the stack region (R33). -/
def stackOf (s : State) (a : Nat) : Nat :=
  let h := granuleOf s a
  h.1 * stacksPerHub s + h.2 % stacksPerHub s

/-- Byte address within its stack (R33). -/
def localOf (s : State) (a : Nat) : Nat := (granuleOf s a).2 / stacksPerHub s * 2048 + a % hubWindow s % 2048

/-- Harness module of an address of hub `k` (R27). -/
def moduleOf (s : State) (k g : Nat) : Nat := let m := 192 / hubCount s; k * m + g % m

end Sys2Proof.Machine
end

