-- ==== Sys2Proof/Machine/Formats.lean ====
section
/-! DEFINITION. Element and block formats (Tables 09.1 to 09.3), decoding (R242, R243), the two-pass conversion to ZB and the MX
conversion (R244 to R252), the counts of R253 and stochastic rounding (R254 to R256). -/

namespace Sys2Proof.Machine

/-- Element bits of a format code (Table 09.1). -/
def fmtBits (c : Nat) : Nat :=
  match c with
  | 0 => 32 | 1 => 16 | 2 => 16 | 3 => 8 | 4 => 8 | 5 => 8 | 6 => 8 | 7 => 6 | 8 => 6 | 9 => 4 | 10 => 8
  | 11 => 8 | 12 => 6 | 13 => 4 | _ => 0

def isZb (c : Nat) : Bool := c == 11 || c == 12 || c == 13
def isMx (c : Nat) : Bool := decide (5 ≤ c) && decide (c ≤ 10)
def isBlockFmt (c : Nat) : Bool := isZb c || isMx c

/-- Mantissa bits and bias of a sign-and-magnitude element format (Table 09.1). -/
def gridOf (c : Nat) : Nat × Int :=
  match c with
  | 3 => (3, 7) | 5 => (3, 7) | 11 => (3, 7)
  | 4 => (2, 15) | 6 => (2, 15)
  | 7 => (2, 3) | 12 => (2, 3)
  | 8 => (3, 1)
  | _ => (1, 1)

/-- Exponent of the smallest positive element. -/
def gridQmin (c : Nat) : Int := 1 - (gridOf c).2 - (gridOf c).1

/-- Largest finite code, sign left out (Table 09.1, R236). -/
def gridMax (c : Nat) : Nat :=
  match c with
  | 3 => 0x7E | 5 => 0x7E | 4 => 0x7B | 6 => 0x7B | 7 => 0x1F | 8 => 0x1F | 9 => 7 | 11 => 0x7F | 12 => 0x1F | _ => 7

/-- The value of a sign-and-magnitude code. -/
def gridDecode (c code : Nat) : FVal :=
  let w := fmtBits c
  let g := gridVal (gridOf c).1 (gridQmin c) (code % 2 ^ (w - 1))
  .fin (code.testBit (w - 1)) g.1 g.2

/-- Block size of a format (R237). -/
def blockSize (log2 : Nat) : Nat := 2 ^ log2

/-- Bytes of one block record (Table 09.2). -/
def recBytes (c log2 : Nat) : Nat := 4 + blockSize log2 * fmtBits c / 8

/-- Is the block size one the format allows (Table 04.9)? -/
def blockLog2Ok (c log2 : Nat) : Bool :=
  if isZb c then decide (4 ≤ log2) && decide (log2 ≤ 7) else if isMx c then log2 == 5 else log2 == 0

/-- Bytes a stored row of `cols` elements occupies: records, and the pool of a ZB row (R241). -/
def rowBytes (c log2 cols pool : Nat) : Nat :=
  if isBlockFmt c then ceilDiv cols (blockSize log2) * recBytes c log2 + (if isZb c then 4 * pool else 0)
  else cols * (fmtBits c / 8)

/-- The value of an element of a format without blocks: FP32, BF16, FP16, FP8 (R235). -/
def plainDecode (c b : Nat) : FVal :=
  match c with
  | 0 => fpVal f32 b
  | 1 => fpVal bf16 b
  | 2 => fpVal f16 b
  | 3 => if b % 128 = 127 then .nan else gridDecode 3 b
  | _ => fpVal e5m2 b

/-- The value of an MX element code before its block scale. -/
def mxElem (c b : Nat) : FVal :=
  match c with
  | 5 => if b % 128 = 127 then .nan else gridDecode 5 b
  | 6 => fpVal e5m2 b
  | 10 => let i := sgn 8 b; .fin (decide (i < 0)) i.natAbs (-6)
  | _ => gridDecode c b

/-- A ZB block header (Table 09.3). -/
structure ZbHdr where
  exp : Int
  tag : Nat
  count : Nat
  side : Nat
deriving DecidableEq, Repr

def zbHdr (w : Nat) : ZbHdr := ⟨sgn 8 w, fld w 8 2, fld w 10 3, fld w 13 19⟩

def zbHdrWord (h : ZbHdr) : Nat := wrapN 8 h.exp + 256 * h.tag + 1024 * h.count + 8192 * h.side

/-- Escape code of a ZB format (R236). -/
def escCode (c : Nat) : Nat := 2 ^ (fmtBits c - 1)

/-- The element codes of a block, packed least significant bit first (R238). -/
def blockCodes (c log2 : Nat) (area : Nat) : List Nat :=
  (List.range (blockSize log2)).map fun i => fld area (fmtBits c * i) (fmtBits c)

/-- Put the escapes' side values in the places of the escape codes, in ascending order. -/
def fillEscapes (esc : Nat) (dec : Nat → FVal) : List Nat → List FVal → List FVal
  | [], _ => []
  | k :: ks, sides =>
    if k = esc then
      match sides with
      | v :: vs => v :: fillEscapes esc dec ks vs
      | [] => .nan :: fillEscapes esc dec ks []
    else dec k :: fillEscapes esc dec ks sides

/-- Is a ZB block malformed (R243)? `codes` are the codes of its elements, padding left out (R241). -/
def zbMalformed (c : Nat) (h : ZbHdr) (codes : List Nat) (off rowEnd : Nat) : Bool :=
  h.tag == 3 || decide (4 < h.count) || decide (h.count < (codes.filter (· == escCode c)).length) ||
  (h.count != 0 && decide (rowEnd < off + 4 * h.side + (if c = 11 then 4 else 2) * h.count))

/-- Decode one block of a stored row that holds `n` elements beside its padding, the tensor scale left out: `row` reads the row's bytes, `off`
is the record's offset and `rowEnd` the end of the row's pool. A malformed block is all NaN, whatever its TAG (R242, R243). -/
def decodeBlock (c log2 n : Nat) (row : Nat → Nat → Nat) (off rowEnd : Nat) : List FVal :=
  let B := blockSize log2
  let hw := row off 4
  let area := row (off + 4) (B * fmtBits c / 8)
  let codes := blockCodes c log2 area
  if isMx c then
    let e8 := hw % 256
    if e8 = 255 then List.replicate B .nan
    else codes.map fun k => fvScale ((e8 : Int) - 127) (mxElem c k)
  else
    let h := zbHdr hw
    let ew := if c = 11 then 4 else 2
    let s0 := off + 4 * h.side
    if zbMalformed c h (codes.take n) off rowEnd then List.replicate B .nan
    else if h.tag = 1 then List.replicate B (.fin false 0 0)
    else if h.tag = 2 then List.replicate B .nan
    else
      let sides := (List.range h.count).map fun n =>
        let b := row (s0 + ew * n) ew
        if c = 11 then fpVal f32 b else fpVal bf16 b
      fillEscapes (escCode c) (fun k => fvScale h.exp (gridDecode c k)) codes sides

/-- Elements of block `i` of a row of `cols` elements. -/
def blockElems (log2 cols i : Nat) : Nat := min (blockSize log2) (cols - i * blockSize log2)

/-- Element `j` of a stored row of `cols` elements, the tensor scale left out. -/
def rowElem (c log2 : Nat) (row : Nat → Nat → Nat) (rowEnd cols j : Nat) : FVal :=
  if isBlockFmt c then
    let B := blockSize log2
    (decodeBlock c log2 (blockElems log2 cols (j / B)) row (j / B * recBytes c log2) rowEnd).getD (j % B) .nan
  else plainDecode c (row (j * (fmtBits c / 8)) (fmtBits c / 8))

/-- The first `cols` elements of a stored row. -/
def rowElems (c log2 : Nat) (row : Nat → Nat → Nat) (rowEnd cols : Nat) : List FVal :=
  if isBlockFmt c then
    let B := blockSize log2
    ((List.range (ceilDiv cols B)).flatMap fun i =>
      decodeBlock c log2 (blockElems log2 cols i) row (i * recBytes c log2) rowEnd).take cols
  else (List.range cols).map fun j => plainDecode c (row (j * (fmtBits c / 8)) (fmtBits c / 8))

/-! ### The conversion function (R245 to R253) -/

/-- What a conversion must know of its destination (R251). -/
structure ConvParams where
  fmt : Nat
  log2 : Nat
  escMax : Nat
  outShift : Nat
  poolWords : Nat
  cols : Nat
deriving DecidableEq, Repr

/-- Counts of a conversion (R253) and the CSTAT conditions it met. -/
structure ConvCount where
  elements : Nat := 0
  zeros : Nat := 0
  sats : Nat := 0
  nonfinite : Nat := 0
  poolFull : Bool := false
deriving DecidableEq, Repr

def ConvCount.add (a b : ConvCount) : ConvCount :=
  ⟨a.elements + b.elements, a.zeros + b.zeros, a.sats + b.sats, a.nonfinite + b.nonfinite, a.poolFull || b.poolFull⟩

/-- `⌈log2 (num / den)⌉` of a positive rational. -/
def ratCeilLog2 (num den : Nat) : Int :=
  let l := ratLog2 num den
  if num * 2 ^ (-l).toNat = den * 2 ^ l.toNat then l else l + 1

def clampInt (lo hi x : Int) : Int := max lo (min hi x)

/-- Magnitude of a finite value as a quotient; 0 for the others. -/
def magQ : FVal → Nat × Nat
  | .fin _ m e => (dyNum m e, dyDen e)
  | _ => (0, 1)

def fvIsFin : FVal → Bool
  | .fin .. => true
  | _ => false

def fvIsNan : FVal → Bool
  | .nan => true
  | _ => false

def fvNegSign : FVal → Bool
  | .fin s _ _ => s
  | .inf s => s
  | .nan => false

/-- `|x| < |y|` of finite values. -/
def magLt (x y : FVal) : Bool :=
  let a := magQ x
  let b := magQ y
  decide (a.1 * b.2 < b.1 * a.2)

/-- MAXV of a ZB format as a dyadic. -/
def maxVal (c : Nat) : FVal :=
  let g := gridVal (gridOf c).1 (gridQmin c) (gridMax c)
  .fin false g.1 g.2

/-- The exponent of the tensor scale from the amax word (R245): a word that is not finite and non-negative counts as 0 and sets
AMAX_LOW (the second component). -/
def tensorExp (c amaxBits : Nat) : Int × Bool :=
  let bad := fpIsNan f32 amaxBits || fpIsInf f32 amaxBits || (fpNeg? f32 amaxBits && !fpIsZero f32 amaxBits)
  if bad then (0, true)
  else
    let a := magQ (fpVal f32 amaxBits)
    let m := magQ (maxVal c)
    if a.1 = 0 then (0, false) else (clampInt (-126) 127 (ratCeilLog2 (a.1 * m.2) (a.2 * m.1)), false)

/-- Insert an index into a list ranked by magnitude, largest first, ties by ascending index (R246). -/
def rankIns (xs : List FVal) (i : Nat) : List Nat → List Nat
  | [] => [i]
  | j :: js =>
    if magLt (xs.getD j .nan) (xs.getD i .nan) then i :: j :: js else j :: rankIns xs i js

/-- Indices of the finite elements, ranked (R246). -/
def ranked (xs : List FVal) : List Nat :=
  ((List.range xs.length).filter fun i => fvIsFin (xs.getD i .nan)).foldl (fun r i => rankIns xs i r) []

/-- Round a magnitude `num / den` to a grid code: to nearest even, or stochastically with the random value `u` (R247, R256), never
beyond the largest code; the Bool tells a saturation. -/
def encodeMag (c : Nat) (u : Option Nat) (num den : Nat) : Nat × Bool :=
  let mb := (gridOf c).1
  let q0 := gridQmin c
  let mx := gridMax c
  let top := magQ (maxVal c)
  if decide (top.1 * den < num * top.2) then
    (mx, true)
  else
    match u with
    | none => ((gridRound mb q0 .near num den).1, false)
    | some u =>
      let lo := gridRound mb q0 .down num den
      if !lo.2 then (lo.1, false)
      else
        let e := ratLog2 num den
        let q := max (e - mb) q0
        let n := num * 2 ^ (-q).toNat
        let d := den * 2 ^ q.toNat
        let frac := (2 ^ 32 * (n % d)) / d
        (if 2 ^ 32 ≤ frac + u then lo.1 + 1 else lo.1, false)

/-- Code of a body element `x / 2^k` (R247): a zero loses its sign. -/
def encodeZb (c : Nat) (u : Option Nat) (k : Int) (x : FVal) : Nat × Bool :=
  let q := magQ (fvScale (-k) x)
  let r := encodeMag c u q.1 q.2
  (if r.1 = 0 then 0 else r.1 + (if fvNegSign x then escCode c else 0), r.2)

/-- A side-list entry `x / S`, rounded once (R250). -/
def sideEntry (c : Nat) (T : Int) (x : FVal) : Nat :=
  if c = 11 then (fpOfVal f32 (fvScale (-T) x)).bits else (fpOfVal bf16 (fvScale (-T) x)).bits

/-- The outcome of one ZB block: its header without SIDE_OFF, codes and side-list entries. -/
structure ZbBlock where
  exp : Int
  tag : Nat
  codes : List Nat
  sides : List Nat
  count : ConvCount
deriving DecidableEq, Repr

def insSorted (i : Nat) : List Nat → List Nat
  | [] => [i]
  | j :: js => if i < j then i :: j :: js else j :: insSorted i js

/-- Convert one block of elements (R246 to R250). `room` is the number of entries the pool still has room for; `u` gives the
random value of the element at a position, where rounding is stochastic. -/
def zbBlock (p : ConvParams) (T : Int) (room : Nat) (u : Nat → Option Nat) (xs : List FVal) : ZbBlock :=
  let c := p.fmt
  let rk := ranked xs
  let at' : Nat → FVal := fun i => xs.getD i .nan
  let r : FVal := if h : p.escMax < rk.length then at' rk[p.escMax] else .fin false 0 0
  let thr := fvScale p.outShift (fvAbs r)
  let outl := (rk.take p.escMax).filter fun i => magLt thr (at' i)
  let nonfin := (List.range xs.length).filter fun i => !fvIsFin (at' i)
  let cand := nonfin ++ outl
  let E := min p.escMax room
  let esc := (cand.take E).foldl (fun l i => insSorted i l) []
  let full := decide (room < p.escMax) && decide (room < cand.length)
  let left := cand.drop E
  let nNonfin := nonfin.length
  if xs.all fvIsZero then
    ⟨0, 1, xs.map fun _ => 0, [], ⟨xs.length, xs.length, 0, 0, full⟩⟩
  else if left.any (fun i => fvIsNan (at' i)) then
    ⟨0, 2, xs.map fun _ => 0, [], ⟨xs.length, 0, 0, nNonfin, full⟩⟩
  else
    let body := (List.range xs.length).filter fun i => !cand.contains i
    let a := body.foldl (fun m i => if magLt m (at' i) then fvAbs (at' i) else m) (.fin false 0 0)
    let aq := magQ (fvScale (-T) a)
    let mv := magQ (maxVal c)
    let ex : Int := if aq.1 = 0 then 0 else clampInt (-127) 127 (ratCeilLog2 (aq.1 * mv.2) (aq.2 * mv.1))
    let enc := (List.range xs.length).map fun i =>
      if esc.contains i then (escCode c, false)
      else if left.contains i then (gridMax c + (if fvNegSign (at' i) then escCode c else 0), true)
      else encodeZb c (u i) (T + ex) (at' i)
    let sides := esc.map fun i => sideEntry c T (at' i)
    let zeroSides := (sides.filter fun b => if c = 11 then fpIsZero f32 b else fpIsZero bf16 b).length
    ⟨ex, 0, enc.map (·.1), sides,
      ⟨xs.length, (enc.filter fun e => e.1 == 0).length + zeroSides, (enc.filter (·.2)).length, nNonfin, full⟩⟩

/-- Pack codes least significant bit first (R238). -/
def packCodes (w : Nat) : List Nat → Nat
  | [] => 0
  | k :: ks => k % 2 ^ w + 2 ^ w * packCodes w ks

/-- Take a list in chunks of `n`. -/
def chunksOf {α : Type} (n : Nat) : Nat → List α → List (List α)
  | 0, _ => []
  | fuel + 1, xs => if xs.isEmpty then [] else xs.take n :: chunksOf n fuel (xs.drop n)

/-- Words of the pool a block's side list takes. -/
def sideWords (c n : Nat) : Nat := if c = 11 then n else (n + 1) / 2

/-- Bytes of a side list, padded to its words with the pool's filling. -/
def sideBytes (c pos : Nat) (sides : List Nat) : List Byte :=
  let bs := sides.flatMap fun b => leBytes (if c = 11 then 4 else 2) b
  bs ++ (natsFrom (pos + bs.length) (4 * sideWords c sides.length - bs.length)).map Config.poolFill

/-- Convert the blocks of a row in ascending order; `used` pool words are taken so far. Result: record bytes, pool bytes, counts. -/
def zbBlocks (p : ConvParams) (T : Int) (u : Nat → Option Nat) (nb : Nat) :
    Nat → Nat → List (List FVal) → List Byte × List Byte × ConvCount
  | _, _, [] => ([], [], {})
  | i, used, xs :: rest =>
    let B := blockSize p.log2
    let roomWords := p.poolWords - used
    let room := if p.fmt = 11 then roomWords else 2 * roomWords
    let b := zbBlock p T room (fun k => u (i * B + k)) xs
    let w := sideWords p.fmt b.sides.length
    let off := if b.sides.isEmpty then 0 else (nb * recBytes p.fmt p.log2 + 4 * used - i * recBytes p.fmt p.log2) / 4
    let hdr := zbHdrWord ⟨b.exp, b.tag, b.sides.length, off⟩
    let area := packCodes (fmtBits p.fmt) (b.codes ++ List.replicate (B - b.codes.length) 0)
    let rest' := zbBlocks p T u nb (i + 1) (used + w) rest
    (leBytes 4 hdr ++ leBytes (B * fmtBits p.fmt / 8) area ++ rest'.1,
     sideBytes p.fmt (4 * used) b.sides ++ rest'.2.1, b.count.add rest'.2.2)

/-- Largest exponent constant of an MX element format (R252). -/
def mxEmax (c : Nat) : Int :=
  match c with
  | 5 => 8 | 6 => 15 | 7 => 4 | 8 => 2 | 9 => 2 | _ => 0

/-- Code of an MX element (R252): round-to-nearest-even, saturating; the Bool tells a saturation. -/
def mxEncode (c : Nat) (X : Int) (x : FVal) : Nat × Bool :=
  let s := fvNegSign x
  match fvScale (-X) x with
  | .fin _ m e =>
    if c = 10 then
      let n := rneInt m (e + 6)
      let n' := min n 127
      (wrapN 8 (if s then -(n' : Int) else n'), decide (127 < n))
    else
      let g := (gridRound (gridOf c).1 (gridQmin c) .near (dyNum m e) (dyDen e)).1
      let sat := decide (gridMax c < g)
      ((if sat then gridMax c else g) + (if s then 2 ^ (fmtBits c - 1) else 0), sat)
  | _ => (0, false)

/-- Convert one MX block (R252). -/
def mxBlock (c : Nat) (xs : List FVal) : List Byte × ConvCount :=
  let B := 32
  let nonfin := (xs.filter fun x => !fvIsFin x).length
  let mx := xs.foldl (fun m x => if fvIsFin x && magLt m x then fvAbs x else m) (.fin false 0 0)
  let put := fun (e8 : Nat) (codes : List Nat) =>
    leBytes 4 e8 ++ leBytes (B * fmtBits c / 8) (packCodes (fmtBits c) (codes ++ List.replicate (B - codes.length) 0))
  if nonfin ≠ 0 then (put 255 (xs.map fun _ => 0), ⟨xs.length, 0, 0, nonfin, false⟩)
  else if fvIsZero mx then (put 0x7F (xs.map fun _ => 0), ⟨xs.length, xs.length, 0, 0, false⟩)
  else
    let q := magQ mx
    let X := clampInt (-127) 127 (ratLog2 q.1 q.2 - mxEmax c)
    let enc := xs.map (mxEncode c X)
    (put (X + 127).toNat (enc.map (·.1)),
     ⟨xs.length, (enc.filter fun e => e.1 % 2 ^ (fmtBits c - 1) == 0 && !(c == 10 && e.1 == 128)).length,
      (enc.filter (·.2)).length, 0, false⟩)

/-- Convert one stored row to its bytes (R246 to R252): ZB with the tensor exponent `T`, or MX. -/
def convRow (p : ConvParams) (T : Int) (u : Nat → Option Nat) (xs : List FVal) : List Byte × ConvCount :=
  let B := blockSize p.log2
  let blocks := chunksOf B (xs.length + 1) xs
  if isZb p.fmt then
    let r := zbBlocks p T u blocks.length 0 0 blocks
    (r.1 ++ r.2.1 ++ (natsFrom r.2.1.length (4 * p.poolWords - r.2.1.length)).map Config.poolFill, r.2.2)
  else
    blocks.foldl (fun acc b => let r := mxBlock p.fmt b; (acc.1 ++ r.1, acc.2.add r.2)) ([], {})

/-! ### Stochastic rounding (R255) -/

def mixStep (z sh mul : Nat) : Nat := ((z ^^^ (z >>> sh)) * mul) % 2 ^ 64

def mix64 (z : Nat) : Nat :=
  let a := mixStep (z % 2 ^ 64) 30 0xBF58476D1CE4E5B9
  let b := mixStep a 27 0x94D049BB133111EB
  b ^^^ (b >>> 31)

/-- The random value of an element (R255). -/
def srValue (step tensor e stream : Nat) : Nat :=
  mix64 (mix64 (mix64 step ^^^ tensor) ^^^ (((e <<< 2) ||| stream) % 2 ^ 64)) >>> 32

/-- Round an exact value to a plain format stochastically (R256): beyond the largest finite value, to nearest even; a zero gives code 0. -/
def srRound (f : FpFmt) (u : Nat) (v : FVal) : Nat :=
  match v with
  | .fin s m e =>
    let num := dyNum m e
    let den := dyDen e
    let lo := gridRound f.mb f.qmin .down num den
    let near := (gridRound f.mb f.qmin .near num den).1
    if !lo.2 then (let c := (fpOfVal f v).bits; if fpIsZero f c then 0 else c)
    else if f.infBits ≤ lo.1 + 1 then fpSign f s (min near f.infBits)
    else
      let q := max (ratLog2 num den - f.mb) f.qmin
      let n := num * 2 ^ (-q).toNat
      let d := den * 2 ^ q.toNat
      let frac := (2 ^ 32 * (n % d)) / d
      let c := if 2 ^ 32 ≤ frac + u then lo.1 + 1 else lo.1
      if c = 0 then 0 else fpSign f s c
  | v => (fpOfVal f v).bits

end Sys2Proof.Machine
end

