-- ==== Sys2Proof/Machine/Layout.lean ====
section
/-! DEFINITION. Layout of a tensor's parameter region, state slots and working copy (R313, R369 to R371, R394, Tables 14.1 to
14.3), and the hub-private granules (R289). -/

namespace Sys2Proof.Machine

/-- P(n, w): pitch of a row of `n` elements of `w` bytes. -/
def pitchP (n w : Nat) : Nat := roundUp (n * w) 64
/-- Up(x). -/
def upB (x : Nat) : Nat := roundUp x 2048
/-- FLAGS.WIDE, CLIP_CHUNK, MASKED, SNAP and SR of Table 04.9. -/
def tSr (t : Tensor) : Bool := bit t.flags 0
def tWide (t : Tensor) : Bool := bit t.flags 1
def tClipChunk (t : Tensor) : Bool := bit t.flags 2
def tMasked (t : Tensor) : Bool := bit t.flags 3
def tSnap (t : Tensor) : Bool := bit t.flags 4
/-- NP, the pitch of a NARROW moment row (R371). -/
def narrowPitch (t : Tensor) : Nat := roundUp (140 * ceilDiv t.cols 128) 64
/-- Row-scale vector of a NARROW section, from the section's base. -/
def narrowScales (t : Tensor) : Nat := upB (t.rows * narrowPitch t)
/-- Rounded size of M1 or M2 (Table 14.2). -/
def momentLen (t : Tensor) : Nat :=
  if tWide t then upB (t.rows * pitchP t.cols 4) else narrowScales t + upB (4 * t.rows)
/-- Section offsets from a slot's base (Table 14.2). -/
def masterOff : Nat := 2048
def m1Off (t : Tensor) : Nat := masterOff + upB (t.rows * pitchP t.cols 4)
def m2Off (t : Tensor) : Nat := m1Off t + momentLen t
def statLOff (t : Tensor) : Nat := m2Off t + (if t.rule = 2 then momentLen t else 0)
def statROff (t : Tensor) : Nat := statLOff t + upB (t.rows * pitchP t.rows 4)
/-- SSLOT (R370). -/
def sslotLen (t : Tensor) : Nat :=
  if t.rule = 4 then statROff t + upB (t.cols * pitchP t.cols 4) else statLOff t
/-- FSLOT (R369) and the place of PRE_R in a factor slot. -/
def preROff (t : Tensor) : Nat := upB (t.rows * pitchP t.rows 2)
def fslotLen (t : Tensor) : Nat := preROff t + upB (t.cols * pitchP t.cols 2)
/-- Addresses of the parts of a parameter region (Table 14.1). -/
def homeSlot (t : Tensor) : Nat := t.master + 2048
def factorSlot (t : Tensor) (i : Nat) : Nat := homeSlot t + sslotLen t + i * fslotLen t
def paramLen (t : Tensor) : Nat := 2048 + sslotLen t + (if t.rule = 4 then 2 * fslotLen t else 0)
/-- Row pitch of the working copy (R394), with POOL_WORDS of the hyperparameter block. -/
def workPitch (t : Tensor) (pool : Nat) : Nat :=
  if isBlockFmt t.fmt then roundUp (rowBytes t.fmt t.log2 t.cols pool) 64 else pitchP t.cols (fmtBits t.fmt / 8)
/-- WSLOT (R313). -/
def wslotLen (t : Tensor) (pool : Nat) : Nat := upB (t.rows * workPitch t pool)
/-- NS (R394). -/
def workSlots (t : Tensor) : Nat := if tSnap t then 3 else 2
/-- Length of the hyperparameter block with its bitmap (Table 14.4). -/
def hyperLen (t : Tensor) : Nat := 128 + (if tMasked t then ceilDiv t.rows 8 else 0)

def findTensor (s : State) (id : Nat) : Option Tensor := s.step.tensors.find? fun t => t.id == id
def findPack (s : State) (id : Nat) : Option Pack := s.step.packs.find? fun p => p.id == id
def isWeight (t : Tensor) : Bool := t.kind == 0

/-- Shadow slots in use: those allocated by an undecided or unapplied step, and those copied back from (R289, R375). -/
def shadowSlots (s : State) : List (Nat × Nat) :=
  (s.step.packs.flatMap fun p => p.steps.flatMap fun st => st.updates.filterMap fun u =>
    u.shadow.bind fun a => (findTensor s u.tensor).map fun t => (a, sslotLen t)) ++
  s.step.copyBacks.filterMap fun c => (findTensor s c.tensor).map fun t => (c.shadow, sslotLen t)

/-- Hub-private extents: base and length (R289, R373). -/
def hubPrivExtents (s : State) : List (Nat × Nat) :=
  (s.step.tensors.filterMap fun t => if isWeight t then some (t.master, paramLen t) else none) ++ shadowSlots s

/-- Is the granule of the address hub-private (R289)? -/
def hubPriv (s : State) (a : Nat) : Bool :=
  (hubPrivExtents s).any fun e => decide (0 < e.2) && decide (e.1 / 2048 ≤ a / 2048) && decide (a / 2048 ≤ (e.1 + e.2 - 1) / 2048)

/-! ### Places within a stack (R304) -/

/-- Where an address of the stack region lies: stack, channel, stack ID, bank, row, pseudo-channel, and byte of its half line. -/
structure StackPlace where
  stack : Nat
  channel : Nat
  sid : Nat
  bank : Nat
  row : Nat
  pseudo : Nat
  col : Nat
deriving DecidableEq, Repr

def stackPlace (s : State) (a : Nat) : StackPlace :=
  let l := localOf s a / 2048
  { stack := stackOf s a, channel := l % 32, sid := l / 512 % 5, bank := l / 32 % 16, row := l / 2560, pseudo := a % 2048 / 1024, col := a % 1024 }

/-! ### Parity geometry (R307, R308) -/

/-- D, data granules per parity group. -/
def parD (s : State) : Nat := stacksPerHub s - 1
/-- Granules of a hub's window. -/
def granCount (s : State) : Nat := hubWindow s / 2048
/-- First granule index that no hub-private granule may reach: G × D / P (R308). -/
def privLimit (s : State) : Nat := granCount s * parD s / stacksPerHub s
/-- m(j): stack of group `j`'s parity granule within its hub (R307). -/
def parStack (s : State) (j : Nat) : Nat := stacksPerHub s - 1 - j % stacksPerHub s
/-- pidx(j) (R307). -/
def parIdx (s : State) (j : Nat) : Nat := granCount s - stacksPerHub s * (j / stacksPerHub s + 1) + parStack s j
/-- Byte of the parity granule that covers byte `a` of the stack region. -/
def parAddr (s : State) (a : Nat) : Nat :=
  let g := granuleOf s a
  g.1 * hubWindow s + parIdx s (g.2 / parD s) * 2048 + a % 2048
/-- Granules the protected range of hub `k` covers for the extents that are hub-private now (R307): an extent that passes the end of the hub's
window, which R373 does not allow, counts to that end. -/
def protNeed (s : State) (k : Nat) : Nat :=
  (hubPrivExtents s).foldl (fun m e =>
    if e.2 = 0 || e.1 / hubWindow s != k then m
    else max m (roundUp (min (granCount s) ((e.1 + e.2 - 1 - k * hubWindow s) / 2048 + 1)) (parD s))) 0
/-- Protected granules of hub `k`. -/
def protGran (s : State) (k : Nat) : Nat := smGet 0 s.mem.prot k
/-- Does the parity granule of group `j` lie outside the protected range of hub `k` (R308)? -/
def groupParOk (s : State) (k j : Nat) : Bool := decide (protGran s k ≤ parIdx s j)
/-- PAR_UNPROT of hub `k` (R308, R312): some group of the range has its parity inside it. -/
def parUnprot (s : State) (k : Nat) : Bool :=
  let n := protGran s k / parD s
  (List.range (min n (stacksPerHub s))).any fun i => !groupParOk s k (n - 1 - i)

end Sys2Proof.Machine
end

