-- ==== Sys2Proof/Machine/Mem.lean ====
section
/-! DEFINITION. The named operations over memory: stacks with parity and errors (R305 to R310), hub SRAM and near-memory scratch, the
layer caches with dead lines and in-cache reductions (R288 to R300), the L1 (R284 to R287) and scratchpads (R137).

An operation that can fail answers the FAULT_ADDR of its failure. -/

namespace Sys2Proof.Machine

/-- What a memory operation answers: the state, and the value or the FAULT_ADDR of R295, R300 or R305. -/
abbrev MRes (α : Type) := State × Except Nat α

/-- Go on with the result of a memory operation. -/
def mBind {α β : Type} (r : MRes α) (f : State → α → MRes β) : MRes β :=
  match r with
  | (s, .error e) => (s, .error e)
  | (s, .ok a) => f s a

/-- Is a part of a replay over: has the work of the parts before it and its own been redone? -/
def partOver (left : EffectCount) (p : ReplayPart) : Bool :=
  decide (left.instrs ≤ p.instrs) && decide (left.entries ≤ p.entries) && decide (left.posted.length ≤ p.posts)

/-- The configuration under which a slot's replayed work runs, where the slot replays: the one under which it first ran (R475). -/
def slotConf (s : State) (c : Nat) : Option (List (Nat × Nat)) :=
  let n := smGet {} s.tower.slots c
  if n.mode = 2 then (n.parts.find? fun p => !partOver n.suppress p).map (·.conf) else none

/-- Strict mode of a unit for a slot (R266, R475). -/
def slotStrict (s : State) (c u : Nat) : Bool :=
  match slotConf s c with
  | some w => fld (cfgGet w baseArith) u 1 == 1
  | none => cfgStrict s u

/-- A memory operation of a slot: a replay's runs under LC.DEAD_TRAP as it was (R295, R475). -/
def memAs {α : Type} (s : State) (c : Nat) (f : State → State × α) : State × α :=
  match slotConf s c with
  | some w =>
    let r := f { s with cfg := { s.cfg with active := cfgPut s.cfg.active baseLc (cfgGet w baseLc) } }
    ({ r.1 with cfg := s.cfg }, r.2)
  | none => f s

/-- Change the memory of a state. -/
def onMem (s : State) (f : MemSt → MemSt) : State := { s with mem := f s.mem }
/-- Change the counters of the memory. -/
def onMemCnt (s : State) (f : MemCnt → MemCnt) : State := { s with mem := { s.mem with cnt := f s.mem.cnt } }

/-- Cells of a run of bytes. -/
def cellsFrom : Nat → List Byte → List Host.Cell
  | _, [] => []
  | a, b :: bs => (a, b) :: cellsFrom (a + 1) bs

/-- Bytes of a table of cells that reads 0 where nothing is listed. -/
def cellBytes (m : List Host.Cell) (a len : Nat) : List Byte := (natsFrom a len).map (smGet 0 m)

/-- Write cells into a table that reads 0 where nothing is listed. -/
def putCells (m : List Host.Cell) (cs : List Host.Cell) : List Host.Cell := cs.foldl (fun m c => smSet 0 m c.1 c.2) m

/-- Bytes of a table in which some ranges are undefined. -/
def undefBytes (m : List Host.Cell) (us : List UndefRange) (a len : Nat) : List Byte :=
  if us.isEmpty then cellBytes m a len
  else (natsFrom a len).map fun x =>
    match us.find? fun u => decide (u.lo ≤ x ∧ x < u.hi) with
    | some u => Config.freeByte u.draw x
    | none => smGet 0 m x

/-- The undefined ranges that are left when `[lo, hi)` is written. -/
def carveUndef (us : List UndefRange) (lo hi : Nat) : List UndefRange :=
  us.flatMap fun u =>
    if hi ≤ lo ∨ u.hi ≤ lo ∨ hi ≤ u.lo then [u]
    else (if u.lo < lo then [{ u with hi := lo }] else []) ++ (if hi < u.hi then [{ u with lo := hi }] else [])

/-- Cells that are written leave the undefined ranges. -/
def carveCells (us : List UndefRange) (cs : List Host.Cell) : List UndefRange :=
  if us.isEmpty then [] else cs.foldl (fun us c => carveUndef us c.1 (c.1 + 1)) us

/-- Pieces of `[a, a + len)` within aligned units of `u` bytes: start and length. -/
def pieces (u a len : Nat) : List (Nat × Nat) :=
  if len = 0 then [] else
  (List.range ((a % u + len + u - 1) / u)).map fun i =>
    let lo := max a (a / u * u + i * u)
    let hi := min (a + len) (a / u * u + (i + 1) * u)
    (lo, hi - lo)

/-! ### Stacks: errors and parity -/

/-- A byte as memory holds it, errors left aside; undefined where the spec says so (R282, R330). -/
def devByte (s : State) (a : Nat) : Byte :=
  if s.mem.undefDev.isEmpty then smGet 0 s.mem.dev a
  else
    match s.mem.undefDev.find? fun u => decide (u.lo ≤ a ∧ a < u.hi) with
    | some u => Config.freeByte u.draw a
    | none => smGet 0 s.mem.dev a

/-- Is the stack lost (R310), or out of reach of who reads it (R489)? -/
def stackLost (s : State) (a : Nat) : Bool := s.mem.lost.contains (stackOf s a) || s.mem.cut.contains (stackOf s a)
/-- Can the byte be read from its own stack? -/
def stkSound (s : State) (a : Nat) : Bool := !stackLost s a && !s.mem.bad.contains (a / 64)
/-- Is the granule of the address protected by parity (R307, R308, R310)? -/
def parProt (s : State) (a : Nat) : Bool :=
  let g := granuleOf s a
  decide (g.2 < protGran s g.1) && groupParOk s g.1 (g.2 / parD s) && stkSound s (parAddr s a)
/-- Addresses of the other data granules of the group, at the same offset. -/
def parPeers (s : State) (a : Nat) : List Nat :=
  let g := granuleOf s a
  let j := g.2 / parD s
  ((natsFrom (j * parD s) (parD s)).filter (· != g.2)).map fun h => g.1 * hubWindow s + h * 2048 + a % 2048
/-- The byte at an address of the stack region: its own, or rebuilt as the XOR of the other granules of its group (R305, R310). -/
def stkByte (s : State) (a : Nat) : Option Byte :=
  if stkSound s a then some (devByte s a)
  else if parProt s a && (parPeers s a).all (stkSound s) then
    some ((parPeers s a).foldl (fun x p => x ^^^ devByte s p) (devByte s (parAddr s a)))
  else none

/-- Rebuild the granule of an address from parity and write it back (R305): its uncorrectable units that the group gives back. -/
def rebuildGranule (s : State) (a : Nat) : State :=
  let units := (natsFrom (a / 2048 * 32) 32).filter fun u =>
    s.mem.bad.contains u && (natsFrom (u * 64) 64).all fun x => (stkByte s x).isSome
  let cells := units.flatMap fun u => (natsFrom (u * 64) 64).map fun x => ((x, (stkByte s x).getD 0) : Host.Cell)
  onMem s fun m => { m with dev := putCells m.dev cells, bad := m.bad.filter fun u => !units.contains u,
                            cnt := { m.cnt with parFix := satAdd 32 m.cnt.parFix 1 } }

/-- Read bytes within one 64-byte ECC unit of the stack region (R305, R310). -/
def stkReadUnit (s : State) (a len : Nat) : MRes (List Byte) :=
  match (natsFrom a len).mapM (stkByte s) with
  | some bs => (if s.mem.bad.contains (a / 64) && !stackLost s a then rebuildGranule s a else s, .ok bs)
  | none => (onMemCnt s fun c => { c with stkUe := satAdd 32 c.stkUe 1 }, .error (0xFB00000000000000 + a))

/-- Read pieces one after another, stopping at the first failure. -/
def readPieces (rd : State → Nat → Nat → MRes (List Byte)) : List (Nat × Nat) → State → MRes (List Byte)
  | [], s => (s, .ok [])
  | p :: ps, s =>
    match rd s p.1 p.2 with
    | (s1, .error e) => (s1, .error e)
    | (s1, .ok bs) =>
      match readPieces rd ps s1 with
      | (s2, .error e) => (s2, .error e)
      | (s2, .ok r) => (s2, .ok (bs ++ r))

/-- Read the stack region directly. -/
def stkRead (s : State) (a len : Nat) : MRes (List Byte) := readPieces stkReadUnit (pieces 64 a len) s

/-- Write one byte to the stack region: the stack's own byte unless the stack is lost, and parity kept current (R309, R310). -/
def stkWriteByte (s : State) (c : Host.Cell) : State :=
  let a := c.1
  let old := (stkByte s a).getD 0
  let dev1 := if stackLost s a then s.mem.dev else smSet 0 s.mem.dev a c.2
  let pa := parAddr s a
  let dev2 := if parProt s a then smSet 0 dev1 pa (devByte s pa ^^^ old ^^^ c.2) else dev1
  onMem s fun m => { m with dev := dev2, undefDev := if m.undefDev.isEmpty then [] else carveUndef (carveUndef m.undefDev a (a + 1)) pa (if parProt s a then pa + 1 else pa) }

/-- End the errors of 64-byte units that the cells cover whole. -/
def healUnits (bad : List Nat) (cs : List Host.Cell) : List Nat :=
  bad.filter fun u => !((natsFrom (u * 64) 64).all fun a => cs.any fun c => c.1 == a)

/-- Do the cells cover the whole run of `n` bytes from `lo`? -/
def coversRun (cs : List Host.Cell) (lo n : Nat) : Bool := (natsFrom lo n).all fun a => cs.any fun c => c.1 == a

/-- Can the byte of a masked write not be written (R305, R310)? Its granule is unprotected and its stack is lost, or its 64-byte unit is
uncorrectable and the write covers it only in part. -/
def stkWriteBad (s : State) (cs : List Host.Cell) (a : Nat) : Bool :=
  if stackLost s a then (stkByte s a).isNone
  else s.mem.bad.contains (a / 64) && !coversRun cs (a / 64 * 64) 64 && !((natsFrom (a / 64 * 64) 64).all fun x => (stkByte s x).isSome)

/-- Rebuild from parity the uncorrectable units that a masked write covers only in part, before their bytes are merged (R305). -/
def stkMend (s : State) (cs : List Host.Cell) : State :=
  cs.foldl (fun s c =>
    if s.mem.bad.contains (c.1 / 64) && !stackLost s c.1 && !coversRun cs (c.1 / 64 * 64) 64 then (stkReadUnit s (c.1 / 64 * 64) 64).1
    else s) s

/-- Parity groups, by hub and number, that the cells cover whole. -/
def wholeGroups (s : State) (cs : List Host.Cell) : List (Nat × Nat) :=
  ((cs.map fun c => let g := granuleOf s c.1; (g.1, g.2 / parD s)).eraseDups).filter fun q =>
    (natsFrom (q.2 * parD s) (parD s)).all fun g => coversRun cs (q.1 * hubWindow s + g * 2048) 2048

/-- A write of a whole group computes its parity directly (R309): the parity granule is the XOR of what is written, whatever it held. -/
def directParity (cs : List Host.Cell) (s : State) : State :=
  if cs.length < parD s * 2048 then s
  else
    let new := putCells [] cs
    (wholeGroups s cs).foldl (fun s q =>
      let base := q.1 * hubWindow s + parIdx s q.2 * 2048
      let byte := fun o => (natsFrom (q.2 * parD s) (parD s)).foldl (fun x g => x ^^^ smGet 0 new (q.1 * hubWindow s + g * 2048 + o)) 0
      if protGran s q.1 ≤ q.2 * parD s || !groupParOk s q.1 q.2 || stackLost s base then s
      else
        onMem s fun m => { m with dev := putCells m.dev (cellsFrom base ((List.range 2048).map byte)),
                                  bad := m.bad.filter fun u => u / 32 != base / 2048, undefDev := carveUndef m.undefDev base (base + 2048) }) s

/-- Masked write to the stack region (R292, R309); one that meets the last case of R305 writes nothing. -/
def stkWriteCells (s : State) (cs : List Host.Cell) : MRes Unit :=
  if s.mem.bad.isEmpty && s.mem.lost.isEmpty && s.mem.cut.isEmpty then (directParity cs (cs.foldl stkWriteByte s), .ok ())
  else
    match cs.find? fun c => stkWriteBad s cs c.1 with
    | some c => (onMemCnt s fun k => { k with stkUe := satAdd 32 k.stkUe 1 }, .error (0xFB00000000000000 + c.1))
    | none => (directParity cs (onMem (cs.foldl stkWriteByte (stkMend s cs)) fun m => { m with bad := healUnits m.bad cs }), .ok ())

/-- Masked write of several 64-byte units: each is a write of its own, and one that fails leaves the others done (R292). -/
def stkWriteUnits (s : State) (cs : List Host.Cell) : State :=
  if s.mem.bad.isEmpty && s.mem.lost.isEmpty && s.mem.cut.isEmpty then cs.foldl stkWriteByte s
  else ((cs.map fun c => c.1 / 64).eraseDups).foldl (fun s u => (stkWriteCells s (cs.filter fun c => c.1 / 64 == u)).1) s

/-- XOR undefined data of the new groups into their parity too, so that a rebuild gives back what a read gives. -/
def xorUndef (lo hi : Nat) (s : State) : State :=
  (s.mem.undefDev.flatMap fun u => (natsFrom (max lo u.lo) (min hi u.hi - max lo u.lo)).map fun a => ((a, Config.freeByte u.draw a) : Host.Cell)).foldl
    (fun s c =>
      let g := granuleOf s c.1
      if groupParOk s g.1 (g.2 / parD s) then
        onMem s fun m => { m with dev := smSet 0 m.dev (parAddr s c.1) (smGet 0 m.dev (parAddr s c.1) ^^^ c.2) }
      else s) s

/-- Build parity of the groups of hub `k` from group `j0` up to group `j1` (R309); the granules of a group that is not protected (R308) stay
as they are. Parity built over an uncorrectable unit is itself uncorrectable, so that the unit stays under the last case of R305; the granules of a stack
that is lost count as zeros (DESIGN CHOICE, log entry 182). -/
def buildParity (s : State) (k j0 j1 : Nat) : State :=
  let base := k * hubWindow s
  let lo := base + j0 * parD s * 2048
  let hi := base + j1 * parD s * 2048
  let clr := s.mem.dev.filter fun c =>
    !((List.range (j1 - j0)).any fun i => groupParOk s k (j0 + i) && decide (c.1 / 2048 = (base / 2048) + parIdx s (j0 + i)))
  let data := s.mem.dev.filter fun c => decide (lo ≤ c.1) && decide (c.1 < hi)
  let mine := fun (u : Nat) => (List.range (j1 - j0)).any fun i => groupParOk s k (j0 + i) && decide (u / 32 = base / 2048 + parIdx s (j0 + i))
  let sick := (s.mem.bad.filter fun u =>
    decide (lo ≤ u * 64) && decide (u * 64 < hi) && groupParOk s k ((granuleOf s (u * 64)).2 / parD s)).map fun u => parAddr s (u * 64) / 64
  -- the parity granules are written whole, so nothing of them is undefined any more
  let und := if s.mem.undefDev.isEmpty then [] else
    ((List.range (j1 - j0)).filter fun i => groupParOk s k (j0 + i)).foldl (fun us i =>
      carveUndef us (base + parIdx s (j0 + i) * 2048) (base + parIdx s (j0 + i) * 2048 + 2048)) s.mem.undefDev
  xorUndef lo hi (onMem s fun m => { m with undefDev := und, bad := m.bad.filter (fun u => !mine u) ++ sick.eraseDups, dev := data.foldl (fun d c =>
    if groupParOk s k ((granuleOf s c.1).2 / parD s) then
      smSet 0 d (parAddr s c.1) (smGet 0 d (parAddr s c.1) ^^^ c.2) else d) clr })

/-- Bring the protected range of each hub to what is hub-private now: parity of new groups is built, freed parity granules become
ordinary memory (R307, R309). -/
def protUpdate (s : State) : State :=
  (List.range (hubCount s)).foldl (fun s k =>
    let old := protGran s k
    let new := protNeed s k
    let s1 := onMem s fun m => { m with prot := smSet 0 m.prot k new }
    if old < new then buildParity s1 k (old / parD s) (new / parD s) else s1) s

/-! ### Hub SRAM and near-memory scratch -/

/-- An uncorrectable near-memory word is met at an address (R305). -/
def nmUeAt {α : Type} (s : State) (a : Nat) : MRes α :=
  (onMemCnt s fun c => { c with nmUe := satAdd 32 c.nmUe 1 }, .error (0xFB00000000000000 + a))

/-- Read within one 32-byte code word of near memory (R282, R305). -/
def nmReadUnit (s : State) (a len : Nat) : MRes (List Byte) :=
  if s.mem.badNm.contains (a / 32) then nmUeAt s a else (s, .ok (undefBytes s.mem.dev s.mem.undefDev a len))

/-- End of the groom-reserved part of the hub SRAM that holds an address (R25, R391). -/
def reservedTop (s : State) (a : Nat) : Nat :=
  let k := (a - sramBase) / 2 ^ 32
  sramBase + k * 2 ^ 32 + cfgReserveMib s k * 2 ^ 20

/-- Read hub SRAM. What the engines hold in the groom-reserved part has no layout in the spec, so its bytes are free values, drawn anew by
every read (R25). -/
def sramRead (s : State) (a len : Nat) : MRes (List Byte) :=
  let top := reservedTop s a
  if len = 0 ∨ top ≤ a then (s, .ok (undefBytes s.mem.dev s.mem.undefDev a len))
  else ({ s with draws := s.draws + 1 },
    .ok ((natsFrom a (min len (top - a))).map (Config.freeByte s.draws) ++ undefBytes s.mem.dev s.mem.undefDev (max a top) (a + len - top)))

/-- Read near-memory scratch or hub SRAM. -/
def nmRead (s : State) (a len : Nat) : MRes (List Byte) :=
  if sramBase ≤ a then sramRead s a len else readPieces nmReadUnit (pieces 32 a len) s

/-- Write near-memory scratch or hub SRAM; a write to part of an uncorrectable near-memory word writes nothing (R305). -/
def nmWriteCells (s : State) (cs : List Host.Cell) : MRes Unit :=
  match (if s.mem.badNm.isEmpty then none
         else cs.find? fun c => s.mem.badNm.contains (c.1 / 32) && !coversRun cs (c.1 / 32 * 32) 32) with
  | some c => nmUeAt s c.1
  | none =>
    (onMem s fun m => { m with dev := putCells m.dev cs, undefDev := carveCells m.undefDev cs,
                               badNm := m.badNm.filter fun u => !coversRun cs (u * 32) 32 }, .ok ())

/-- Hub engines reach a stack whose harness modules are all down (R489). -/
def reachAll (s : State) : State := onMem s fun m => { m with cut := [] }
def reachBack (s s1 : State) : State := onMem s1 fun m => { m with cut := s.mem.cut }
/-- The hub's own access, which bypasses the layer cache (R293). -/
def hubRead (s : State) (a len : Nat) : MRes (List Byte) :=
  if a < stackEnd s then let r := stkRead (reachAll s) a len; (reachBack s r.1, r.2) else nmRead s a len
def hubWriteR (s : State) (a : Nat) (bs : List Byte) : MRes Unit :=
  if a < stackEnd s then let r := stkWriteCells (reachAll s) (cellsFrom a bs); (reachBack s r.1, r.2) else nmWriteCells s (cellsFrom a bs)
/-- The same where the hub engine has no rule for a write that fails. -/
def hubWrite (s : State) (a : Nat) (bs : List Byte) : State := (hubWriteR s a bs).1

/-! ### Layer caches (R288 to R292) -/

def layerGet (m : MemSt) (n : Nat) : LayerSt :=
  match n with | 0 => m.l0 | 1 => m.l1 | 2 => m.l2 | _ => m.l3
def layerPut (m : MemSt) (n : Nat) (l : LayerSt) : MemSt :=
  match n with
  | 0 => { m with l0 := l } | 1 => { m with l1 := l } | 2 => { m with l2 := l } | _ => { m with l3 := l }
def onLayer (s : State) (n : Nat) (f : LayerSt → LayerSt) : State := onMem s fun m => layerPut m n (f (layerGet m n))
/-- Home layer of a stack line (R34). -/
def homeOf (line : Nat) : Nat := line % 4
/-- Set of a line (R288). -/
def setOf (s : State) (line : Nat) : Nat := line / 4 % (cfgCacheMib s (homeOf line) * 32)
def findLine (s : State) (line : Nat) : Option CLine := (layerGet s.mem (homeOf line)).lines.find? fun l => l.line == line
/-- Ways a line occupies (R298). -/
def waysOf (l : CLine) : Nat := if l.tally.isSome then 4 else 1
/-- Put a line in the place of most recent use. -/
def putLine (s : State) (l : CLine) : State :=
  onLayer s (homeOf l.line) fun L => { L with lines := l :: L.lines.filter fun x => x.line != l.line }
def dropLine (s : State) (line : Nat) : State :=
  onLayer s (homeOf line) fun L => { L with lines := L.lines.filter fun x => x.line != line }
/-- Lines of the set of a line, most recently used first. -/
def setLines (s : State) (line : Nat) : List CLine :=
  (layerGet s.mem (homeOf line)).lines.filter fun l => setOf s l.line == setOf s line

def lineLast : List CLine → Option CLine
  | [] => none
  | [l] => some l
  | _ :: ls => lineLast ls

/-- The victim of R292 among the lines of a set, `keep` left alone. -/
def victimOf (ls : List CLine) (keep : Nat) : Option CLine :=
  let c := ls.filter fun l => l.tally.isNone && l.line != keep
  match lineLast (c.filter (·.dead)) with
  | some l => some l
  | none =>
    match lineLast (c.filter fun l => l.dirty == 0) with
    | some l => some l
    | none => lineLast c

/-- Dirty bytes of a line as cells of device addresses. -/
def dirtyCells (l : CLine) : List Host.Cell :=
  if l.dirty = 0 then [] else
  ((List.range 2048).filter fun i => l.dirty.testBit i).map fun i => (l.line * 2048 + i, smGet 0 l.data i)

/-! #### Where a line lies in the partition of its layer cache, and uncorrectable words there (R281, R282, R305; log entry 163) -/

/-- Ways of the set of a line that no line occupies, the lowest `n` of them. -/
def freeWays (s : State) (line n : Nat) : List Nat :=
  ((List.range 16).filter fun w => !((setLines s line).any fun l => l.ways.contains w)).take n
/-- A line just allocated: it holds nothing yet. -/
def newLine (s : State) (line : Nat) : CLine := ⟨line, 0, [], 0, false, none, freeWays s line 1⟩
/-- Near-memory word that holds byte `i` of a line's ways; nothing for a line that occupies none. -/
def lcWord (s : State) (l : CLine) (i : Nat) : Option Nat :=
  (l.ways[i / 2048]?).map fun w =>
    let n := homeOf l.line
    (nearBase + n * layerLen + cfgScratchMib s n * 2 ^ 20 + (setOf s l.line * 16 + w) * 2048 + i % 2048) / 32
/-- Is byte `i` of the line's ways in an uncorrectable word? -/
def lcBadAt (s : State) (l : CLine) (i : Nat) : Bool := match lcWord s l i with | some w => s.mem.badNm.contains w | none => false
/-- First byte of `[off, off + len)` of a line that lies in an uncorrectable word. -/
def lcBad (s : State) (l : CLine) (off len : Nat) : Option Nat :=
  if s.mem.badNm.isEmpty then none else (natsFrom off len).find? (lcBadAt s l)
/-- Words that are written whole are sound again: those of the bytes `is` of the line. -/
def lcHeal (s : State) (l : CLine) (is : List Nat) : State :=
  if s.mem.badNm.isEmpty then s
  else let ws := is.filterMap (lcWord s l); onMem s fun m => { m with badNm := m.badNm.filter fun w => !ws.contains w }
/-- The first byte of a write to `[off, off + len)` that meets an uncorrectable word: one that the write covers only in part, and of which the line
holds other bytes. -/
def lcWriteBad (s : State) (l : CLine) (off len : Nat) : Option Nat :=
  if s.mem.badNm.isEmpty then none
  else (natsFrom off len).find? fun i =>
    let w := i / 32 * 32
    lcBadAt s l i && !(decide (off ≤ w) && decide (w + 32 ≤ off + len)) && (l.valid.testBit (i / 128) || fld l.dirty w 32 != 0)

/-- Write back what is dirty and drop the line (R292). Each 64-byte unit is written on its own; one whose write-back fails under R305, and bytes in an
uncorrectable word of the cache, are counted and lost; no requester waits for them. -/
def evictLine (s : State) (l : CLine) : State :=
  let cs := dirtyCells l
  let s0 := stkWriteUnits (dropLine s l.line) (if s.mem.badNm.isEmpty then cs else cs.filter fun c => !lcBadAt s l (c.1 % 2048))
  if s.mem.badNm.isEmpty || !(cs.any fun c => lcBadAt s l (c.1 % 2048)) then s0
  else onMemCnt s0 fun c => { c with nmUe := satAdd 32 c.nmUe 1 }

/-- Free ways in the set of a line until `need` are free; false when every way left is pinned (R292). -/
def makeRoom : Nat → State → Nat → Nat → State × Bool
  | 0, s, _, _ => (s, false)
  | f + 1, s, line, need =>
    let ls := setLines s line
    if (ls.map waysOf).sum + need ≤ 16 then (s, true)
    else
      match victimOf ls line with
      | some v => makeRoom f (evictLine s v) line need
      | none => (s, false)

/-- Bit mask of `len` bytes at `off`. -/
def maskOf (off len : Nat) : Nat := (2 ^ len - 1) <<< off

/-- Fetch the sectors of `[off, off + len)` that are neither valid nor wholly dirty, dirty bytes keeping their cached values (R290). A fetch writes whole
words, so one that holds no dirty byte is sound again. -/
def fillSectors (s : State) (l : CLine) (off len : Nat) : MRes CLine :=
  ((natsFrom (off / 128) ((off + len + 127) / 128 - off / 128)).foldl (fun r i =>
    match r with
    | (s, .error e) => (s, .error e)
    | (s, .ok l) =>
      if l.valid.testBit i || fld l.dirty (128 * i) 128 == 2 ^ 128 - 1 then (s, .ok l)
      else
        match stkRead s (l.line * 2048 + 128 * i) 128 with
        | (s1, .error e) => (s1, .error e)
        | (s1, .ok bs) =>
          let cs := (cellsFrom (128 * i) bs).filter fun c => !l.dirty.testBit c.1
          (lcHeal s1 l ((natsFrom (128 * i) 128).filter fun x => fld l.dirty (x / 32 * 32) 32 == 0),
            .ok { l with valid := l.valid ||| 2 ^ i, data := putCells l.data cs })) (s, .ok l) : MRes CLine)

/-- The bytes of `[off, off + len)` of a line, fetched where they must be: an access that meets an uncorrectable word of the cache fails (R305). -/
def fetchSectors (s : State) (l : CLine) (off len : Nat) : MRes CLine :=
  match fillSectors s l off len with
  | (s1, .ok l') =>
    match lcBad s1 l' off len with
    | some i => nmUeAt s1 (l.line * 2048 + i)
    | none => (s1, .ok l')
  | r => r

/-! ### In-cache reductions (R296 to R300) -/

/-- 2^127 − 1. -/
def tallyMax : Int := 2 ^ 127 - 1
/-- An FP32 value as a multiple of 2^−80, rounded once to nearest even (R297); a value that is not finite makes the element NaN. -/
def tallyOf (b : Nat) : TAcc :=
  match fpVal f32 b with
  | .fin neg m e => let n := rneInt m (e + 80); ⟨if neg then -(n : Int) else n, false⟩
  | _ => ⟨0, true⟩
/-- Clamp an accumulator; the Bool tells a saturation. -/
def tallyClamp (i : Int) : Int × Bool :=
  if tallyMax < i then (tallyMax, true) else if i < -tallyMax then (-tallyMax, true) else (i, false)
/-- Exact sum of two accumulators, saturating (R297). -/
def tallyAdd (a b : TAcc) : TAcc × Bool :=
  let c := tallyClamp (a.acc + b.acc)
  (⟨c.1, a.nan || b.nan⟩, c.2)
/-- The FP32 value an accumulator leaves (R297). -/
def tallyOut (a : TAcc) : Nat :=
  if a.nan then 0x7FC00000 else (fpOfVal f32 (.fin (decide (a.acc < 0)) a.acc.natAbs (-80))).bits

def countSat (s : State) (b : Bool) : State :=
  if b then onMemCnt s fun c => { c with redSat := satAdd 32 c.redSat 1 } else s

/-- The accumulators of a line's own FP32 elements; elements that convert to 0 are not listed. -/
def tallyLine (s : State) (data : Nat → Byte) : State × List (Nat × TAcc) :=
  (List.range 512).foldl (fun r e =>
    let t := tallyOf (leNat ((natsFrom (4 * e) 4).map data))
    let c := tallyClamp t.acc
    (countSat r.1 c.2, smSet {} r.2 e { t with acc := c.1 })) (s, [])

/-- Merge two tables of accumulators by exact addition (R299). -/
def tallyMerge (s : State) (a b : List (Nat × TAcc)) : State × List (Nat × TAcc) :=
  b.foldl (fun r p =>
    let t := tallyAdd (smGet {} r.2 p.1) p.2
    (countSat r.1 t.2, smSet {} r.2 p.1 t.1)) (s, a)

/-- The bytes of a line that leaves tally form. -/
def tallyBytes (ts : List (Nat × TAcc)) : List Host.Cell :=
  ts.flatMap fun p => cellsFrom (4 * p.1) (leBytes 4 (tallyOut p.2))

def partialOf (s : State) (line : Nat) : Option (List (Nat × TAcc)) := smGet? (layerGet s.mem (homeOf line)).partials line
def dropPartial (s : State) (line : Nat) : State :=
  onLayer s (homeOf line) fun L => { L with partials := smDel L.partials line }

/-- May the line be allocated in its home layer cache (R282, R289)? -/
def cacheable (s : State) (line : Nat) : Bool := !(layerGet s.mem (homeOf line)).emptying && !hubPriv s (line * 2048)

/-- Store the bytes of a whole line: into the cached line, or into the stack when the line cannot be held. -/
def storeWhole (s : State) (line : Nat) (cs : List Host.Cell) : MRes Unit :=
  let full := putCells [] cs
  let s1 := dropLine s line
  let r := if cacheable s1 line then makeRoom 17 s1 line 1 else (s1, false)
  if r.2 then
    let l := { newLine r.1 line with valid := 0xFFFF, data := full, dirty := 2 ^ 2048 - 1 }
    (putLine (lcHeal r.1 l (List.range 2048)) l, .ok ())
  else stkWriteCells r.1 ((List.range 2048).map fun i => ((line * 2048 + i, smGet 0 full i) : Host.Cell))

/-- FAULT_ADDR of a dead-line reread (R295). -/
def deadAddr (line : Nat) : Nat := 0xFD00000000000000 + line * 2048

/-- The first element of a line in tally form whose accumulator lies in an uncorrectable word: 16 bytes an element over the four ways. -/
def tallyBad (s : State) (l : CLine) : Option Nat := (lcBad s l 0 8192).map (· / 16)

/-- The state of an accumulating line before an ordinary access (R298, R299): tally form ends, partials are merged. The merge of a partial reads the
line's own value: where the tag is DEAD that is a dead-line reread (R295), and `dead` tells whether it traps. -/
def settleWith (dead : Bool) (s : State) (line : Nat) : MRes Unit :=
  let cl := findLine s line
  match cl.bind (·.tally), partialOf s line with
  | none, none => (s, .ok ())
  | some ts, p =>
    match cl.bind (tallyBad s) with
    | some e => nmUeAt s (line * 2048 + 4 * e)
    | none =>
      let r := tallyMerge s ts (p.getD [])
      storeWhole (dropPartial r.1 line) line (tallyBytes r.2)
  | none, some p =>
    let l0 := cl.getD ⟨line, 0, [], 0, false, none, []⟩
    let s0 := if l0.dead then onMemCnt s fun c => { c with deadReread := satAdd 32 c.deadReread 1 } else s
    if l0.dead && dead then (s0, .error (deadAddr line))
    else
      match fetchSectors s0 l0 0 2048 with
      | (s1, .error e) => (s1, .error e)
      | (s1, .ok l) =>
        let own := tallyLine s1 (fun i => smGet 0 l.data i)
        let r := tallyMerge own.1 own.2 p
        storeWhole (dropPartial r.1 line) line (tallyBytes r.2)

/-- The same under LC.DEAD_TRAP as it stands. -/
def settleLine (s : State) (line : Nat) : MRes Unit := settleWith (cfgDeadTrap s) s line

/-- A line ready to be read, its accumulators left alone: rereads of DEAD lines dealt with (R295), held in the cache where it can be. -/
def lineReady (dead : Bool) (s1 : State) (line : Nat) : MRes (Option CLine) :=
  if !cacheable s1 line then (s1, .ok none)
  else
    match findLine s1 line with
    | some l =>
      if l.dead then
        let s2 := onMemCnt s1 fun c => { c with deadReread := satAdd 32 c.deadReread 1 }
        if dead then (s2, .error (deadAddr line))
        else
          match fetchSectors s2 { l with dead := false } 0 2048 with
          | (s3, .error e) => (s3, .error e)
          | (s3, .ok l') => (s3, .ok (some l'))
      else (s1, .ok (some l))
    | none =>
      let r := makeRoom 17 s1 line 1
      (r.1, .ok (if r.2 then some (newLine r.1 line) else none))

/-- A line ready for an ordinary access that reads it: tally form ended first (R298). -/
def lineForRead (s : State) (line : Nat) : MRes (Option CLine) :=
  match settleLine s line with
  | (s1, .error e) => (s1, .error e)
  | (s1, .ok _) => lineReady (cfgDeadTrap s) s1 line

/-- Read within one line through its home layer cache (R290, R293, R295). -/
def lineRead (s : State) (a len : Nat) : MRes (List Byte) :=
  match lineForRead s (a / 2048) with
  | (s1, .error e) => (s1, .error e)
  | (s1, .ok none) => stkRead s1 a len
  | (s1, .ok (some l)) =>
    match fetchSectors s1 l (a % 2048) len with
    | (s2, .error e) => (s2, .error e)
    | (s2, .ok l') => (putLine s2 l', .ok (cellBytes l'.data (a % 2048) len))

/-- Write within one line through its home layer cache (R291, R294). -/
def lineWrite (s : State) (a : Nat) (bs : List Byte) : MRes Unit :=
  let line := a / 2048
  match settleLine s line with
  | (s1, .error e) => (s1, .error e)
  | (s1, .ok _) =>
    let off := a % 2048
    let wr := fun (s2 : State) (l : CLine) =>
      match lcWriteBad s2 l off bs.length with
      | some i => nmUeAt s2 (line * 2048 + i)
      | none =>
        (putLine (lcHeal s2 l (natsFrom off bs.length))
          { l with data := putCells l.data (cellsFrom off bs), dirty := l.dirty ||| maskOf off bs.length, dead := false }, .ok ())
    if !cacheable s1 line then stkWriteCells s1 (cellsFrom a bs)
    else
      match findLine s1 line with
      | some l => wr s1 l
      | none =>
        let r := makeRoom 17 s1 line 1
        if r.2 then wr r.1 (newLine r.1 line) else stkWriteCells r.1 (cellsFrom a bs)

/-- Read a mapped range of device memory as any coherent agent does (R293). -/
def memRead (s : State) (a len : Nat) : MRes (List Byte) :=
  if a < stackEnd s then readPieces lineRead (pieces 2048 a len) s else nmRead s a len

/-- Write pieces through the home layer caches, stopping at the first failure. -/
def writePieces : List (Nat × Nat) → State → List Byte → MRes Unit
  | [], s, _ => (s, .ok ())
  | p :: ps, s, bs =>
    match lineWrite s p.1 (bs.take p.2) with
    | (s1, .error e) => (s1, .error e)
    | (s1, .ok _) => writePieces ps s1 (bs.drop p.2)

/-- Write a mapped range of device memory as any coherent agent does. -/
def memWrite (s : State) (a : Nat) (bs : List Byte) : MRes Unit :=
  if a < stackEnd s then writePieces (pieces 2048 a bs.length) s bs else nmWriteCells s (cellsFrom a bs)

/-- A failing write leaves memory as it was before it; the error that it met is counted (R210, R263, R305, R328). -/
def undoWrites (s s1 : State) : State :=
  { onMemCnt s fun c => { c with nmUe := s1.mem.cnt.nmUe, stkUe := s1.mem.cnt.stkUe } with draws := s1.draws }

/-- What a write to `[a, a + len)` reads: lines there end their tally form and merge their partials (R298, R299). -/
def settleRange (s : State) (a len : Nat) : MRes Unit :=
  if stackEnd s ≤ a then (s, .ok ())
  else (pieces 2048 a len).foldl (fun r p => mBind r fun s1 _ => settleLine s1 (p.1 / 2048)) (s, .ok ())

/-- Carry out writes whose failures `probe` has looked for: all of them, or none. What the probe reads stays read. -/
def allOrNone {α : Type} (probe : State → MRes Unit) (run : State → MRes α) (s : State) : MRes α :=
  mBind (probe s) fun s1 _ =>
    match run s1 with
    | (s2, .error e) => (undoWrites s1 s2, .error e)
    | r => r

/-- Bring all sectors of the lines of `[a, a + len)` into their home caches (PREFETCH, R290). -/
def memPrefetch (s : State) (a len : Nat) : MRes Unit :=
  if a < stackEnd s then
    match readPieces (fun s p _ => match lineRead s (p / 2048 * 2048) 2048 with
        | (s1, .ok _) => (s1, .ok []) | (s1, .error e) => (s1, .error e)) (pieces 2048 a len) s with
    | (s1, .ok _) => (s1, .ok ())
    | (s1, .error e) => (s1, .error e)
  else (s, .ok ())

/-- Mark a cached line DEAD: data and dirty bits are dropped with no write-back (R294). -/
def markDead (s : State) (line : Nat) : State :=
  match findLine s line with
  | some l =>
    if l.dead then s
    else onMemCnt (putLine s { l with valid := 0, data := [], dirty := 0, dead := true, tally := none })
      fun c => { c with deadDrop := satAdd 32 c.deadDrop 1 }
  | none => s

/-- LAST_USE marks of a stream: the lines of `[a, a + len)` that are read whole (R294). -/
def markLastUse (s : State) (a len : Nat) : State :=
  if a < stackEnd s then
    ((pieces 2048 a len).filter fun p => p.2 == 2048).foldl (fun s p => markDead s (p.1 / 2048)) s
  else s

/-- Write back and drop what the caches hold of a line, tally form and partials ended first (R282, R372). -/
def flushLine (s : State) (line : Nat) : State :=
  let s1 := (settleWith false s line).1
  match findLine s1 line with
  | some l =>
    match l.tally with
    | none => evictLine s1 l
    | some ts =>
      -- an accumulator lies in an uncorrectable word: the elements that can be read are rounded and written, the others are lost
      let good := ts.filter fun p => !lcBadAt s1 l (16 * p.1)
      stkWriteUnits (dropLine s1 line) (((tallyBytes good)).map fun c => (line * 2048 + c.1, c.2))
  | none => s1

/-- Lines and partials a layer holds. -/
def heldLines (s : State) (n : Nat) : List Nat :=
  (layerGet s.mem n).lines.map (·.line) ++ (layerGet s.mem n).partials.map (·.1)

/-- Write back and drop every cached line of `[lo, lo + len)` (R289, R372, R374). -/
def flushRange (s : State) (lo len : Nat) : State :=
  (List.range 4).foldl (fun s n =>
    ((heldLines s n).filter fun l => decide (lo < l * 2048 + 2048) && decide (l * 2048 < lo + len)).foldl flushLine s) s

/-- Write back and drop every line of a layer (R282). -/
def flushLayer (s : State) (n : Nat) : State := (heldLines s n).foldl flushLine s

/-- Put the line in tally form if its set can hold it (R298). -/
def enterTally (s : State) (line : Nat) : MRes Bool :=
  match findLine s line with
  | some ⟨_, _, _, _, _, some _, _⟩ => (s, .ok true)
  | _ =>
    if !cacheable s line || decide (3 ≤ ((setLines s line).filter fun l => l.tally.isSome).length) then (s, .ok false)
    else
      match lineReady (cfgDeadTrap s) s line with
      | (s1, .error e) => (s1, .error e)
      | (s1, .ok none) => (s1, .ok false)
      | (s1, .ok (some l)) =>
        match fetchSectors s1 l 0 2048 with
        | (s2, .error e) => (s2, .error e)
        | (s2, .ok l') =>
          let r := makeRoom 17 (putLine s2 l') line 3
          if r.2 then
            let t := tallyLine r.1 (fun i => smGet 0 l'.data i)
            let l2 := { l' with valid := 0, data := [], dirty := 2 ^ 2048 - 1, tally := some t.2, ways := l'.ways ++ freeWays r.1 line 3 }
            (putLine (lcHeal t.1 l2 (List.range 8192)) l2, .ok true)
          else (r.1, .ok false)

/-- Add to the accumulators of a line. -/
def addAcc (s : State) (ts : List (Nat × TAcc)) (e v : Nat) : State × List (Nat × TAcc) := tallyMerge s ts [(e, tallyOf v)]

/-- TADD of an FP32 value to the 4-byte element at an address of the stack region (R297 to R300). -/
def taddApply (s : State) (a v : Nat) : MRes Unit :=
  let line := a / 2048
  let e := a % 2048 / 4
  match enterTally s line with
  | (s1, .error x) => (s1, .error x)
  | (s1, .ok true) =>
    match findLine s1 line with
    | some l =>
      if lcBadAt s1 l (16 * e) then nmUeAt s1 a
      else
        let r := addAcc s1 (l.tally.getD []) e v
        (putLine r.1 { l with tally := some r.2 }, .ok ())
    | none => (s1, .ok ())
  | (s1, .ok false) =>
    let L := layerGet s1.mem (homeOf line)
    match smGet? L.partials line with
    | some ts =>
      let r := addAcc s1 ts e v
      (onMemCnt (onLayer r.1 (homeOf line) fun L => { L with partials := smIns L.partials line r.2 })
        fun c => { c with redFwd := satAdd 32 c.redFwd 1 }, .ok ())
    | none =>
      if 1024 ≤ L.partials.length then
        (onMemCnt s1 fun c => { c with redFull := satAdd 32 c.redFull 1 }, .error (0xFC00000000000000 + line * 2048))
      else
        let r := addAcc s1 [] e v
        (onMemCnt (onLayer r.1 (homeOf line) fun L => { L with partials := smIns L.partials line r.2 })
          fun c => { c with redFwd := satAdd 32 c.redFwd 1 }, .ok ())

/-- FMAX: replace a 4-byte element with the exact maximum of its value and a non-negative finite FP32 value (R296). -/
def fmaxApply (s : State) (a v : Nat) : MRes Unit :=
  mBind (memRead s a 4) fun s1 bs => memWrite s1 a (leBytes 4 (fpMinMax f32 false true (leNat bs) v).bits)

/-- Apply an accumulate request. -/
def accApply (s : State) (r : TaddReq) : MRes Unit :=
  memAs s r.core fun s => if r.fmax then fmaxApply s r.addr r.value else taddApply s r.addr r.value

/-- An accumulate request at a home layer cache: it waits while the layer empties (R282). -/
def memAcc (s : State) (r : TaddReq) : MRes Unit :=
  let n := homeOf (r.addr / 2048)
  if r.addr < stackEnd s ∧ (layerGet s.mem n).emptying then (onLayer s n fun L => { L with tadds := L.tadds ++ [r] }, .ok ())
  else accApply s r

def memTadd (s : State) (core a v : Nat) : MRes Unit := memAcc s ⟨a, v, false, core⟩
def memFmax (s : State) (core a v : Nat) : MRes Unit := memAcc s ⟨a, v, true, core⟩

/-- Does an accumulate request of the core's row work (`fmax` false) or conversion (true) still wait (R282)? -/
def accWaits (s : State) (core : Nat) (fmax : Bool) : Bool :=
  (List.range 4).any fun n => (layerGet s.mem n).tadds.any fun r => r.core == core && r.fmax == fmax

/-- Apply requests in their order, and list those that failed with the FAULT_ADDR of each. -/
def accRelease : List TaddReq → State → State × List (TaddReq × Nat)
  | [], s => (s, [])
  | r :: rs, s =>
    match accApply s r with
    | (s1, .error e) => let q := accRelease rs s1; (q.1, (r, e) :: q.2)
    | (s1, .ok _) => accRelease rs s1

/-- The layer cache is empty: it resumes under the new size and releases the waiting requests (R282). -/
def layerResume (s : State) (n : Nat) : State × List (TaddReq × Nat) :=
  accRelease (layerGet s.mem n).tadds (onLayer s n fun L => { L with emptying := false, tadds := [] })

/-! ### Scratchpads and the L1 -/

/-- Scratchpad bytes of a logical core (R137). -/
def spadRead (s : State) (core off len : Nat) : List Byte := undefBytes s.mem.spad s.mem.undefSpad (core * 2 ^ 20 + off) len
def spadWrite (s : State) (core off : Nat) (bs : List Byte) : State :=
  onMem s fun m => { m with spad := putCells m.spad (cellsFrom (core * 2 ^ 20 + off) bs),
                            undefSpad := carveUndef m.undefSpad (core * 2 ^ 20 + off) (core * 2 ^ 20 + off + bs.length) }
/-- The bytes of the scratchpads from `lo` to below `hi` have undefined contents from now on. -/
def undefSpadRange (s : State) (lo hi : Nat) : State :=
  let s1 := { s with draws := s.draws + 1 }
  onMem s1 fun m => { m with spad := m.spad.filter fun c => decide (c.1 < lo) || decide (hi ≤ c.1),
                             undefSpad := if lo < hi then carveUndef m.undefSpad lo hi ++ [⟨lo, hi, s.draws⟩] else m.undefSpad }
/-- The same for device addresses of near-memory scratch. -/
def undefDevRange (s : State) (lo hi : Nat) : State :=
  let s1 := { s with draws := s.draws + 1 }
  onMem s1 fun m => { m with dev := m.dev.filter fun c => decide (c.1 < lo) || decide (hi ≤ c.1),
                             undefDev := if lo < hi then carveUndef m.undefDev lo hi ++ [⟨lo, hi, s.draws⟩] else m.undefDev }

/-- Bytes of a range that parity protects: for each hub, those below the end of its protected range (R307). -/
def protBytes (s : State) (lo hi : Nat) : List Nat :=
  (List.range (hubCount s)).flatMap fun k =>
    let a := max lo (k * hubWindow s)
    natsFrom a (min hi (k * hubWindow s + protGran s k * 2048) - a)

/-- The contents of whole stack lines become undefined: what the caches hold of them goes (R330). Bytes within a protected range are replaced as a write
replaces them, so that parity stays current (R309). -/
def undefStackRange (s : State) (lo hi : Nat) : State :=
  let inside := fun (l : Nat) => decide (lo ≤ l * 2048) && decide (l * 2048 < hi)
  let s1 := (List.range 4).foldl (fun s n => onLayer s n fun L =>
    { L with lines := L.lines.filter fun l => !inside l.line, partials := L.partials.filter fun p => !inside p.1 }) s
  let s2 := (protBytes s1 lo hi).foldl (fun s a =>
    let pa := parAddr s a
    if parProt s a then
      onMem s fun m => { m with dev := smSet 0 m.dev pa (devByte s pa ^^^ devByte s a ^^^ Config.freeByte s1.draws a),
                                undefDev := carveUndef m.undefDev pa (pa + 1) }
    else s) s1
  undefDevRange s2 lo hi

/-- Set of an L1 line (R285). -/
def l1Set (scratch64k line : Nat) : Nat := line % ((768 - 64 * scratch64k) / 4)

/-- What a core's L1 holds: its lines, most recently used first, and its miss registers (R285, R286). -/
structure L1St where
  lines : List L1Line
  regs : List MissReg
deriving DecidableEq, Repr

/-- Miss registers whose fill has not completed (R286). -/
def liveRegs (s : State) (rs : List MissReg) : List MissReg := rs.filter fun r => decide (s.now < r.till)

/-- Sectors of an L1 line that are valid. -/
def l1Valid (ls : List L1Line) (line : Nat) : List (Nat × List Byte) := ((ls.find? fun l => l.line == line).getD ⟨line, []⟩).sectors

/-- Put a line in the L1 as the most recent one; the victim is the least recently used way of its set with no miss register (R285). -/
def l1Put (scratch64k : Nat) (busy : List Nat) (ls : List L1Line) (l : L1Line) : List L1Line :=
  let others := ls.filter fun x => x.line != l.line
  let same := others.filter fun x => l1Set scratch64k x.line == l1Set scratch64k l.line
  if same.length < 8 then l :: others
  else
    match ((same.reverse.find? fun x => !busy.contains x.line).orElse fun _ => same.getLast?) with
    | some v => l :: others.filter fun x => x.line != v.line
    | none => l :: others

/-- Fetch sectors of a line that the L1 lacks: each holds the bytes it has when it is filled (R285, R287). -/
def l1Fetch (scratch64k line : Nat) (busy : List Nat) : List Nat → State × List L1Line → MRes (List L1Line)
  | [], (s, ls) => (s, .ok ls)
  | i :: is, (s, ls) =>
    match memRead s (line * 512 + i * 128) 128 with
    | (s1, .error e) => (s1, .error e)
    | (s1, .ok bs) => l1Fetch scratch64k line busy is (s1, l1Put scratch64k busy ls ⟨line, smIns (l1Valid ls line) i bs⟩)

/-- The answer of an L1: the bytes, a failing read, or what the requester must wait for (R286). -/
inductive L1Ans where
  | data (bs : List Byte)
  | fault (addr : Nat)
  | wait (on : BlockOn)
deriving DecidableEq, Repr

/-- Time from a miss to its fill, in the units of the clock: the typical latency that Table 05.2 gives the source (log entry 140). -/
def fillTime (s : State) (core a : Nat) : Nat :=
  let n := if a < nearBase then homeOf (a / 2048) else (a - nearBase) / layerLen
  2 * (if sramBase ≤ a then 60 else if a < nearBase ∧ (findLine s (a / 2048)).isNone then 300 else if n = core / 512 then 10 else 15)

/-- One request to a line of the L1: bytes `[a, a + len)` within 512 (R285, R286). `engine` marks a request of an engine, whose work spans its
fills: where a thread blocks for a full waiter list or for a free register, the engine goes on when that fill, or the first of the 64, has completed
(log entry 140). -/
def l1Line (s : State) (core scratch64k : Nat) (engine : Bool) (x : L1St) (a len : Nat) : State × L1St × L1Ans :=
  let line := a / 512
  let secs := natsFrom (a % 512 / 128) ((a % 512 + len + 127) / 128 - a % 512 / 128)
  let regs := liveRegs s x.regs
  let held := regs.find? fun r => r.line == line
  let pend := (held.map (·.sectors)).getD []
  let lacking := secs.filter fun i => (smGet? (l1Valid x.lines line) i).isNone
  let busy := regs.map (·.line)
  let answer := fun (s : State) (regs : List MissReg) =>
    match l1Fetch scratch64k line busy lacking (s, x.lines) with
    | (s1, .error e) => (s1, { x with regs := regs }, L1Ans.fault e)
    | (s1, .ok ls) =>
      let l : L1Line := ⟨line, l1Valid ls line⟩
      let bs := secs.flatMap fun i => (smGet? l.sectors i).getD []
      (s1, ⟨l1Put scratch64k busy ls l, regs⟩, L1Ans.data ((bs.drop (a % 128)).take len))
  let take := fun (s : State) (regs : List MissReg) (from_ : Nat) => answer s (regs ++ [⟨line, lacking, 1, from_ + fillTime s core a⟩])
  if lacking.isEmpty && !(secs.any pend.contains) then answer s regs
  else
    match held with
    | some r =>
      if 32 ≤ r.waiters then
        (if !engine then (s, { x with regs := regs }, .wait (.fill line))
         else
          let rest := regs.filter fun q => q.line != line
          if lacking.isEmpty then answer s rest else take s rest r.till)
      else
        answer (onMemCnt s fun c => { c with l1Merge := satAdd 32 c.l1Merge 1 })
          (regs.map fun q => if q.line = line then { q with waiters := q.waiters + 1, sectors := q.sectors ++ lacking } else q)
    | none =>
      if 64 ≤ regs.length then
        let s1 := onMemCnt s fun c => { c with l1Full := satAdd 32 c.l1Full 1 }
        let first := regs.foldl (fun m r => min m r.till) ((regs.head?.map (·.till)).getD s.now)
        (if engine then take s1 (regs.filter fun r => r.till != first) first else (s1, { x with regs := regs }, .wait .missReg))
      else take s regs s.now

/-- Requests to the L1, line by line, until one cannot be served. -/
def l1Lines (core scratch64k : Nat) (engine : Bool) : List (Nat × Nat) → State × L1St → State × L1St × L1Ans
  | [], (s, x) => (s, x, .data [])
  | p :: ps, (s, x) =>
    match l1Line s core scratch64k engine x p.1 p.2 with
    | (s1, x1, .data bs) =>
      (match l1Lines core scratch64k engine ps (s1, x1) with
        | (s2, x2, .data r) => (s2, x2, .data (bs ++ r))
        | q => q)
    | q => q

/-- Read-only read of a core (R284): through the L1, or through the layer cache where there is no L1. Hub SRAM is cached nowhere in the tower
(R25, R289). -/
def l1Read (s : State) (core scratch64k : Nat) (engine : Bool) (x : L1St) (a len : Nat) : State × L1St × L1Ans :=
  if 12 ≤ scratch64k ∨ sramBase ≤ a then
    match memRead s a len with
    | (s1, .ok bs) => (s1, x, .data bs)
    | (s1, .error e) => (s1, x, .fault e)
  else l1Lines core scratch64k engine (pieces 512 a len) (s, x)

/-! ### Parameters of memory commands -/

/-- Is an 8-byte field a device address (R100)? -/
def addr48 (a : Nat) : Bool := decide (a < 2 ^ 48)
/-- Address and length of a memory command (R103). -/
def memAddrOk (a : Nat) : Bool := addr48 a && a % 4 == 0
def memLenOk (l : Nat) : Bool := l % 4 == 0 && decide (4 ≤ l ∧ l ≤ 2 ^ 28)

end Sys2Proof.Machine
end

