-- ==== Sys2Proof/Machine/Ops.lean ====
section
/-! DEFINITION. The named operations over the state: replies and events (R79 to R87), free values, control-space counters, threads and
their stops (R36, R128), effects counted for a replay (R148), and the sync objects' signals (R146). -/

namespace Sys2Proof.Machine

/-! ### Field updates -/

def onDev (s : State) (f : DevSt → DevSt) : State := { s with dev := f s.dev }
def onMp (s : State) (f : MpSt → MpSt) : State := { s with mp := f s.mp }
def onTick (s : State) (f : TickSt → TickSt) : State := { s with tick := f s.tick }
def onAcc (s : State) (f : TickAcc → TickAcc) : State := { s with tick := { s.tick with acc := f s.tick.acc } }
def onWatch (s : State) (f : WatchSt → WatchSt) : State := { s with watch := f s.watch }
def onTower (s : State) (f : TowerSt → TowerSt) : State := { s with tower := f s.tower }
def onStep (s : State) (f : StepSt → StepSt) : State := { s with step := f s.step }

/-- Draw a free value: a number the spec leaves open (log entry 3). -/
def drawFree (s : State) : State × Nat := ({ s with draws := s.draws + 1 }, Config.freeWord s.draws)

/-- Insert a number in an ascending list. -/
def insNat (n : Nat) : List Nat → List Nat
  | [] => [n]
  | x :: xs => if n < x then n :: x :: xs else if n = x then x :: xs else x :: insNat n xs

/-- Numbers in ascending order, each once. -/
def ascending (l : List Nat) : List Nat := l.foldl (fun m n => insNat n m) []

/-! ### Status codes (Table 03.14) and event types (Table 03.7) -/

def stOk : Nat := 0x0000
def stAccepted : Nat := 0x0001
def stBadCrc : Nat := 0x0101
def stBadLength : Nat := 0x0102
def stTagReserved : Nat := 0x0103
def stTagInUse : Nat := 0x0104
def stBadOpcode : Nat := 0x0105
def stBadParam : Nat := 0x0106
def stWrongVc : Nat := 0x0107
def stConfigDisagree : Nat := 0x0201
def stCsUnmapped : Nat := 0x0202
def stCommitTimeout : Nat := 0x0203
def stTickOverrun : Nat := 0x0301
def stTeamQuarantined : Nat := 0x0302
def stTaskTooLong : Nat := 0x0303
def stStackExhausted : Nat := 0x0304
def stCancelled : Nat := 0x0305
def stEpochRetired : Nat := 0x0401
def stStepSkipped : Nat := 0x0402
def stStepOrder : Nat := 0x0403
def stPackUnknown : Nat := 0x0501
def stLinkDown : Nat := 0x0502
def stPackTimeout : Nat := 0x0503
def stTempWindow : Nat := 0x0601
def stFwSignature : Nat := 0x0602
def stFwRollback : Nat := 0x0603
def stFwBinding : Nat := 0x0604
def stChunkCrc : Nat := 0x0605
def stNotReady : Nat := 0x0701
def stTopologyHold : Nat := 0x0702
def stTeamDegraded : Nat := 0x0703
def stBundleHalf : Nat := 0x0704
def stSpareSubst : Nat := 0x0705
def stSensorSuspect : Nat := 0x0706
def stAddrUnmapped : Nat := 0x0740
def stAddrProtected : Nat := 0x0741
def stNanTrap : Nat := 0x0801
def stStillAlarm : Nat := 0x0802

/-! ### Replies (R79 to R83) -/

/-- The reply header of Table 03.5. -/
def replyHdr (tag status detail tick step : Nat) : List Byte :=
  leBytes 4 tag ++ leBytes 2 status ++ leBytes 2 detail ++ leBytes 8 tick ++ leBytes 8 step

/-- Put a formed reply in its channel's queue. -/
def pushReply (s : State) (mgmt : Bool) (r : Reply) : State :=
  onMp s fun m => if mgmt then { m with mgmtQ := m.mgmtQ ++ [r] } else { m with replyQ := m.replyQ ++ [r] }

def findSlot (s : State) (sid : Nat) : Option Slot := s.mp.slots.find? fun x => x.sid == sid
def modSlot (s : State) (sid : Nat) (f : Slot → Slot) : State :=
  onMp s fun m => { m with slots := m.slots.map fun x => if x.sid = sid then f x else x }
def setWork (s : State) (sid : Nat) (w : Work) : State := modSlot s sid fun x => { x with work := w }

/-- STEP of a reply (Table 03.5). -/
def slotStep (s : State) (x : Slot) : Nat := if x.stepValid then x.step else s.tick.curStep

/-- Form ST_ACCEPTED for a slot, once (R80). -/
def ackSlot (s : State) (sid : Nat) : State :=
  match findSlot s sid with
  | some x =>
    if x.acked then s
    else pushReply (modSlot s sid fun x => { x with acked := true }) x.mgmt
      ⟨none, false, false, replyHdr x.tag stAccepted 0 s.tick.count (slotStep s x)⟩
  | none => s

/-- Form the final reply of a slot (R76, R80): the slot is freed when the reply is sent (R71). -/
def finalReply (s : State) (sid status detail : Nat) (payload : List Byte) : State :=
  match findSlot s sid with
  | some x =>
    if x.work = .done then s
    else pushReply (setWork s sid .done) x.mgmt
      ⟨some sid, false, false, replyHdr x.tag status detail s.tick.count (slotStep s x) ++ payload⟩
  | none => s

/-! ### Events (R85 to R87) -/

/-- Events in the reply queue. -/
def eventCount (s : State) : Nat := (s.mp.replyQ.filter (·.event)).length

/-- Form an event of a condition that arose in `tick` unconditionally (Table 03.5). -/
def putEventOf (s : State) (tick status detail : Nat) (body : List Byte) : State :=
  let bytes := replyHdr 0xFFFFFFFF status detail tick s.tick.curStep ++
    leBytes 4 s.mp.evtSeq ++ leBytes 2 body.length ++ leBytes 2 0 ++ body
  onMp s fun m => { m with replyQ := m.replyQ ++ [⟨none, true, false, bytes⟩], evtSeq := (m.evtSeq + 1) % 2 ^ 32 }

/-- Space has returned: report the events dropped, first of all (R86). -/
def eventSpace (s : State) : State :=
  if s.mp.dropRun ≠ 0 ∧ eventCount s < 1024 then
    onMp (putEventOf s s.tick.count stOk 0x0012 (leBytes 4 s.mp.dropRun ++ leBytes 4 s.mp.dropFirst)) fun m => { m with dropRun := 0 }
  else s

/-- Send an event of a condition that arose in `tick`; with the queue full it is dropped and counted (R86). -/
def sendEventOf (s : State) (tick status detail : Nat) (body : List Byte) : State :=
  let s := eventSpace s
  if eventCount s < 1024 then putEventOf s tick status detail body
  else onMp s fun m => { m with evtDrop := satAdd 32 m.evtDrop 1, dropRun := m.dropRun + 1,
                                dropFirst := if m.dropRun = 0 then m.evtSeq else m.dropFirst,
                                evtSeq := (m.evtSeq + 1) % 2 ^ 32 }

/-- Send an event of a condition that arises now. -/
def sendEvent (s : State) (status detail : Nat) (body : List Byte) : State := sendEventOf s s.tick.count status detail body

/-! ### Cores and threads -/

/-- Team of a logical core, and its slot. -/
def teamOf (core : Nat) : Nat := core / 8
def layerOf (core : Nat) : Nat := core / 512

def getCore (s : State) (c : Nat) : CoreSt := smGet {} s.tower.cores c
def onCore (s : State) (c : Nat) (f : CoreSt → CoreSt) : State :=
  onTower s fun t => { t with cores := smMod {} t.cores c f }
def getNode (s : State) (c : Nat) : SlotNode := smGet {} s.tower.slots c
def onNode (s : State) (c : Nat) (f : SlotNode → SlotNode) : State :=
  onTower s fun t => { t with slots := smMod {} t.slots c f }
def getTeam (s : State) (t : Nat) : TeamSt := smGet {} s.tower.teams t
def onTeam (s : State) (t : Nat) (f : TeamSt → TeamSt) : State :=
  onTower s fun w => { w with teams := smMod {} w.teams t f }
def getThread (s : State) (c t : Nat) : Option Thread := smGet? (getCore s c).threads t
def onThread (s : State) (c t : Nat) (f : Thread → Thread) : State :=
  onCore s c fun k =>
    match smGet? k.threads t with
    | some th => { k with threads := smIns k.threads t (f th) }
    | none => k

/-- Bytes of a core's scratchpad (R136). -/
def scratchLen (s : State) (c : Nat) : Nat := (getCore s c).scratch64k * 65536
/-- FAULT_ADDR of a scratchpad offset (R137, R152, R187). -/
def spadFault (off : Nat) : Nat := (0xFF00000000000000 + off) % 2 ^ 64

/-- Value of a general register; g0 reads 0 (R127). -/
def gReg (th : Thread) (r : Nat) : Nat := if r = 0 then 0 else (th.regs.toList.getD r 0).toNat
/-- Write a general register; a write to g0 has no effect (R127). -/
def gPut (th : Thread) (r v : Nat) : Thread :=
  if h : r < 32 then (if r = 0 then th else { th with regs := th.regs.set r (n64 v) h }) else th

def setReg (s : State) (c t r v : Nat) : State := onThread s c t fun th => gPut th r v

/-- A queued instruction whose unit has no room leaves the thread BLOCKED; it issues again when there is room (R130). -/
def wakeRoom (s : State) (c : Nat) (p : BlockOn → Bool) : State :=
  onCore s c fun k => { k with threads := k.threads.map fun x =>
    match x.2.st with
    | .blocked b => if p b then (x.1, { x.2 with st := .ready, since := s.now }) else x
    | _ => x }

/-- Threads of a core that wait on an object, with their targets. -/
def waitersOn (s : State) (c obj : Nat) : List (Nat × Nat) :=
  (getCore s c).threads.filterMap fun x =>
    match x.2.st with
    | .blocked (.sync o tg) => if o = obj then some (x.1, tg) else none
    | _ => none

/-- A core's watches end where none of its threads waits any more (R147). -/
def trimWatches (s : State) (c : Nat) : State :=
  ((s.tower.watches.filter fun w => w.2.contains c && (waitersOn s c w.1).isEmpty).map (·.1)).foldl
    (fun s o => onTower s fun w => { w with watches := smMod [] w.watches o fun cs => cs.erase c }) s

/-- A thread leaves the program: its context goes back, with what is pending in it (R128, R190). -/
def quitThread (s : State) (c t : Nat) : State :=
  let held := (getCore s c).ctxs.any fun x => x.owner == t
  let s1 := onCore s c fun k =>
    { k with ctxs := k.ctxs.filter fun x => x.owner != t,
             threads := match smGet? k.threads t with
               | some th => smIns k.threads t { th with st := .ended, stop := false }
               | none => k.threads }
  if held then wakeRoom s1 c (· == .room .vector) else s1

/-- The end of a thread, with the watches that no thread of its core needs any more (R147). -/
def endOf (s : State) (c t : Nat) : State := trimWatches (quitThread s c t) c

/-- Count an effect of a slot, or suppress one that the failed tick had already (R148, R474): answers whether it is applied. -/
def spendNat (s : State) (c : Nat) (get : EffectCount → Nat) (put : EffectCount → Nat → EffectCount) : State × Bool :=
  let n := getNode s c
  if get n.suppress = 0 then (onNode s c fun n => { n with eff := put n.eff (get n.eff + 1) }, true)
  else (onNode s c fun n => { n with suppress := put n.suppress (get n.suppress - 1) }, false)

/-- One FAULT event (R36, Table 03.11), unless a replay repeats it (R474). -/
def faultEvent (s : State) (c t status insn addr : Nat) : State :=
  let r := spendNat s c (·.faults) (fun e n => { e with faults := n })
  if r.2 then
    sendEvent r.1 status 0x0006 (leBytes 1 (layerOf c) ++ leBytes 1 (teamOf c % 64) ++ leBytes 1 (c % 8) ++ leBytes 1 0 ++
      leBytes 2 (t % 1024) ++ leBytes 2 0 ++ leBytes 8 insn ++ leBytes 8 addr)
  else r.1

/-- A thread stops under R36 at the instruction at its program counter: the exception entry of a core. -/
def stopThread (s : State) (c t status addr : Nat) : State :=
  match getThread s c t with
  | some th => endOf (faultEvent s c t status th.pc addr) c t
  | none => s

/-- A thread whose queued instruction failed at the head of its queue (R187, R233, R263, R328): it stops at its next issue if READY, at
once if BLOCKED. -/
def stopQueued (s : State) (c t status insn addr : Nat) : State :=
  let s1 := faultEvent s c t status insn addr
  match getThread s c t with
  | some th =>
    match th.st with
    | .ready => onThread s1 c t fun th => { th with stop := true }
    | .blocked _ => endOf s1 c t
    | _ => s1
  | none => s1

/-- Has a replay caught up with the point of the fault: are all instructions, queue entries and streams of the failed tick redone? -/
def caughtUp (left : EffectCount) : Bool := left.instrs == 0 && left.entries == 0 && left.posted.isEmpty
/-- A replay that has caught up with the point of the fault ends (R474, R475). -/
def catchUp (n : SlotNode) : SlotNode := if n.mode = 2 ∧ caughtUp n.suppress then { n with mode := 0 } else n

/-- Count a completed instruction. -/
def countInstr (s : State) (c : Nat) : State :=
  onNode s c fun n => catchUp
    (if n.suppress.instrs = 0 then { n with eff := { n.eff with instrs := n.eff.instrs + 1 } }
     else { n with suppress := { n.suppress with instrs := n.suppress.instrs - 1 } })

/-- Count an entry that has left a unit's queue. -/
def countEntry (s : State) (c : Nat) : State :=
  onNode s c fun n => catchUp
    (if n.suppress.entries = 0 then { n with eff := { n.eff with entries := n.eff.entries + 1 } }
     else { n with suppress := { n.suppress with entries := n.suppress.entries - 1 } })

/-- Set the program counter; outside the code section the fetch stops the thread, at the instruction that led there (R162). -/
def jumpTo (s : State) (c t target : Nat) : State :=
  match (getCore s c).prog with
  | some p =>
    if p.codeLo ≤ target ∧ target < p.codeHi then countInstr (onThread s c t fun th => { th with pc := target, since := s.now }) c
    else stopThread s c t stAddrUnmapped target
  | none => s

/-- Go on at the next instruction. -/
def nextPc (s : State) (c t : Nat) : State :=
  match getThread s c t with
  | some th => jumpTo s c t (th.pc + 4)
  | none => s

/-- Block a thread (R130). -/
def blockThread (s : State) (c t : Nat) (on : BlockOn) : State := onThread s c t fun th => { th with st := .blocked on }

/-- Issue an instruction from a READY thread of a slot that is served (R129, R473): a thread marked by a failed queued instruction stops
here instead (R187). Nothing happens for a thread that cannot issue. -/
def issueOn (s : State) (c t : Nat) (f : Thread → State) : State :=
  match getThread s c t with
  | some th =>
    if th.st = .ready ∧ ((getNode s c).mode = 0 ∨ (getNode s c).mode = 2) then
      (if th.stop then endOf s c t else f th)
    else s
  | none => s

/-- Read-only read of a core, for a thread or for one of its engines (R284). -/
def roRead (s : State) (c : Nat) (engine : Bool) (a len : Nat) : State × L1Ans :=
  let k := getCore s c
  let r := memAs s c fun s => l1Read s c k.scratch64k engine ⟨k.l1, k.mregs⟩ a len
  (onCore r.1 c fun k => { k with l1 := r.2.1.lines, mregs := r.2.1.regs }, r.2.2)

/-- Read and write device memory for a logical core. -/
def coreRead (s : State) (c a len : Nat) : MRes (List Byte) := memAs s c fun s => memRead s a len
def coreWrite (s : State) (c a : Nat) (bs : List Byte) : MRes Unit := memAs s c fun s => memWrite s a bs

/-- The threads of a core whose miss registers have been filled since issue again, and the registers are free (R286). -/
def fillsDone (s : State) (c : Nat) : State :=
  let k := getCore s c
  let live := liveRegs s k.mregs
  let filled := fun (b : BlockOn) => match b with
    | .fill line => !(live.any fun r => r.line == line)
    | .missReg => decide (live.length < 64)
    | _ => false
  let s1 := if live.length = k.mregs.length then s else onCore s c fun k => { k with mregs := live }
  if k.threads.any fun x => match x.2.st with | .blocked b => filled b | _ => false then wakeRoom s1 c filled else s1

/-! ### Sync objects (R142 to R148) -/

def syncCount (s : State) (obj : Nat) : Nat := smGet 0 s.tower.sync obj
/-- `(int32)(count − target) ≥ 0` (R143, R144). -/
def syncMet (count target : Nat) : Bool := decide (0 ≤ sgn 32 (count + 2 ^ 32 - target % 2 ^ 32))
/-- Logical core whose team node holds an object, and the core id of Table 05.6. -/
def objCore (obj : Nat) : Nat := obj / 32

/-- After a change, one wake for every watching core whose threads may be satisfied (R147). -/
def sendWakes (s : State) (obj : Nat) : State :=
  let cs := (smGet [] s.tower.watches obj).filter fun c =>
    (waitersOn s c obj).any (fun w => syncMet (syncCount s obj) w.2) && !s.tower.wakes.contains (c, obj)
  onTower s fun t => { t with wakes := t.wakes ++ cs.map fun c => (c, obj) }

/-- Set a count (SYNC_SET) or add to it (R146). -/
def syncPut (s : State) (obj v : Nat) : State :=
  sendWakes (onTower s fun t => { t with sync := smSet 0 t.sync obj (v % 2 ^ 32) }) obj
def syncAdd (s : State) (obj n : Nat) : State := syncPut s obj (syncCount s obj + n)

/-! ### NaN reports (R269 to R272, Table 10.4) -/

/-- The task whose program a core runs, as the MP knows it. -/
def taskBySid (s : State) (sid : Nat) : Option Task := s.tick.tasks.find? fun t => t.sid == sid

/-- A tower unit reports a NaN of a thread of the program `p` (R269), unless the replay repeats a report (R272). -/
def nanOfProg (s : State) (p : Option CoreProg) (c t unit insn : Nat) (tensor : Option Nat) (element : Nat) : State :=
  let r := spendNat s c (·.nans) (fun e n => { e with nans := n })
  if r.2 then
    let body :=
      leBytes 4 ((p.map (·.tag)).getD 0) ++ leBytes 1 unit ++ leBytes 1 ((p.map (·.phase)).getD 0) ++
      leBytes 1 (layerOf c) ++ leBytes 1 (teamOf c % 64) ++ leBytes 1 (c % 8) ++ leBytes 1 0xFF ++ leBytes 2 (t % 1024) ++
      leBytes 4 (tensor.getD 0) ++ leBytes 8 insn ++ leBytes 8 element ++ leBytes 8 ((p.map (·.step)).getD 0) ++
      leBytes 2 ((p.map (·.handle)).getD 0) ++ leBytes 2 (1 + 2 * b2n tensor.isSome) ++ leBytes 4 0
    onTower r.1 fun w => { w with nans := w.nans ++ [⟨false, c, unit, s.now, body⟩] }
  else r.1

/-- A unit reports a NaN of a running thread. -/
def nanTower (s : State) (c t unit insn : Nat) (tensor : Option Nat) (element : Nat) : State :=
  nanOfProg s (getCore s c).prog c t unit insn tensor element

/-- A queued instruction's NaN: it is the issuing task's, even when that task has ended (R272). -/
def nanEntry {α : Type} (s : State) (c : Nat) (e : QEntry α) (unit : Nat) (tensor : Option Nat) (element : Nat) : State :=
  nanOfProg s (e.task.orElse fun _ => (getCore s c).prog) c e.thr unit e.pc tensor element

/-- A hub unit reports a NaN (R269). -/
def nanHub (s : State) (hub unit tensor element step : Nat) (tag : Option Nat) : State :=
  let body :=
    leBytes 4 (tag.getD 0) ++ leBytes 1 unit ++ leBytes 1 (if unit = 5 then 4 else 5) ++
    leBytes 1 0xFF ++ leBytes 1 0xFF ++ leBytes 1 0xFF ++ leBytes 1 hub ++ leBytes 2 0xFFFF ++
    leBytes 4 tensor ++ leBytes 8 0 ++ leBytes 8 element ++ leBytes 8 step ++ leBytes 2 0xFFFF ++
    leBytes 2 (b2n tag.isSome + 2) ++ leBytes 4 0
  onTower s fun w => { w with nans := w.nans ++ [⟨true, hub, unit, s.now, body⟩] }

end Sys2Proof.Machine
end

