-- ==== Sys2Proof/Machine/Flags.lean ====
section
/-! DEFINITION. The status words of the units: MSTAT (Table 06.3), VSTAT (Table 07.4), RSTAT (Table 08.5), CSTAT (Table 09.6), and the counts
of tensor watch (R273 to R275). Sticky bits are only ever set here; counters saturate. -/

namespace Sys2Proof.Machine

/-- Add to MSTAT what a drain wrote (Table 06.3). -/
def mstatAdd (w sats : Nat) (nan inf : Bool) : Nat :=
  let low := (w % 8) ||| (b2n (decide (0 < sats)) + 2 * b2n nan + 4 * b2n inf)
  low + satAdd 32 (fld w 16 32) sats * 2 ^ 16

/-- Set VSTAT bits: OOL, NAN_OUT, INF_OUT and the IEEE flags (Table 07.4). -/
def vSetStat (x : VCtx) (ool nan inf : Bool) (flags : Nat) : VCtx :=
  { x with vstat := x.vstat ||| (b2n ool + 2 * b2n nan + 4 * b2n inf + flags * 256) }

/-- Add to a RSTAT word. -/
def rstatAdd (w : Nat) (nan inf empty spill : Bool) (nEmpty nNan : Nat) : Nat :=
  ((w % 16) ||| (b2n nan + 2 * b2n inf + 4 * b2n empty + 8 * b2n spill)) +
    satAdd 32 (fld w 16 32) nEmpty * 2 ^ 16 + satAdd 16 (fld w 48 16) nNan * 2 ^ 48
def rstatOn (s : State) (c : Nat) (nan inf empty spill : Bool) (nEmpty nNan : Nat) : State :=
  onCore s c fun k => { k with stat := { k.stat with rstat := rstatAdd k.stat.rstat nan inf empty spill nEmpty nNan } }

/-- Add to a CSTAT word (Table 09.6). -/
def cstatAdd (w sats : Nat) (nanIn amaxLow poolFull : Bool) : Nat :=
  ((w % 16) ||| (b2n (decide (0 < sats)) + 2 * b2n nanIn + 4 * b2n amaxLow + 8 * b2n poolFull)) +
    satAdd 32 (fld w 16 32) sats * 2 ^ 16

/-- Count a conversion in the entry of its tensor, source and step; counts of a step that is not open, and counts that find no entry, are lost
(R273, R275). -/
def watchAdd (s : State) (tensor source step elements zeros sats nonfinite : Nat) : State :=
  let drop := fun (s : State) => onWatch s fun w => { w with entryDrop := satAdd 32 w.entryDrop 1 }
  let same := fun (e : WatchEntry) => e.tensor == tensor && e.source == source && e.step == step
  if !(s.watch.open_.any fun o => o.step == step) then drop s
  else if s.watch.entries.any same then
    let add := fun (e : WatchEntry) =>
      if same e then { e with elements := e.elements + elements, zeros := e.zeros + zeros, sats := e.sats + sats,
                              nonfinite := e.nonfinite + nonfinite } else e
    onWatch s fun w => { w with entries := w.entries.map add }
  else if 16384 ≤ s.watch.entries.length then drop s
  else onWatch s fun w => { w with entries := w.entries ++ [⟨tensor, source, step, elements, zeros, sats, nonfinite⟩] }

/-- Are counts of a tensor, source and step taken, not lost (R275)? -/
def watchTakes (s : State) (tensor source step : Nat) : Bool :=
  (s.watch.open_.any fun o => o.step == step) &&
  ((s.watch.entries.any fun e => e.tensor == tensor && e.source == source && e.step == step) || decide (s.watch.entries.length < 16384))

/-- Take back counts that a slot delivered in the tick that is replayed (R264); an entry that held nothing else goes. -/
def watchUndo (s : State) (p : WatchPart) : State :=
  let back := fun (e : WatchEntry) =>
    if e.tensor = p.tensor ∧ e.source = 0 ∧ e.step = p.step then
      { e with elements := e.elements - p.elements, zeros := e.zeros - p.zeros, sats := e.sats - p.sats, nonfinite := e.nonfinite - p.nonfin }
    else e
  onWatch s fun w => { w with entries := (w.entries.map back).filter fun e => e.elements != 0 }

end Sys2Proof.Machine
end

