-- ==== Sys2Proof/Machine/Operands.lean ====
section
/-! DEFINITION. Operand forms of the scalar instructions (Table 05.13): issue with the check of reserved fields (R159), sources,
destinations, and the address of a load or store (R161). -/

namespace Sys2Proof.Machine

/-- The outcome of an instruction whose state is known: no instruction stops the block. -/
abbrev Out := Host.Outcome State Fault Refusal

/-- Issue an instruction whose reserved fields hold `resv`: any value but 0 is an invalid encoding, which stops the thread with
ST_ADDR_UNMAPPED and FAULT_ADDR 0 (R159). -/
def issueRaw (c t resv : Nat) (s : State) (k : Thread → State) : Out :=
  .next (issueOn s c t fun th => if resv = 0 then k th else stopThread s c t stAddrUnmapped 0)

/-- Write a result and go on at the next instruction. -/
def putNext (s : State) (c t d v : Nat) : State := nextPc (setReg s c t d v) c t

/-- Layout R with three register fields: gD ← f gD gA gB. -/
def issueR (r : RArgs) (s : State) (f : Nat → Nat → Nat → Nat) : Out :=
  let c := r.core.toNat
  let t := r.thr.toNat
  issueRaw c t r.rsv.toNat s fun th =>
    putNext s c t r.d.toNat (f (gReg th r.d.toNat) (gReg th r.a.toNat) (gReg th r.b.toNat))

/-- Layout I: gD ← f gA imm. -/
def issueI (r : IArgs) (resv : Nat) (s : State) (f : Thread → Nat → Nat → Nat) : Out :=
  let c := r.core.toNat
  let t := r.thr.toNat
  issueRaw c t resv s fun th => putNext s c t r.d.toNat (f th (gReg th r.a.toNat) r.imm.toNat)

/-- IMM16 sign-extended to 64 bits. -/
def sext16 (imm : Nat) : Nat := wrapN 64 (sgn 16 imm)
/-- Modulo 2^64 (R160). -/
def m64 (n : Nat) : Nat := n % 2 ^ 64
/-- gA + sext(OFF11), the address of LD and ST (R161). -/
def ldstAddr (th : Thread) (r : MemArgs) : Nat := wrapN 64 ((gReg th r.a.toNat : Int) + sgn 11 r.off.toNat)
/-- Bytes that a WIDTH moves (R161). -/
def widthBytes (w : Nat) : Nat := 2 ^ (w % 4)

/-- Which range check of a device access fails first: unmapped (R36, R37), or for a write protected (R25, R134). -/
def devAccessFault (s : State) (write : Bool) (a len : Nat) : Option (Nat × Nat) :=
  match unmappedAt s a len with
  | some x => some (stAddrUnmapped, x)
  | none =>
    if write then (protectedAt s a len).map fun x => (stAddrProtected, x) else none

end Sys2Proof.Machine
end

