-- ==== Sys2Proof/Machine/Sync.lean ====
section
/-! DEFINITION. Sync instructions and their network events (R142 to R148, Table 05.7). -/

namespace Sys2Proof.Machine

/-- SIGNAL: the message leaves for the node that holds the object, unless a replay repeats it (R144, R148). The thread does not
block. D is reserved and n = 0 is invalid. -/
def execSignal (r : IArgs) (s : State) : Out :=
  let c := r.core.toNat
  let t := r.thr.toNat
  issueRaw c t (r.d.toNat + (if r.imm.toNat = 0 then 1 else 0)) s fun th =>
    let q := spendNat s c (fun e => smGet 0 e.signals t) (fun e n => { e with signals := smSet 0 e.signals t n })
    let s1 := if q.2 then
        onTower q.1 fun w => { w with signals := w.signals ++ [⟨c, gReg th r.a.toNat % 2 ^ 16, r.imm.toNat⟩] }
      else q.1
    nextPc s1 c t

/-- Register a watch of a core on an object (R147). -/
def addWatch (s : State) (c obj : Nat) : State :=
  onTower s fun w => { w with watches := smMod [] w.watches obj fun cs => if cs.contains c then cs else cs ++ [c] }

/-- The waiting threads of a slot that comes back watch their objects again; an object that satisfies one of them already sends its wake (R147). -/
def rewatch (s : State) (c : Nat) : State :=
  ((getCore s c).threads.filterMap fun x => match x.2.st with | .blocked (.sync o _) => some o | _ => none).foldl
    (fun s o => sendWakes (addWatch s c o) o) s

/-- WAIT: goes on at once when the count satisfies the target, else the thread is BLOCKED and its core watches the object. -/
def execWait (r : RArgs) (s : State) : Out :=
  let c := r.core.toNat
  let t := r.thr.toNat
  issueRaw c t (r.rsv.toNat + r.d.toNat) s fun th =>
    let obj := gReg th r.a.toNat % 2 ^ 16
    let target := gReg th r.b.toNat % 2 ^ 32
    if syncMet (syncCount s obj) target then nextPc s c t
    else addWatch (blockThread s c t (.sync obj target)) c obj

/-- The first message from a team node to the node of an object (R140): messages from one sender to one receiver arrive in the order sent. -/
def firstSignal (s : State) (src obj : Nat) : Option SignalMsg :=
  s.tower.signals.find? fun m => teamOf m.src == teamOf src && teamOf (objCore m.obj) == teamOf (objCore obj)

/-- The messages on their way from a core's team node to the node of an object arrive there, in their order (R140). -/
def arriveSignals (s : State) (c obj : Nat) : State :=
  (s.tower.signals.filter fun m => teamOf m.src == teamOf c && teamOf (objCore m.obj) == teamOf (objCore obj)).foldl
    (fun s m => syncAdd (onTower s fun w => { w with signals := w.signals.erase m }) m.obj m.n) s

/-- SREAD: its request reaches the object's node after the SIGNALs that its team node has sent there before (R140, R144). -/
def execSread (r : RArgs) (s : State) : Out :=
  let c := r.core.toNat
  let t := r.thr.toNat
  issueRaw c t (r.rsv.toNat + r.b.toNat) s fun th =>
    let obj := gReg th r.a.toNat % 2 ^ 16
    let s1 := arriveSignals s c obj
    putNext s1 c t r.d.toNat (syncCount s1 obj)

/-- A change that a completion of a core brings (R155): it is applied at the object's node, after the SIGNALs that its team node has sent there
before (R140, R146). -/
def signalAfter (s : State) (c obj n : Nat) : State :=
  if (firstSignal s c obj).isNone then syncAdd s obj n else onTower s fun w => { w with signals := w.signals ++ [⟨c, obj, n⟩] }

/-- A message of a source reaches the node that holds its object and is applied (R146), once no earlier one of its sender is on its way there. -/
def execSyncSignalApply (src : Nat) (obj : W16) (s : State) : Out :=
  match firstSignal s src obj.toNat with
  | some m =>
    if m.src = src ∧ m.obj = obj.toNat then
      .next (syncAdd (onTower s fun w => { w with signals := w.signals.erase m }) m.obj m.n)
    else .next s
  | none => .next s

/-- Continue a thread that waited: READY at the next instruction. -/
def resumeNext (s : State) (c t : Nat) : State := nextPc (onThread s c t fun th => { th with st := .ready }) c t

/-- The first wake on its way from the node of an object to a core's team node (R140). -/
def firstWake (s : State) (c obj : Nat) : Option (Nat × Nat) :=
  s.tower.wakes.find? fun w => teamOf w.1 == teamOf c && teamOf (objCore w.2) == teamOf (objCore obj)

/-- Do the threads and streams of a slot make progress (R473): is it served by a core? -/
def slotServed (s : State) (c : Nat) : Bool := (getNode s c).mode == 0 || (getNode s c).mode == 2
/-- May the units of a slot work: it is served, and its team is not paced, which skips every cycle until the boundary (R57; log entry 179)? -/
def unitServed (s : State) (c : Nat) : Bool := slotServed s c && !s.tick.pacedTeams.contains (teamOf c)

/-- A wake reaches a core, once no earlier one of its sender is on its way there (R140): each of its waiting threads compares the count, and the watch
ends with the last waiter (R147). The threads of a slot that no core serves make no progress, and its wake waits (R473). -/
def execWake (core : BitVec 11) (obj : W16) (s : State) : Out :=
  let c := core.toNat
  let o := obj.toNat
  if firstWake s c o = some (c, o) ∧ slotServed s c = true then
    let s1 := onTower s fun w => { w with wakes := w.wakes.erase (c, o) }
    let s2 := ((waitersOn s1 c o).filter fun w => syncMet (syncCount s1 o) w.2).foldl (fun s w => resumeNext s c w.1) s1
    .next (if (waitersOn s2 c o).isEmpty then
      onTower s2 fun w => { w with watches := smMod [] w.watches o fun cs => cs.erase c } else s2)
  else .next s

end Sys2Proof.Machine
end

