-- ==== Sys2Proof/Machine/Stream.lean ====
section
/-! DEFINITION. Stream slots: the descriptor and its checks, SSTART and SWAIT, and what a stream moves (R150 to R156). -/

namespace Sys2Proof.Machine

/-- Read a descriptor (Table 05.10). -/
def readDesc (bs : List Byte) : StreamDesc :=
  { src := getLe bs 0 8, dst := getLe bs 8 8, rowBytes := getLe bs 16 4, rows := getLe bs 20 4,
    srcStride := sgn 64 (getLe bs 24 8), dstStride := sgn 64 (getLe bs 32 8), kind := getB bs 40, depth := getB bs 41,
    syncId := getLe bs 42 2, signalN := getLe bs 44 2, flags := getB bs 46 }

/-- First byte of row `r` of a side of a stream. -/
def rowAt (base : Nat) (stride : Int) (r : Nat) : Int := (base : Int) + r * stride

/-- Does a scratchpad side lie within the scratchpad (R152)? The rows' extremes are the first and the last. -/
def spadSideOk (base : Nat) (stride : Int) (rows rowBytes len : Nat) : Bool :=
  let a := rowAt base stride 0
  let b := rowAt base stride (rows - 1)
  decide (0 ≤ min a b) && decide (max a b + rowBytes ≤ len)

/-- Validity of a descriptor (R152): ranges, reserved bits, size, scratchpad ranges; unused fields are not checked. -/
def descOk (d : StreamDesc) (tail : List Byte) (spadLen : Nat) : Bool :=
  decide (d.rowBytes % 64 = 0) && decide (64 ≤ d.rowBytes) && decide (d.rowBytes ≤ 2 ^ 24) &&
  decide (1 ≤ d.rows) && decide (d.rows ≤ 2 ^ 24) && decide (d.srcStride % 64 = 0) &&
  (d.kind == 2 || (decide (d.dstStride % 64 = 0) && decide (d.dstStride ≠ 0))) &&
  decide (d.kind ≤ 3) && decide (d.depth ≤ 32) && (!bit d.flags 0 || decide (1 ≤ d.signalN)) &&
  decide (d.flags < 4) && allZero tail && decide (d.rowBytes * d.rows ≤ 2 ^ 28) &&
  (d.kind != 0 || spadSideOk d.dst d.dstStride d.rows d.rowBytes spadLen) &&
  (d.kind != 1 || spadSideOk d.src d.srcStride d.rows d.rowBytes spadLen)

def getStream (s : State) (id : Nat) : StreamSlot := smGet {} s.tower.streams id
def onStream (s : State) (id : Nat) (f : StreamSlot → StreamSlot) : State :=
  onTower s fun w => { w with streams := smMod {} w.streams id f }

/-- SSTART: starts the stream of the descriptor at scratchpad offset gA (R151, R152). -/
def execSstart (r : IArgs) (s : State) : Out :=
  let c := r.core.toNat
  let t := r.thr.toNat
  let idx := fld r.imm.toNat 0 3
  issueRaw c t (r.d.toNat + fld r.imm.toNat 3 13) s fun th =>
    let id := c * 8 + idx
    let off := gReg th r.a.toNat
    if (getStream s id).run.isSome then blockThread s c t (.room (.stream idx))
    else
      let bs := spadRead s c off 64
      let d := readDesc bs
      if decide (off + 64 ≤ scratchLen s c) && descOk d (bs.drop 47) (scratchLen s c) then
        let sid := ((getCore s c).prog.map (·.taskSid)).getD 0
        let s1 := onStream s id fun x => { x with run := some (.move d), last := some (.move d), forced := none, taskSid := sid }
        let s2 := onNode s1 c fun n => { n with eff := { n.eff with started := n.eff.started ++ [idx] } }
        nextPc s2 c t
      else stopThread s c t stAddrUnmapped (spadFault off)

/-- SWAIT: BLOCKED until the stream of the slot has posted (R130, R151). -/
def execSwait (r : IArgs) (s : State) : Out :=
  let c := r.core.toNat
  let t := r.thr.toNat
  let idx := fld r.imm.toNat 0 3
  issueRaw c t (r.d.toNat + r.a.toNat + fld r.imm.toNat 3 13) s fun _ =>
    if (getStream s (c * 8 + idx)).run.isSome then blockThread s c t (.stream idx) else nextPc s c t

/-! ### What a stream moves (R153, R154) -/

/-- The 64-byte units of a stream in order: source and destination. Table 05.10 asks for no alignment of SRC and DST, and R154 speaks of aligned units:
units are counted from the row's first byte, wherever it lies (DESIGN CHOICE, log entry 174). -/
def streamUnits (d : StreamDesc) : List (Int × Int) :=
  (List.range d.rows).flatMap fun r => (List.range (d.rowBytes / 64)).map fun (i : Nat) =>
    (rowAt d.src d.srcStride r + 64 * (i : Int), rowAt d.dst d.dstStride r + 64 * (i : Int))

/-- Why a stream stops at a device unit: unmapped, or protected for a write. -/
def unitFault (s : State) (write : Bool) (a : Int) : Option Nat :=
  if a < 0 then some stAddrUnmapped else (devAccessFault s write a.toNat 64).map (·.1)

/-- Why a stream stops at a unit. -/
def streamUnitFault (s : State) (d : StreamDesc) (u : Int × Int) : Option Nat :=
  let rd := if d.kind = 1 then none else unitFault s false u.1
  match rd with
  | some x => some x
  | none => if d.kind = 1 ∨ d.kind = 3 then unitFault s true u.2 else none

/-- Bytes of the source's lines that a stream has read, and of which it has not yet read the whole line: line and mask. -/
abbrev Cover := List (Nat × Nat)

/-- A 64-byte unit has been read: the table after it, and the lines that it completes (R294). -/
def coverUnit (cv : Cover) (a : Nat) : Cover × List Nat :=
  (pieces 2048 a 64).foldl (fun r q =>
    let l := q.1 / 2048
    let m := smGet 0 r.1 l ||| maskOf (q.1 % 2048) q.2
    if m = 2 ^ 2048 - 1 then (smDel r.1 l, r.2 ++ [l]) else (smIns r.1 l m, r.2)) (cv, [])

/-- Move one unit; the lines `ls`, whose last bytes its read gives, are marked dead when the read completes (R294). -/
def moveUnit (s : State) (c : Nat) (d : StreamDesc) (ls : List Nat) (u : Int × Int) : MRes Unit :=
  let a := u.1.toNat
  let b := u.2.toNat
  match d.kind with
  | 0 => match coreRead s c a 64 with
    | (s1, .ok bs) => (spadWrite (ls.foldl markDead s1) c b bs, .ok ())
    | (s1, .error e) => (s1, .error e)
  | 1 => coreWrite s c b (spadRead s c a 64)
  | 2 => match (memAs s c fun s => memPrefetch s a 64 : MRes Unit) with
    | (s1, .ok _) => (ls.foldl markDead s1, .ok ())
    | (s1, .error e) => (s1, .error e)
  | _ => match coreRead s c a 64 with
    | (s1, .ok bs) => coreWrite (ls.foldl markDead s1) c b bs
    | (s1, .error e) => (s1, .error e)

/-- Move units in order until one cannot be read or written: the state, how many were moved, and whether all were. A LAST_USE stream marks each line it
has read whole at once. -/
def moveUnits (c : Nat) (d : StreamDesc) : List (Int × Int) → Nat → Cover → State → State × Nat × Bool
  | [], n, _, s => (s, n, true)
  | u :: us, n, cv, s =>
    let q := if bit d.flags 1 && d.kind != 1 then coverUnit cv u.1.toNat else (cv, [])
    match moveUnit s c d q.2 u with
    | (s1, .ok _) => moveUnits c d us (n + 1) q.1 s1
    | (s1, .error _) => (s1, n, false)

/-- What a stream has done when it posts: its memory effects and its status. A stream that stops early has moved a prefix of free
length (R154, log entry 7). -/
def streamRun (s : State) (c : Nat) (d : StreamDesc) (forced : Option Nat) : State × Nat :=
  let us := streamUnits d
  let stopAt := us.findIdx? fun u => (streamUnitFault s d u).isSome
  let lim := stopAt.getD us.length
  let tryAll := moveUnits c d (us.take lim) 0 [] s
  let free := Config.streamPrefix s.draws
  let drawn := { s with draws := s.draws + 1 }
  let upTo := fun (n : Nat) => (moveUnits c d (us.take n) 0 [] drawn).1
  match forced with
  | some st => (upTo (free % (tryAll.2.1 + 1)), st)
  | none =>
    if !tryAll.2.2 then
      -- a unit that cannot be read stops the stream as an unmapped one does; its read happened
      let s1 := upTo (free % (tryAll.2.1 + 1))
      let s2 := match us[tryAll.2.1]? with
        | some u => (moveUnit s1 c d [] u).1
        | none => s1
      (s2, stAddrUnmapped)
    else
      match stopAt.bind fun i => us[i]? with
      | some u => (upTo (free % (lim + 1)), (streamUnitFault s d u).getD stAddrUnmapped)
      | none => (tryAll.1, stOk)

/-- Table 05.11. -/
def completionWord (seq status : Nat) : Nat := seq % 2 ^ 32 + status * 2 ^ 32

/-- Post a completion (R155, R156): the word, SWAIT, the signal, the STREAM_WAIT commands. One that the failed tick had posted is not posted again. An
NWRITE in flight that its replayed instruction has not taken over yet posts as in the failed tick, and the instruction is one of those that had posted
(R415). -/
def streamPost (s : State) (id status : Nat) (signal : Option (Nat × Nat)) : State :=
  let c := id / 8
  let idx := id % 8
  let x := getStream s id
  let again := (getNode s c).suppress.posted.contains idx && !x.adopt
  let s1 := if again then
      onNode (onStream s id fun x => { x with run := none, forced := none }) c fun n =>
        catchUp { n with suppress := { n.suppress with posted := n.suppress.posted.erase idx } }
    else
      onNode (onStream s id fun x => { x with run := none, forced := none, adopt := false, seq := (x.seq + 1) % 2 ^ 32,
                                              word := completionWord (x.seq + 1) status }) c fun n =>
        { n with eff := { n.eff with posted := n.eff.posted ++ [idx] },
                 suppress := { n.suppress with posted := n.suppress.posted ++ if x.adopt then [idx] else [] } }
  let s2 := ((getCore s1 c).threads.filter fun th => th.2.st == .blocked (.stream idx)).foldl
    (fun s th => resumeNext s c th.1) s1
  let s3 := wakeRoom s2 c (· == .room (.stream idx))
  if again then s3
  else
    let s4 := match signal with | some (o, n) => signalAfter s3 c o n | none => s3
    ((s4.mp.slots.filter fun m => m.work == .streamWait id).foldl (fun s m =>
      finalReply s m.sid stOk 0 (leBytes 8 (completionWord (x.seq + 1) status))) s4)

/-- The stream of a slot completes. One of a slot that no core serves, or whose team is paced, makes no progress (R473, R57), but a status forced on it is
posted (R154, R480).
All its bytes are read and written now, whatever else has touched them since SSTART (DESIGN CHOICE, log entry 182). -/
def streamComplete (s : State) (id : Nat) : State :=
  match (getStream s id).run with
  | some (.move d) =>
    if !unitServed s (id / 8) && (getStream s id).forced.isNone then s else
    let r := streamRun s (id / 8) d (getStream s id).forced
    streamPost r.1 id r.2 (if bit d.flags 0 then some (d.syncId, d.signalN) else none)
  | _ => s

end Sys2Proof.Machine
end

