-- ==== Sys2Proof/Machine/Units.lean ====
section
/-! DEFINITION. What the queued units of a core share: who is served, room and fences, ranges and their checks, and reads and writes of an
operand in the scratchpad, in device memory or through the L1 (R130, R187, R208, R233, R263, R328). -/

namespace Sys2Proof.Machine

/-- Does the slot share a core with another one of its degraded team (R139)? -/
def slotShares (s : State) (c : Nat) : Bool :=
  match (smGet {} s.rel.teams (teamOf c)).shared with
  | some (a, b) => c % 8 == a || c % 8 == b
  | none => false

/-- Entries of a core's queue of 16 that a slot has (R166 and its likes); of contexts, the four of R191. What a slot holds beyond its share when its core
becomes shared it keeps, and only new claims are held back (DESIGN CHOICE, log entry 182). -/
def queueRoom (s : State) (c full : Nat) : Nat := if slotShares s c then full / 2 else full

/-- Issue an instruction that enters a queue: BLOCKED when it has no room (R130). -/
def issueQueue (c t : Nat) (s : State) (u : UnitId) (used full : Nat) (put : State → State) : State :=
  if queueRoom s c full ≤ used then blockThread s c t (.room u) else nextPc (put s) c t

/-- An instruction has left a unit's queue: threads that waited for room issue again, and fences of threads with nothing left in the queue
end (R130). `left` tells whether a thread still has instructions in the unit. -/
def unitAdvance (s : State) (c : Nat) (u : UnitId) (left : Nat → Bool) : State :=
  let s1 := wakeRoom (countEntry s c) c (· == .room u)
  (((getCore s1 c).threads.filter fun th => th.2.st == .blocked (.fence u) && !left th.1)).foldl
    (fun s th => resumeNext s c th.1) s1

/-- A fence: on at once with nothing outstanding, else BLOCKED. -/
def issueFence (c t : Nat) (s : State) (u : UnitId) (left : Bool) : State :=
  if left then blockThread s c t (.fence u) else nextPc s c t

/-! ### Ranges -/

/-- A range of bytes of an operand: in device memory or in the scratchpad. -/
structure URange where
  dev : Bool
  addr : Nat
  len : Nat
deriving DecidableEq, Repr

/-- First fault of device ranges, in their order (DESIGN CHOICE where several fail, log entry 182): status and address (R36, R37, R25). -/
def rangesFault (s : State) (write : Bool) : List URange → Option (Nat × Nat)
  | [] => none
  | r :: rs =>
    match (if r.dev then devAccessFault s write r.addr r.len else none) with
    | some f => some f
    | none => rangesFault s write rs

/-- Do the scratchpad ranges lie within the scratchpad? -/
def rangesSpadOk (s : State) (c : Nat) (rs : List URange) : Bool :=
  rs.all fun r => r.dev || decide (r.addr + r.len ≤ scratchLen s c)

/-- Read a range for an engine of a core: scratchpad, device memory, or read-only through the L1, whose fills the engine's own time spans. -/
def unitRead (s : State) (c : Nat) (r : URange) (ro : Bool) : MRes (List Byte) :=
  if !r.dev then (s, .ok (spadRead s c r.addr r.len))
  else if ro then
    match roRead s c true r.addr r.len with
    | (s1, .data bs) => (s1, .ok bs)
    | (s1, .fault e) => (s1, .error e)
    | (s1, .wait _) => (s1, .ok [])
  else coreRead s c r.addr r.len

/-- Write a range for a core. -/
def unitWrite (s : State) (c : Nat) (r : URange) (bs : List Byte) : MRes Unit :=
  if r.dev then coreWrite s c r.addr bs else (spadWrite s c r.addr bs, .ok ())

/-- Read ranges in order. -/
def unitReads (c : Nat) (ro : Bool) : List URange → State → MRes (List (List Byte))
  | [], s => (s, .ok [])
  | r :: rs, s =>
    match unitRead s c r ro with
    | (s1, .error e) => (s1, .error e)
    | (s1, .ok bs) =>
      match unitReads c ro rs s1 with
      | (s2, .error e) => (s2, .error e)
      | (s2, .ok bss) => (s2, .ok (bs :: bss))

/-- Write ranges in order: where they overlap, the last one's bytes stand (DESIGN CHOICE, log entry 182). -/
def unitWritesFrom (c : Nat) : List (URange × List Byte) → State → MRes Unit
  | [], s => (s, .ok ())
  | w :: ws, s =>
    match unitWrite s c w.1 w.2 with
    | (s1, .error e) => (s1, .error e)
    | (s1, .ok _) => unitWritesFrom c ws s1

/-- Can a range be written? What the write reads stays read, and nothing is written. -/
def unitProbe (c : Nat) (r : URange) (s : State) : MRes Unit :=
  mBind (if r.dev then memAs s c fun s => settleRange s r.addr r.len else (s, .ok ()) : MRes Unit) fun s1 _ =>
    match unitWrite s1 c r (zeroBytes r.len) with
    | (s2, .error e) => (undoWrites s1 s2, .error e)
    | (_, .ok _) => (s1, .ok ())

/-- The same for ranges in order. -/
def unitProbes (c : Nat) : List URange → State → MRes Unit
  | [], s => (s, .ok ())
  | r :: rs, s => mBind (unitProbe c r s) fun s1 _ => unitProbes c rs s1

/-- Write all the ranges, or none of them where one fails (R187, R210, R263). -/
def unitWrites (c : Nat) (ws : List (URange × List Byte)) : State → MRes Unit :=
  allOrNone (unitProbes c (ws.map (·.1))) (unitWritesFrom c ws)

/-- Read ranges for a thread, read-only ones through the L1, until one fails or must be waited for (R286): the bytes read, and why it ended early. -/
def threadReads (c : Nat) (ro : Bool) : List URange → State → State × List (List Byte) × Option (Nat ⊕ BlockOn)
  | [], s => (s, [], none)
  | r :: rs, s =>
    match (if r.dev && ro then roRead s c false r.addr r.len
           else match unitRead s c r false with | (s1, .ok bs) => (s1, .data bs) | (s1, .error e) => (s1, L1Ans.fault e)) with
    | (s1, .fault e) => (s1, [], some (.inl e))
    | (s1, .wait on) => (s1, [], some (.inr on))
    | (s1, .data bs) =>
      let q := threadReads c ro rs s1
      (q.1, bs :: q.2.1, q.2.2)

/-- Accumulate requests of a core that failed when their layer resumed; the unit that issued them follows its rule (R282, R300). -/
def accFailed (fs : List (TaddReq × Nat)) (c : Nat) (fmax : Bool) : Option Nat :=
  (fs.find? fun f => f.1.core == c && f.1.fmax == fmax).map (·.2)

/-- A head whose accumulate requests waited has ended: the team node keeps it for a replay, whose sealed head may be the same one (R231, R282). -/
def accEnded (s : State) (c : Nat) (fmax : Bool) (f : Option Nat) : State :=
  onNode s c fun n => { n with eff := { n.eff with accEnd := n.eff.accEnd ++ [(fmax, f)] } }

/-- Is an FP32 word finite and greater than 0 (SCALE of a descriptor)? -/
def scaleOk (w : Nat) : Bool := decide (w < f32.infBits) && w != 0

/-- Reader of a byte string: `len` bytes from `off` as a number. -/
def bytesAt (bs : List Byte) (off len : Nat) : Nat := getLe bs off len

/-- Elements of a stored row of a plain format. -/
def plainElems (fmt : Nat) (bs : List Byte) (n : Nat) : List FVal :=
  let w := fmtBits fmt / 8
  (List.range n).map fun i => plainDecode fmt (getLe bs (i * w) w)

end Sys2Proof.Machine
end

