-- ==== Sys2Proof/Machine/Convert.lean ====
section
/-! DEFINITION. The conversion unit of a core (R244 to R264): CAMAX, CCVT and CDEC with their descriptors and checks. -/

namespace Sys2Proof.Machine

/-! ### Issue (Table 09.4) -/

def inConvq (s : State) (c t : Nat) : Bool := (getCore s c).convq.any fun e => e.thr == t

/-- Enter a conversion instruction in the slot's 8 entries. -/
def issueConv (r : EArgs) (op : ConvOp) (s : State) : Out :=
  let c := r.core.toNat
  let t := r.thr.toNat
  issueRaw c t (b2n r.c + r.rsv.toNat) s fun th =>
    if 8 ≤ (getCore s c).convq.length then blockThread s c t (.room .conv)
    else nextPc (onCore s c fun k => { k with convq := k.convq ++ [{ thr := t, pc := th.pc, op := (op, gReg th r.g.toNat) }] }) c t

def execCamax (r : EArgs) (s : State) : Out := issueConv r .camax s
def execCcvt (r : EArgs) (s : State) : Out := issueConv r .ccvt s
def execCdec (r : EArgs) (s : State) : Out := issueConv r .cdec s

def execCfence (r : EArgs) (s : State) : Out :=
  let c := r.core.toNat
  let t := r.thr.toNat
  issueRaw c t (r.g.toNat + b2n r.c + r.rsv.toNat) s fun _ => issueFence c t s .conv (inConvq s c t)

def execCstat (r : EArgs) (s : State) : Out :=
  let c := r.core.toNat
  let t := r.thr.toNat
  issueRaw c t r.rsv.toNat s fun _ =>
    let w := (getCore s c).stat.cstat
    putNext (if r.c then onCore s c fun k => { k with stat := { k.stat with cstat := 0 } } else s) c t r.g.toNat w

/-! ### Descriptors (Table 09.5) -/

structure ConvDesc where
  src : Nat
  dst : Nat
  srcLd : Nat
  dstLd : Nat
  rows : Nat
  cols : Nat
  amax : Nat
  scale : Nat
  tensor : Nat
  srcFmt : Nat
  dstFmt : Nat
  log2 : Nat
  flags : Nat
  escMax : Nat
  outShift : Nat
  pool : Nat
  rsv : Nat
deriving DecidableEq, Repr

def convDesc (b : List Byte) : ConvDesc :=
  { src := getLe b 0 8, dst := getLe b 8 8, srcLd := getLe b 16 4, dstLd := getLe b 20 4, rows := getLe b 24 4, cols := getLe b 28 4,
    amax := getLe b 32 8, scale := getLe b 40 8, tensor := getLe b 48 4, srcFmt := getB b 52, dstFmt := getB b 53, log2 := getB b 54,
    flags := getB b 55, escMax := getB b 56, outShift := getB b 57, pool := getLe b 58 2, rsv := getLe b 60 4 }

/-- The block format of an instruction: the destination of CCVT, the source of CDEC. -/
def convBlockFmt (op : ConvOp) (d : ConvDesc) : Nat :=
  match op with
  | .camax => 0
  | .ccvt => d.dstFmt
  | .cdec => d.srcFmt

/-- Field ranges of a descriptor (Table 09.5, R258, R263). -/
def convDescOk (op : ConvOp) (d : ConvDesc) : Bool :=
  let f := convBlockFmt op d
  let block := decide (5 ≤ f) && decide (f ≤ 13)
  (match op with
    | .camax => decide (d.srcFmt ≤ 2) && d.dstFmt == 0
    | .ccvt => decide (d.srcFmt ≤ 2) && block
    | .cdec => block && decide (d.dstFmt ≤ 1)) &&
  (if op = .camax then d.log2 == 0 else blockLog2Ok f d.log2) &&
  (if isZb f then decide (d.escMax ≤ 4) && decide (d.outShift ≤ 15) else d.escMax == 0 && d.outShift == 0 && d.pool == 0) &&
  decide (d.srcLd % 64 = 0) && decide (d.dstLd % 64 = 0) &&
  decide (1 ≤ d.rows ∧ d.rows ≤ 2 ^ 24) && decide (1 ≤ d.cols ∧ d.cols ≤ 1048576) &&
  ((op == .cdec || (op == .ccvt && !isZb f)) || decide (d.amax % 4 = 0)) && (op == .camax || decide (d.scale % 4 = 0)) &&
  decide (d.flags < 8) && d.rsv == 0 &&
  (op != .ccvt || decide (roundUp (rowBytes f d.log2 d.cols d.pool) 64 ≤ d.dstLd))

/-- Bytes of a source and of a destination row. -/
def convSrcBytes (op : ConvOp) (d : ConvDesc) : Nat :=
  if op = .cdec then rowBytes d.srcFmt d.log2 d.cols d.pool else d.cols * (fmtBits d.srcFmt / 8)
def convDstBytes (op : ConvOp) (d : ConvDesc) : Nat :=
  if op = .ccvt then rowBytes d.dstFmt d.log2 d.cols d.pool else d.cols * (fmtBits d.dstFmt / 8)

def convSrcRow (op : ConvOp) (d : ConvDesc) (r : Nat) : URange := ⟨bit d.flags 0, d.src + r * d.srcLd, convSrcBytes op d⟩
def convDstRow (op : ConvOp) (d : ConvDesc) (r : Nat) : URange := ⟨bit d.flags 1, d.dst + r * d.dstLd, convDstBytes op d⟩

/-- Ranges read and ranges written. -/
def convReads (op : ConvOp) (d : ConvDesc) : List URange :=
  ((List.range d.rows).map (convSrcRow op d)) ++
  (match op with
    | .camax => [⟨true, d.amax, 4⟩]
    | .ccvt => if isZb d.dstFmt then [⟨true, d.amax, 4⟩] else []
    | .cdec => [⟨true, d.scale, 4⟩])
def convWrites (op : ConvOp) (d : ConvDesc) : List URange :=
  match op with
  | .camax => [⟨true, d.amax, 4⟩]
  | _ => ((List.range d.rows).map (convDstRow op d)) ++ (if op = .ccvt then [⟨true, d.scale, 4⟩] else [])

/-- First scratchpad offset of the ranges that lies beyond the scratchpad. -/
def spadOver (s : State) (c : Nat) (rs : List URange) : Option Nat :=
  (rs.find? fun r => !r.dev && decide (scratchLen s c < r.addr + r.len)).map fun r => max r.addr (scratchLen s c)

/-- Why a conversion instruction fails its checks (R263). -/
def convFault (s : State) (c off : Nat) (op : ConvOp) (d : ConvDesc) : Option (Nat × Nat) :=
  if off % 32 ≠ 0 ∨ scratchLen s c < off + 64 ∨ !convDescOk op d then some (stAddrUnmapped, spadFault off)
  else
    match spadOver s c (convReads op d ++ convWrites op d) with
    | some o => some (stAddrUnmapped, spadFault o)
    | none =>
      match rangesFault s false (convReads op d) with
      | some f => some f
      | none => rangesFault s true (convWrites op d)

/-! ### Execution -/

/-- The head of the conversion queue leaves. -/
def convPop (s : State) (c : Nat) : State :=
  let s1 := onCore s c fun k => { k with convq := k.convq.tail, convBusy := false }
  unitAdvance s1 c .conv (inConvq s1 c)

/-- The head fails: its thread stops, and its entries behind it are discarded (R263). -/
def convFail (s : State) (c t pc : Nat) (f : Nat × Nat) : State :=
  let s1 := stopQueued s c t f.1 pc f.2
  let s2 := onCore s1 c fun k => { k with convq := k.convq.tail.filter fun x => x.thr != t, convBusy := false }
  unitAdvance s2 c .conv (inConvq s2 c)

/-- Read every source row and see that every result row can be written, in row order: what the reads do stays done where one fails (R263, R295,
R298, R305). -/
def convProbe (c : Nat) (op : ConvOp) (d : ConvDesc) : List Nat → State → MRes Unit
  | [], s => (s, .ok ())
  | r :: rs, s =>
    mBind (unitRead s c (convSrcRow op d r) false) fun s1 _ =>
      mBind (unitProbe c (convDstRow op d r) s1) fun s2 _ => convProbe c op d rs s2

/-- Run the head when it is the operation of the row and passes its checks. One that fails on the way writes nothing (R263); a CAMAX whose
maximum waits for a layer that empties completes when it is applied (R259, R282). -/
def convHead (s : State) (c : Nat) (op : ConvOp) (run : State → QEntry (ConvOp × Nat) → ConvDesc → State × Except Nat Unit) : Out :=
  match (getCore s c).convq with
  | e :: _ =>
    if e.op.1 ≠ op ∨ !unitServed s c ∨ (getCore s c).convBusy then .next s
    else
      let d := convDesc (spadRead s c e.op.2 64)
      match convFault s c e.op.2 op d with
      | some f => .next (convFail s c e.thr e.pc f)
      | none =>
        match run s e d with
        | (s1, .error x) => .next (convFail s1 c e.thr e.pc (stAddrUnmapped, x))
        | (s1, .ok _) => .next (if accWaits s1 c true then onCore s1 c fun k => { k with convBusy := true } else convPop s1 c)
  | [] => .next s

/-- The maximum of a CAMAX that a layer has released: one that failed fails its CAMAX, else the CAMAX completes (R282). -/
def convReleased (fs : List (TaddReq × Nat)) (s : State) (c : Nat) : State :=
  match (getCore s c).convq with
  | e :: _ =>
    if !(getCore s c).convBusy then s
    else
      match accFailed fs c true with
      | some x => convFail (accEnded s c true (some x)) c e.thr e.pc (stAddrUnmapped, x)
      | none => if accWaits s c true then s else convPop (accEnded s c true none) c
  | [] => s

/-- Elements of a plain source row. -/
def convElems (d : ConvDesc) (bs : List Byte) : List FVal := plainElems d.srcFmt bs d.cols

/-- Largest finite magnitude of rows in order, as an FP32 code; `none` with no finite element (R244). -/
def camaxRows (c : Nat) (d : ConvDesc) : List Nat → Option Nat → State → MRes (Option Nat)
  | [], m, s => (s, .ok m)
  | r :: rs, m, s =>
    match unitRead s c (convSrcRow .camax d r) false with
    | (s1, .error e) => (s1, .error e)
    | (s1, .ok bs) =>
      let m' := (convElems d bs).foldl (fun m x => if fvIsFin x then some (max (m.getD 0) (fpMag f32 (r32 (fvAbs x)))) else m) m
      camaxRows c d rs m' s1

/-- CAMAX_EXECUTE. -/
def execCamaxExecute (core : BitVec 11) (s : State) : Out :=
  let c := core.toNat
  convHead s c .camax fun s _ d =>
    match camaxRows c d (List.range d.rows) none s with
    | (s1, .error e) => (s1, .error e)
    | (s1, .ok none) => (s1, .ok ())
    | (s1, .ok (some m)) => memFmax s1 c d.amax m

/-- What the rows of a CCVT come to: counts, whether a finite element exceeded the amax value, and the first NaN written. -/
structure CcvtSum where
  count : ConvCount := {}
  clipped : Bool := false
  nan : Option Nat := none
deriving DecidableEq, Repr

def ccvtRows (c : Nat) (d : ConvDesc) (T : Int) (amax : Nat) : List Nat → CcvtSum → State → MRes CcvtSum
  | [], m, s => (s, .ok m)
  | r :: rs, m, s =>
    match unitRead s c (convSrcRow .ccvt d r) false with
    | (s1, .error e) => (s1, .error e)
    | (s1, .ok bs) =>
      let xs := convElems d bs
      let p : ConvParams := ⟨d.dstFmt, d.log2, d.escMax, d.outShift, d.pool, d.cols⟩
      let o := convRow p T (fun _ => none) xs
      match unitWrite s1 c (convDstRow .ccvt d r) o.1 with
      | (s2, .error e) => (s2, .error e)
      | (s2, .ok _) =>
        let clipped := isZb d.dstFmt && xs.any fun x => fvIsFin x && magLt (fpVal f32 amax) x
        let nan := match m.nan with
          | some n => some n
          | none => ((rowElems d.dstFmt d.log2 (bytesAt o.1) o.1.length d.cols).findIdx? fvIsNan).map fun j => r * 2 ^ 32 + j
        ccvtRows c d T amax rs ⟨m.count.add o.2, m.clipped || clipped, nan⟩ s2

/-- Deliver a CCVT's counts to tensor watch, and keep them with the slot: a replay takes them back before it starts (R264). Counts that are lost add 1 to
ENTRY_DROP_CNT, which a replay does not do again (R273). -/
def ccvtWatch (s : State) (c : Nat) (e : QEntry (ConvOp × Nat)) (d : ConvDesc) (n : ConvCount) : State :=
  if !bit d.flags 2 then s
  else
    let step := ((e.task.orElse fun _ => (getCore s c).prog).map (·.step)).getD 0
    let add := fun (s : State) => watchAdd s d.tensor 0 step n.elements n.zeros n.sats n.nonfinite
    if watchTakes s d.tensor 0 step then
      onNode (add s) c fun x => { x with eff := { x.eff with watched := x.eff.watched ++ [⟨d.tensor, step, n.elements, n.zeros, n.sats, n.nonfinite⟩] } }
    else
      let r := spendNat s c (·.drops) (fun e n => { e with drops := n })
      if r.2 then add r.1 else r.1

/-- CCVT_EXECUTE: the amax word is read once, at the head; the tensor-scale word receives S (1.0 for MX, R252). -/
def execCcvtExecute (core : BitVec 11) (s : State) : Out :=
  let c := core.toNat
  convHead s c .ccvt fun s e d =>
    let zb := isZb d.dstFmt
    match (if zb then coreRead s c d.amax 4 else (s, .ok [])) with
    | (s1, .error e) => (s1, .error e)
    | (s1, .ok ab) =>
      let amax := leNat ab
      let te := if zb then tensorExp d.dstFmt amax else (0, false)
      let eff := if te.2 then 0 else amax
      mBind (allOrNone
          (fun s => mBind (convProbe c .ccvt d (List.range d.rows) s) fun s _ => unitProbe c ⟨true, d.scale, 4⟩ s)
          (fun s => mBind (ccvtRows c d te.1 (fpMag f32 eff) (List.range d.rows) {} s) fun s m =>
            mBind (coreWrite s c d.scale (leBytes 4 (r32 (.fin false 1 te.1)))) fun s _ => (s, .ok m)) s1) fun s3 m =>
        let stat := fun w => cstatAdd w m.count.sats (decide (0 < m.count.nonfinite)) (te.2 || m.clipped) m.count.poolFull
        let s4 := onCore s3 c fun k => { k with stat := { k.stat with cstat := stat k.stat.cstat } }
        let s5 := ccvtWatch s4 c e d m.count
        (match m.nan with | some j => nanEntry s5 c e 4 (some d.tensor) j | none => s5, .ok ())

/-- Rows of a CDEC: the first NaN written. -/
def cdecRows (c : Nat) (d : ConvDesc) (S : FVal) : List Nat → Option Nat → State → MRes (Option Nat)
  | [], m, s => (s, .ok m)
  | r :: rs, m, s =>
    match unitRead s c (convSrcRow .cdec d r) false with
    | (s1, .error e) => (s1, .error e)
    | (s1, .ok bs) =>
      let f := if d.dstFmt = 0 then f32 else bf16
      let vs := (rowElems d.srcFmt d.log2 (bytesAt bs) bs.length d.cols).map fun v => (fpOfVal f (fvMul v S)).bits
      match unitWrite s1 c (convDstRow .cdec d r) (vs.flatMap (leBytes (fmtBits d.dstFmt / 8))) with
      | (s2, .error e) => (s2, .error e)
      | (s2, .ok _) =>
        cdecRows c d S rs (match m with | some n => some n | none => (vs.findIdx? (fpIsNan f)).map fun j => r * 2 ^ 32 + j) s2

/-- CDEC_EXECUTE (R242, R263): ZB values carry S from the tensor-scale word. -/
def execCdecExecute (core : BitVec 11) (s : State) : Out :=
  let c := core.toNat
  convHead s c .cdec fun s e d =>
    match coreRead s c d.scale 4 with
    | (s1, .error e) => (s1, .error e)
    | (s1, .ok sb) =>
      let S := if isZb d.srcFmt then fpVal f32 (leNat sb) else .fin false 1 0
      mBind (allOrNone (convProbe c .cdec d (List.range d.rows)) (cdecRows c d S (List.range d.rows) none) s1) fun s2 nan =>
        (match nan with | some j => nanEntry s2 c e 4 (some d.tensor) j | none => s2, .ok ())

end Sys2Proof.Machine
end

