-- ==== Sys2Proof/Machine/Fec.lean ====
section
/-! DEFINITION. The flit's FEC (R431): RS(128,120) over GF(2^8) with field polynomial 0x11D and generator roots α^0 to α^7. A codeword's symbols
are taken in flit order, the first as the coefficient of the highest power (log entry 12). -/

namespace Sys2Proof.Machine

/-- Product in GF(2^8): shift and reduce, over the eight bits of `b`. -/
def gfMulN : Nat → Nat → Nat → Nat
  | 0, _, _ => 0
  | k + 1, a, b =>
    let a2 := if 128 ≤ a then ((2 * a) ^^^ 0x11D) % 256 else 2 * a
    (if b % 2 = 1 then a else 0) ^^^ gfMulN k a2 (b / 2)
def gfMul (a b : Nat) : Nat := gfMulN 8 a b
/-- Power, and inverse (`a^254`). -/
def gfPow (a : Nat) : Nat → Nat
  | 0 => 1
  | k + 1 => gfMul a (gfPow a k)
def gfInv (a : Nat) : Nat := gfPow a 254

/-- Value of a polynomial whose coefficients are listed from the highest power. -/
def gfEval (p : List Nat) (x : Nat) : Nat := p.foldl (fun v c => gfMul v x ^^^ c) 0
/-- Product of polynomials listed from the lowest power. -/
def gfPolyMul (p q : List Nat) : List Nat :=
  (List.range (p.length + q.length - 1)).map fun i =>
    (List.range (i + 1)).foldl (fun v j => v ^^^ gfMul (p.getD j 0) (q.getD (i - j) 0)) 0

/-- The generator polynomial, from the lowest power. -/
def rsGen : List Nat := (List.range 8).foldl (fun g i => gfPolyMul g [gfPow 2 i, 1]) [1]

/-- The eight parity symbols of 120 data symbols: the remainder of the division by the generator. -/
def rsParity (data : List Nat) : List Nat :=
  let g := (rsGen.take 8).reverse
  data.foldl (fun r d =>
    let f := d ^^^ r.getD 0 0
    (List.range 8).map fun i => r.getD (i + 1) 0 ^^^ gfMul f (g.getD i 0)) (List.replicate 8 0)

/-- Syndromes of a received word. -/
def rsSyndromes (w : List Nat) : List Nat := (List.range 8).map fun i => gfEval w (gfPow 2 i)

/-- State of the search for the error locator: locator and the one before its last change of length, both from the lowest power; its length;
steps since that change; the discrepancy then. -/
structure RsLoc where
  c : List Nat
  b : List Nat
  l : Nat
  m : Nat
  d : Nat

/-- One step of the search (Berlekamp and Massey). -/
def rsLocStep (s : List Nat) (r : RsLoc) (n : Nat) : RsLoc :=
  let d := (List.range (r.l + 1)).foldl (fun v i => v ^^^ gfMul (r.c.getD i 0) (s.getD (n - i) 0)) 0
  if d = 0 then { r with m := r.m + 1 }
  else
    let f := gfMul d (gfInv r.d)
    let sh := List.replicate r.m 0 ++ r.b.map (gfMul f)
    let c2 := (List.range (max r.c.length sh.length)).map fun i => r.c.getD i 0 ^^^ sh.getD i 0
    if 2 * r.l ≤ n then ⟨c2, r.c, n + 1 - r.l, 1, d⟩ else { r with c := c2, m := r.m + 1 }

def rsLocate (s : List Nat) : RsLoc := (List.range 8).foldl (rsLocStep s) ⟨[1], [1], 0, 1, 1⟩

/-- Value of the formal derivative of a polynomial from the lowest power. -/
def gfDeriv (p : List Nat) (x : Nat) : Nat :=
  (List.range p.length).foldl (fun v i => if i % 2 = 1 then v ^^^ gfMul (p.getD i 0) (gfPow x (i - 1)) else v) 0

/-- Decode a codeword of 128 symbols: up to four symbols corrected, and how many; `none` when it is uncorrectable. -/
def rsDecode (w : List Nat) : Option (List Nat × Nat) :=
  let s := rsSyndromes w
  if s.all (· == 0) then some (w, 0)
  else
    let r := rsLocate s
    let low := fun (p : List Nat) (x : Nat) => gfEval p.reverse x
    -- position `i` holds the coefficient of power 127 - i
    let pos := (List.range 128).filter fun i => low r.c (gfInv (gfPow 2 (127 - i))) == 0
    if 4 < r.l ∨ pos.length ≠ r.l then none
    else
      let om := (gfPolyMul s r.c).take 8
      let fix := fun (i : Nat) =>
        let x := gfPow 2 (127 - i)
        let xi := gfInv x
        gfMul x (gfMul (low om xi) (gfInv (gfDeriv r.c xi)))
      let w2 := (List.range 128).map fun i => if pos.contains i then w.getD i 0 ^^^ fix i else w.getD i 0
      if (rsSyndromes w2).all (· == 0) then some (w2, r.l) else none

/-- Symbols of a codeword in a 256-byte flit: the bytes of one parity. -/
def flitWord (bs : List Byte) (odd : Nat) : List Nat := (List.range 128).map fun i => getB bs (2 * i + odd)

/-- A flit with its CRC and FEC from its first 236 bytes (Table 16.2). -/
def flitSeal (body : List Byte) : List Byte :=
  let b := body ++ leBytes 4 (crc32c body)
  let par := fun (odd : Nat) => rsParity ((List.range 120).map fun i => getB b (2 * i + odd))
  let p0 := par 0
  let p1 := par 1
  b ++ (List.range 8).flatMap fun i => [BitVec.ofNat 8 (p0.getD i 0), BitVec.ofNat 8 (p1.getD i 0)]

/-- A received flit: its corrected bytes and whether anything was corrected; `none` when the flit is bad (R431). -/
def flitOpen (raw : List Byte) : Option (List Byte × Bool) :=
  if raw.length ≠ 256 then none
  else
    match rsDecode (flitWord raw 0), rsDecode (flitWord raw 1) with
    | some (w0, n0), some (w1, n1) =>
      let bs := (List.range 128).flatMap fun i => [BitVec.ofNat 8 (w0.getD i 0), BitVec.ofNat 8 (w1.getD i 0)]
      if getLe bs 236 4 = crc32c (bs.take 236) then some (bs, n0 + n1 != 0) else none
    | _, _ => none

end Sys2Proof.Machine
end

