-- ==== Sys2Proof/Machine/BxlTx.lean ====
section
/-! DEFINITION. The transmitting side of the Bexsyn link: flits and their headers (R430), acknowledgements and credits (R433, R434, R442),
replay (R434), INIT flits (Table 16.5), packets on the reply, bulk and management channels (R440). -/

namespace Sys2Proof.Machine

def onBxl (s : State) (f : BxlSt → BxlSt) : State := { s with bxl := f s.bxl }
def bxlUp (s : State) : Bool := s.bxl.state == 4

/-- One µs in units of the model's clock. -/
def bxlUs : Nat := 3000

/-- FSEQ of the last flit accepted in order. -/
def bxlAck (s : State) : Nat := (s.bxl.rxSeq + 4095) % 4096

/-- The header of a flit (Table 16.3) with the current ACKSEQ. -/
def flitHdr (s : State) (f : BxlFlit) (nak : Bool) : Nat :=
  f.kind + 4 * f.vc + 16 * b2n f.sop + 32 * b2n f.eop + 2 ^ 8 * f.fill + 2 ^ 16 * f.fseq + 2 ^ 28 * bxlAck s + 2 ^ 40 * b2n nak +
  2 ^ 48 * f.crVc + 2 ^ 50 * f.crCount

/-- One flit on the wire. -/
def wireFlit (s : State) (f : BxlFlit) (nak : Bool) : State :=
  let pay := (f.payload ++ zeroBytes 228).take 228
  onBxl s fun b => { b with wire := b.wire ++ [flitSeal (leBytes 8 (flitHdr s f nak) ++ pay)], sinceIdle := if f.kind = 0 then 0 else b.sinceIdle + 1 }

/-- An IDLE flit: the acknowledgement, with a NAK or without (R432, R434). -/
def sendIdle (s : State) (nak : Bool) : State := wireFlit s ⟨0, 0, 0, false, false, 0, 0, 0, []⟩ nak

/-- Put a flit on the wire; while the link is UP, an IDLE flit goes before it when it would be the 2,048th in a row that is none (R432). -/
def putFlit (s : State) (f : BxlFlit) (nak : Bool) : State :=
  wireFlit (if bxlUp s && f.kind != 0 && decide (2047 ≤ s.bxl.sinceIdle) then sendIdle s false else s) f nak

/-- Ask for a replay, once until a flit is accepted again (R433). -/
def sendNak (s : State) : State :=
  if s.bxl.nakSent then s else onBxl (sendIdle s true) fun b => { b with nakSent := true }

/-- Send a sequenced flit and keep it until it is acknowledged (R434). -/
def sendSeqFlit (s : State) (kind vc : Nat) (sop eop : Bool) (fill crVc crCount : Nat) (payload : List Byte) : State :=
  let f : BxlFlit := ⟨s.bxl.txSeq, kind, vc, sop, eop, fill, crVc, crCount, payload⟩
  let t := if s.bxl.unacked.isEmpty then s.now else s.bxl.ackSince
  onBxl (putFlit s f false) fun b => { b with unacked := b.unacked ++ [f], txSeq := (b.txSeq + 1) % 4096, ackSince := t }

/-! ### Credits (R442, Table 16.6) -/

/-- Flits of the device's receive buffer of a channel. -/
def rxBuffer (vc : Nat) : Nat := if vc = 0 then 2048 else if vc = 2 then 4096 else if vc = 3 then 128 else 0

/-- Flits of the bulk packets that are kept for commands whose work has not begun (R442). -/
def bulkHeld (s : State) : Nat :=
  (s.mp.slots.map fun x => (x.bulk.map (·.1)).sum).sum + (s.mp.rxWait.map fun w => (w.bulk.map (·.1)).sum).sum

/-- Flits of a channel that packets hold in the receive buffer: open ones, those that wait for a slot (R71), and bulk packets kept for a command. -/
def rxHeld (s : State) (vc : Nat) : Nat :=
  (s.bxl.opens.filter fun o => o.vc == vc && !o.skip).foldl (fun n o => n + o.flits) 0 +
  (s.mp.rxWait.filter fun w => (if w.pkt.chan = .management then 3 else 0) == vc).foldl (fun n w => n + w.flits) 0 +
  (if vc = 2 then bulkHeld s else 0)

def rxFree (s : State) (vc : Nat) : Nat := rxBuffer vc - rxHeld s vc

/-! ### Packets (R440) -/

/-- Flits of a packet. -/
def pktFlits (bytes : List Byte) : Nat := ceilDiv bytes.length 228

/-- May a packet be sent on a channel now: link UP, credits for its flits, room among the unacknowledged flits (R434, R442)? -/
def canSend (s : State) (vc : Nat) (bytes : List Byte) : Bool :=
  bxlUp s && decide (pktFlits bytes ≤ smGet 0 s.bxl.txCredit vc) && decide (s.bxl.unacked.length + pktFlits bytes ≤ 1024)

/-- Is a DATA flit ready: may the oldest packet of a channel be sent (R442)? -/
def dataReady (s : State) : Bool :=
  let head := fun (vc : Nat) (q : List Reply) => match q with | r :: _ => canSend s vc r.bytes | [] => false
  head 1 s.mp.replyQ || head 2 s.mp.bulkQ || head 3 s.mp.mgmtQ

/-- Slots in use on a channel, and are they all (R71)? -/
def slotsUsed (s : State) (mgmt : Bool) : Nat := (s.mp.slots.filter fun x => x.mgmt == mgmt).length
def slotsFull (s : State) (mgmt : Bool) : Bool := decide ((if mgmt then 64 else 4096) ≤ slotsUsed s mgmt)

/-- Are a channel's credits withheld, because every slot of it is in use (R71, R442)? -/
def creditHeld (s : State) (vc : Nat) : Bool := (vc == 0 && slotsFull s false) || (vc == 3 && slotsFull s true)

/-- Credits that the next sequenced flit carries: those that wait on the first channel that has some and does not withhold them. -/
def nextCredit (s : State) : Nat × Nat :=
  match [0, 2, 3].find? fun vc => decide (0 < smGet 0 s.bxl.due vc) && !creditHeld s vc with
  | some vc => (vc, min 16383 (smGet 0 s.bxl.due vc))
  | none => (0, 0)
/-- Credits have gone to the adapter in a flit. -/
def creditSent (s : State) (c : Nat × Nat) : State :=
  if c.2 = 0 then s else onBxl s fun b => { b with due := smMod 0 b.due c.1 (· - c.2), granted := smMod 0 b.granted c.1 (· + c.2) }

/-- Send one channel's credits in a CREDIT flit; while a DATA flit is ready they wait for it (R442). -/
def sendCredit (s : State) (vc : Nat) : State :=
  let n := min 16383 (smGet 0 s.bxl.due vc)
  if n = 0 ∨ creditHeld s vc ∨ !bxlUp s ∨ dataReady s ∨ 1024 ≤ s.bxl.unacked.length then s
  else creditSent (sendSeqFlit s 2 0 false false 0 vc n []) (vc, n)
/-- Send the credits that wait. -/
def sendCredits (s : State) : State := [0, 2, 3].foldl sendCredit s

/-- Return credits of a channel to the adapter. -/
def returnCredit (s : State) (vc n : Nat) : State :=
  if n = 0 then s else sendCredits (onBxl s fun b => { b with due := smMod 0 b.due vc (· + n) })

/-- Send a packet in DATA flits, which carry the credits that wait (R442). -/
def sendPacket (s : State) (vc : Nat) (bytes : List Byte) (reset : Bool) : State :=
  let n := pktFlits bytes
  let s1 := (List.range n).foldl (fun s i =>
    let part := (bytes.drop (228 * i)).take 228
    let c := nextCredit s
    creditSent (sendSeqFlit s 1 vc (i == 0) (i + 1 == n) part.length c.1 c.2 part) c) s
  onBxl s1 fun b =>
    { b with txCredit := smMod 0 b.txCredit vc (· - n), sent := b.sent ++ [⟨vc, bytes, (b.txSeq + 4095) % 4096, reset⟩] }

/-- Packets to be sent again from their start (R438), as credits allow, each channel in order. -/
def sendAgain (s : State) : State :=
  (s.bxl.resend.foldl (fun (r : State × List Nat) p =>
    if r.2.contains p.1 || !canSend r.1 p.1 p.2.1 then (r.1, p.1 :: r.2)
    else
      let s1 := sendPacket r.1 p.1 p.2.1 p.2.2
      (onBxl s1 fun b => { b with resend := b.resend.erase p }, r.2)) (s, [])).1

/-- Send a packet if it may be sent and none of its channel waits to be sent again. -/
def trySend (s : State) (vc : Nat) (bytes : List Byte) (reset : Bool) : Option State :=
  let s1 := sendAgain s
  if (s1.bxl.resend.any fun p => p.1 == vc) || !canSend s1 vc bytes then none else some (sendPacket s1 vc bytes reset)

/-! ### Acknowledgement and replay (R433 to R435) -/

/-- Signed 12-bit difference of sequence numbers (R433). -/
def seqDiff (a b : Nat) : Int := sgn 12 (a + 4096 - b % 4096)

/-- The partner has accepted every flit up to `a`. A reset waits 1 µs from the acknowledgement of its reply (R439). -/
def ackFlits (s : State) (a : Nat) : State :=
  let rest := s.bxl.unacked.filter fun f => decide (0 < seqDiff f.fseq a)
  if rest.length = s.bxl.unacked.length then s
  else
    let gone := s.bxl.sent.filter fun p => decide (seqDiff p.eopSeq a ≤ 0)
    let s1 := onBxl s fun b => { b with unacked := rest, ackSince := s.now, replayFrom := none, replayRun := 0,
                                        sent := b.sent.filter fun p => decide (0 < seqDiff p.eopSeq a) }
    if gone.any (·.reset) then onMp s1 fun m => { m with resetAt := m.resetAt.map fun t => min t (s.now + bxlUs) } else s1

/-- An ACKSEQ received: ignored and counted when it is ahead of the last FSEQ sent (Table 16.7). -/
def takeAck (s : State) (a : Nat) : State :=
  if 0 ≤ seqDiff a s.bxl.txSeq then onBxl s fun b => { b with protoErr := satAdd 32 b.protoErr 1 }
  else ackFlits s a

/-- Resend every unacknowledged flit (R434). -/
def resendFlits (s : State) : State := s.bxl.unacked.foldl (fun s f => putFlit s f false) s
def bxlReplay (s : State) : State :=
  match s.bxl.unacked with
  | [] => s
  | f :: _ =>
    let run := if s.bxl.replayFrom = some f.fseq then s.bxl.replayRun + 1 else 1
    onBxl (resendFlits s) fun b =>
      { b with replayCnt := satAdd 32 b.replayCnt 1, replayFrom := some f.fseq, replayRun := run, ackSince := s.now }

/-! ### INIT and states (R436 to R439) -/

/-- Credits of a channel in flits that the adapter has not acknowledged: it has them already, or gets them when the flits are resent. -/
def unackedCredits (s : State) (vc : Nat) : Nat := ((s.bxl.unacked.filter fun f => f.crVc == vc).map (·.crCount)).sum

/-- What CREDIT_FREE offers in an exchange of INIT flits: the free receive flits, but for those whose credits lie in unacknowledged flits, so that a
resent flit brings none twice (R437, log entry 152). Every INIT of the exchange offers the same. While every slot of a channel is in use its free flits are
offered too (DESIGN CHOICE, log entry 182). -/
def offerCredits (s : State) : State :=
  onBxl s fun b => { b with due := [], granted := ([0, 2, 3].map fun vc => (vc, rxFree s vc - unackedCredits s vc)).filter fun p => p.2 != 0 }

/-- An INIT flit (Table 16.5). -/
def sendInit (s : State) : State :=
  let pay := leBytes 2 1 ++ leBytes 1 0 ++ leBytes 1 (b2n s.bxl.seqReset) ++ leBytes 2 (bxlAck s) ++ leBytes 2 0 ++
    (List.range 4).flatMap fun vc => leBytes 4 (smGet 0 s.bxl.granted vc)
  onBxl (putFlit s ⟨0, 3, 0, false, false, 0, 0, 0, pay⟩ false) fun b => { b with lastInit := s.now }

/-- Move to a state. -/
def bxlState (s : State) (st : Nat) : State := onBxl s fun b => { b with state := st, stateSince := s.now, initPhase := false }

/-- The link goes DOWN (R436). -/
def bxlDown (s : State) : State :=
  if s.bxl.state = 0 then s
  else onBxl (bxlState s 0) fun b => { b with downCnt := satAdd 32 b.downCnt 1, width := 0, laneOk := 0 }

end Sys2Proof.Machine
end

