-- ==== Sys2Proof/Machine/EthFrame.lean ====
section
/-! DEFINITION. The headers of the frames a port sends, as bytes, most significant first (R6, R406, R408): the 802.1Q-tagged Ethernet header, the IPv4
and IPv6 headers, the UDP header and the bodies of ARP, Neighbour Discovery, group membership and pause frames, as the standards give them. A field the spec does not fix is a free value (log entry 154). -/

namespace Sys2Proof.Machine

/-- Bytes of a number, most significant first (R6). -/
def beBytes (k n : Nat) : List Byte := (leBytes k n).reverse
def getBe (bs : List Byte) (off len : Nat) : Nat := leNat (((bs.drop off).take len).reverse)

/-! ### Addresses -/

/-- An IPv4 address in IPv4-mapped form. -/
def v4Mapped (a : Nat) : Nat := 0xFFFF * 2 ^ 32 + a
def isV4Mapped (a : Nat) : Bool := a / 2 ^ 32 == 0xFFFF
/-- Is it a multicast address of the family? -/
def isMulticast (v6 : Bool) (a : Nat) : Bool :=
  if v6 then a / 2 ^ 120 == 0xFF else isV4Mapped a && a % 2 ^ 32 / 2 ^ 28 == 0xE
/-- Is it a multicast address of either family? -/
def isGroup (a : Nat) : Bool := isMulticast true a || isMulticast false a
/-- The MAC address of a multicast group (RFC 1112, RFC 2464). -/
def groupMac (a : Nat) : Nat := if isV4Mapped a then 0x01005E000000 + a % 2 ^ 23 else 0x333300000000 + a % 2 ^ 32

/-! ### Headers -/

/-- Ethernet header with its tag: destination, source, priority, VLAN and Ethertype. -/
def ethHead (dst src pcp vid ty : Nat) : List Byte :=
  beBytes 6 dst ++ beBytes 6 src ++ beBytes 2 0x8100 ++ beBytes 2 (pcp % 8 * 8192 + vid % 4096) ++ beBytes 2 ty

/-- Sum of the 16-bit words of a byte string, an odd last byte padded with 0. -/
def sum16 : List Byte → Nat
  | a :: b :: r => a.toNat * 256 + b.toNat + sum16 r
  | [a] => a.toNat * 256
  | [] => 0
/-- The ones' complement checksum of IP and UDP (RFC 1071). -/
def checksum (bs : List Byte) : Nat := 65535 - (if sum16 bs = 0 then 0 else (sum16 bs - 1) % 65535 + 1)

/-- UDP header: the checksum runs over the pseudo-header, the header and the data (RFC 768), and 0 is sent as 0xFFFF. An IPv4 address in its mapped
form adds the same to the sum as its own 4 bytes. -/
def udpHead (src dst sport dport : Nat) (data : List Byte) : List Byte :=
  let h := beBytes 2 sport ++ beBytes 2 dport ++ beBytes 2 (8 + data.length)
  let c := checksum (beBytes 16 src ++ beBytes 16 dst ++ beBytes 4 (8 + data.length) ++ beBytes 4 17 ++ h ++ data)
  h ++ beBytes 2 (if c = 0 then 0xFFFF else c)
/-- A UDP header whose checksum is given. -/
def udpHeadWith (sport dport len sum : Nat) : List Byte := beBytes 2 sport ++ beBytes 2 dport ++ beBytes 2 (8 + len) ++ beBytes 2 sum

/-- IPv4 header without options (R408): DSCP and ECN, length of what follows, identification, the don't-fragment bit, time to live, protocol. -/
def ip4Head (dscp ecn len id df ttl proto src dst : Nat) : List Byte :=
  let a := beBytes 1 0x45 ++ beBytes 1 (dscp % 64 * 4 + ecn % 4) ++ beBytes 2 (20 + len) ++ beBytes 2 id ++ beBytes 2 (df % 2 * 16384) ++
    beBytes 1 ttl ++ beBytes 1 proto
  let b := beBytes 4 (src % 2 ^ 32) ++ beBytes 4 (dst % 2 ^ 32)
  a ++ beBytes 2 (checksum (a ++ b)) ++ b

/-- IPv6 header without extension headers (R408): traffic class, flow label, length of what follows, next header, hop limit. -/
def ip6Head (dscp ecn flow len next hops src dst : Nat) : List Byte :=
  beBytes 4 (6 * 2 ^ 28 + (dscp % 64 * 4 + ecn % 4) * 2 ^ 20 + flow % 2 ^ 20) ++ beBytes 2 len ++ beBytes 1 next ++ beBytes 1 hops ++
  beBytes 16 src ++ beBytes 16 dst

/-! ### Messages of the stations' own protocols -/

/-- ARP reply (RFC 826): the sender's addresses, then the target's. -/
def arpBody (mac ip mac' ip' : Nat) : List Byte :=
  beBytes 2 1 ++ beBytes 2 0x0800 ++ beBytes 1 6 ++ beBytes 1 4 ++ beBytes 2 2 ++ beBytes 6 mac ++ beBytes 4 (ip % 2 ^ 32) ++ beBytes 6 mac' ++
  beBytes 4 (ip' % 2 ^ 32)

/-- An ICMPv6 message with its checksum over the pseudo-header (RFC 4443): type, then what follows the checksum. -/
def icmp6 (src dst type : Nat) (body : List Byte) : List Byte :=
  let h := beBytes 1 type ++ beBytes 1 0
  h ++ beBytes 2 (checksum (beBytes 16 src ++ beBytes 16 dst ++ beBytes 4 (4 + body.length) ++ beBytes 4 58 ++ h ++ beBytes 2 0 ++ body)) ++ body

/-- Neighbour Advertisement (RFC 4861), in answer to a station when `solicited`: flags, the address, and the port's MAC address as an option. -/
def naBody (solicited : Bool) (src dst mac : Nat) : List Byte :=
  icmp6 src dst 136 (beBytes 4 ((b2n solicited * 2 + 1) * 2 ^ 29) ++ beBytes 16 src ++ beBytes 1 2 ++ beBytes 1 1 ++ beBytes 6 mac)

/-- IGMPv3 report of one group (RFC 3376): record type 4 joins it, 3 leaves it. -/
def igmpBody (join : Bool) (group : Nat) : List Byte :=
  let r := beBytes 2 0 ++ beBytes 2 1 ++ beBytes 1 (if join then 4 else 3) ++ beBytes 1 0 ++ beBytes 2 0 ++ beBytes 4 (group % 2 ^ 32)
  beBytes 2 0x2200 ++ beBytes 2 (checksum (beBytes 2 0x2200 ++ beBytes 2 0 ++ r)) ++ r

/-- MLDv2 report of one group (RFC 3810). -/
def mldBody (join : Bool) (src dst group : Nat) : List Byte :=
  icmp6 src dst 143 (beBytes 2 0 ++ beBytes 2 1 ++ beBytes 1 (if join then 4 else 3) ++ beBytes 1 0 ++ beBytes 2 0 ++ beBytes 16 group)

/-- Pause frame of one priority (IEEE 802.1Qbb): the priorities named, and their quanta. -/
def pfcBody (prio quanta : Nat) : List Byte :=
  beBytes 2 0x0101 ++ beBytes 2 (2 ^ prio) ++ (List.range 8).flatMap fun i => beBytes 2 (if i = prio then quanta else 0)

/-- Bytes of a RoCEv2 packet after the UDP header: base header, extended headers, padded payload and check (PRESUMED, the InfiniBand specification,
log entry 11). -/
def rcLen : RcTx → Nat
  | .write _ _ _ _ _ imm first last data =>
    12 + (if first then 16 else 0) + (if last ∧ imm ≠ 0 then 4 else 0) + roundUp data.length 4 + 4
  | .ack _ _ => 20
  | .nak _ _ _ => 20
  | .readResp _ _ first last data => 12 + (if first ∨ last then 4 else 0) + roundUp data.length 4 + 4
  | .cnp _ => 32

end Sys2Proof.Machine
end

