-- ==== Sys2Proof/Machine/Thermal.lean ====
section
/-! DEFINITION. The thermal controller's operations: sensors and regions, suspects and waivers, throttling, rein and curb (R496 to
R513). -/

namespace Sys2Proof.Machine

def onTherm (s : State) (f : ThermSt → ThermSt) : State := { s with therm := f s.therm }
def getRegion (s : State) (r : Nat) : RegionSt := smGet {} s.therm.regions r
def onRegion (s : State) (r : Nat) (f : RegionSt → RegionSt) : State :=
  onTherm s fun t => { t with regions := smMod {} t.regions r f }

/-- One millisecond and one second in units of the model's clock. -/
def msUnits : Nat := 3000000
def secUnits : Nat := 3000000000

/-- Region of a sensor (Table 19.2); `none` for the coolant sensors. -/
def regionOfSensor (i : Nat) : Option Nat :=
  if i < 16 then some 0
  else if i < 280 then some (1 + (i - 16) / 66)
  else if i < 344 then some (5 + (i - 280) / 16)
  else if i < 368 then some (9 + (i - 344) / 4)
  else if i < 392 then some (15 + (i - 368))
  else none

/-- Is the sensor's hub or stack absent (R497)? -/
def sensorAbsent (s : State) (i : Nat) : Bool :=
  if 344 ≤ i ∧ i < 368 then !hubFitted s ((i - 344) / 4)
  else if 368 ≤ i ∧ i < 392 then !hubFitted s ((i - 368) / stacksPerHub s)
  else decide (394 ≤ i)

/-- Thresholds of a region in °C: rein or throttle, HARD, trip (Table 19.6). -/
def reinTemp (r : Nat) : Int :=
  if r = 0 then 95 else if r ≤ 8 then 90 else if r ≤ 14 then 95 else 85
def throttleTemp (r : Nat) : Int := if 1 ≤ r ∧ r ≤ 4 then 100 else reinTemp r
def tripTemp (r : Nat) : Int :=
  if r ≤ 4 then 110 else if r ≤ 8 then 105 else if r ≤ 14 then 110 else 100

def sensorTemp (s : State) (i : Nat) : Int := smGet 0 s.therm.temp i
def sensorEst (s : State) (i : Nat) : Int := smGet 0 s.therm.est i
def isSuspect (s : State) (i : Nat) : Bool := s.therm.suspect.contains i
def isWaived (s : State) (i : Nat) : Bool := s.therm.waived.contains i

/-- Sensors of a region that are fitted. -/
def regionSensors (s : State) (r : Nat) : List Nat :=
  (List.range 392).filter fun i => regionOfSensor i == some r && !sensorAbsent s i

/-- Temperature that a sensor counts with in its region (R504). -/
def sensorLevel (s : State) (r i : Nat) : Int :=
  if isSuspect s i then 16 * tripTemp r else if isWaived s i then sensorEst s i else sensorTemp s i

/-- Region temperature (R504). -/
def regionTemp (s : State) (r : Nat) : Int :=
  (regionSensors s r).foldl (fun m i => max m (sensorLevel s r i)) (-32768)
def regionSuspect (s : State) (r : Nat) : Bool := (regionSensors s r).any (isSuspect s)

/-! ### Neighbours (R499) -/

/-- Grid position of a sensor of the tower: row and column of the 4 × 4 grids (R497). -/
def gridPos (i : Nat) : Nat × Nat :=
  if i < 16 then (i / 4, i % 4)
  else if i < 280 then let p := (i - 16) % 66; (4 * (p / 6) / 11, 4 * (p % 6) / 6)
  else let p := (i - 280) % 16; (p / 4, p % 4)

/-- Position of a tower region in Table 01.1, counted from 0. -/
def layerPos (r : Nat) : Nat := if r = 0 then 0 else if r ≤ 4 then 2 * r else 2 * (r - 5) + 1
def posRegion (p : Nat) : Nat := if p = 0 then 0 else if p % 2 = 0 then p / 2 else 5 + p / 2

/-- 4-adjacency within the sensor's own grid. -/
def gridAdjacent (i j : Nat) : Bool :=
  let adj := fun (w : Nat) (a b : Nat) =>
    decide (a / w = b / w ∧ (a % w + 1 = b % w ∨ b % w + 1 = a % w)) || decide (a % w = b % w ∧ (a / w + 1 = b / w ∨ b / w + 1 = a / w))
  match regionOfSensor i, regionOfSensor j with
  | some a, some b =>
    a == b &&
      (if a = 0 then adj 4 i j
       else if a ≤ 4 then adj 6 ((i - 16) % 66) ((j - 16) % 66)
       else if a ≤ 8 then adj 4 ((i - 280) % 16) ((j - 280) % 16) else false)
  | _, _ => false

/-- Are the sensors neighbours? -/
def isNeighbour (s : State) (i j : Nat) : Bool :=
  if i == j || sensorAbsent s j then false
  else
    match regionOfSensor i, regionOfSensor j with
    | some a, some b =>
      if a ≤ 8 ∧ b ≤ 8 then
        gridAdjacent i j ||
          (gridPos i == gridPos j && (layerPos a + 1 == layerPos b || layerPos b + 1 == layerPos a))
      else if 9 ≤ a ∧ a ≤ 14 then a == b
      else if 15 ≤ a then decide (b = 9 + (a - 15) / stacksPerHub s) && decide ((j - 344) % 4 < 2)
      else false
    | _, _ => false

/-! ### Throttle steps (R505, R506, R511) -/

/-- Divider of a step (Table 19.7). -/
def stepDivider (st : Nat) : Nat := if st ≤ 2 then 1 else if st = 3 then 2 else 4

/-- Rail of a tower region in mV, which follows its divider (Table 19.7); regions 5 to 8 are the near-memory layers. -/
def towerRail (r st : Nat) : Nat :=
  if 5 ≤ r then (if st ≤ 2 then 750 else if st = 3 then 680 else 600) else if st ≤ 2 then 800 else if st = 3 then 700 else 620
/-- The rail that a tower region runs at. -/
def regionRail (s : State) (r : Nat) : Option Nat := if r ≤ 8 then some (towerRail r (getRegion s r).step) else none

/-- Regions adjacent to a tower region. -/
def adjacentRegions (r : Nat) : List Nat :=
  if 8 < r then []
  else (if layerPos r = 0 then [] else [posRegion (layerPos r - 1)]) ++ (if layerPos r = 8 then [] else [posRegion (layerPos r + 1)])

/-- Does the region of a compute layer run below step 0 (R506)? -/
def layerThrottled (s : State) (layer : Nat) : Bool := (getRegion s (1 + layer)).step != 0

/-- Ballast leaves the layers that are being throttled (R66). -/
def withdrawBallast (s : State) : State :=
  (List.range 256).foldl (fun s t =>
    if (getTeam s t).ballast && layerThrottled s (t / 64) then onTeam s t fun x => { x with ballast := false } else s) s

/-- Move a region to a step; a neighbour whose divider would differ by more than 2:1 is pulled in the same act (R511), and ballast leaves what is
throttled now. -/
def setThrottle (s : State) (r st : Nat) : State :=
  let s1 := onRegion s r fun x => { x with step := st }
  withdrawBallast <| (adjacentRegions r).foldl (fun s n =>
    if stepDivider (getRegion s n).step * 2 < stepDivider st then
      onTherm (onRegion s n fun x => { x with step := 3 }) fun t => { t with pullCnt := satAdd 32 t.pullCnt 1 }
    else s) s1

/-- Is any thermal action in force (R63)? -/
def thermalActive (s : State) : Bool :=
  s.therm.tripped || s.therm.regions.any fun r => r.2.step != 0 || r.2.curb != 0

/-- Allowance of a compute layer's curb in per cent (R507, R508). -/
def curbPct (lvl : Nat) : Nat := 100 - 25 * min lvl 4
def layerCurb (s : State) (layer : Nat) : Nat := curbPct (getRegion s (1 + layer)).curb

/-! ### Suspects (R501 to R503) -/

/-- TICK of an event body: 0 before READY. -/
def tickOrZero (s : State) : Nat := if s.tick.running then s.tick.count else 0

/-- Declare one sensor suspect. -/
def declareOne (s : State) (i cause : Nat) : State :=
  let reg := regionOfSensor i
  let s1 := onTherm s fun t => { t with suspect := t.suspect ++ [i], waived := t.waived.erase i,
                                        suspectCnt := satAdd 32 t.suspectCnt 1 }
  let est := match reg with | some _ => wrapN 16 (sensorEst s i) | none => 0
  let s2 := sendEvent s1 stSensorSuspect 0x0009
    (leBytes 2 i ++ leBytes 1 cause ++ leBytes 1 (reg.getD 0xFF) ++ leBytes 2 (wrapN 16 (sensorTemp s i)) ++ leBytes 2 est ++
      leBytes 8 (tickOrZero s))
  match reg with
  | some r => setThrottle s2 r 4
  | none => s2

/-- Declarations that can wait at most: one for each sensor, and one for each sensor beside each other (in all below 3,000: 16 or fewer beside a
near-memory sensor, 6 beside any other of the tower, 3 of its hub beside a hub's, and 2 beside a stack's; R499). -/
def declareFuel : Nat := 4000

/-- Declare sensors suspect; a waived neighbour of one that becomes suspect loses its waiver, with CAUSE 5 (R503). The Nat bounds the declarations:
`declareFuel` is enough for all. -/
def declareAll : Nat → State → List (Nat × Nat) → State
  | 0, s, _ => s
  | _, s, [] => s
  | f + 1, s, (i, cause) :: rest =>
    if isSuspect s i then declareAll f s rest
    else
      let s1 := declareOne s i cause
      declareAll f s1 (rest ++ ((s1.therm.waived.filter fun w => isNeighbour s1 w i).map fun w => (w, 5)))

/-! ### Rein and curb (R507, R508) -/

/-- A coolant condition (R510). -/
def coolantCond (s : State) : Bool :=
  s.therm.coolantHot || s.therm.flowLow || isSuspect s 392 || isSuspect s 393

/-- The rein condition of a compute region: its lowest CAUSE code. -/
def reinCond (s : State) (r : Nat) : Option Nat :=
  if 16 * 90 ≤ regionTemp s r ∧ !regionSuspect s r then some 0
  else if regionSuspect s r then
    (if (regionSensors s r).any (fun i => !isSuspect s i && decide (16 * 90 ≤ sensorLevel s r i)) then some 0 else some 1)
  else if coolantCond s then some 2
  else none

/-- A REIN event; GRACE_MS is the interval in force (Table 19.8). -/
def reinEvent (s : State) (r level cause : Nat) : State :=
  sendEvent s stOk 0x0007 (leBytes 1 r ++ leBytes 1 level ++ leBytes 2 (wrapN 16 (regionTemp s r)) ++ leBytes 1 cause ++ leBytes 1 0 ++
    leBytes 2 (getRegion s r).graceMs ++ leBytes 8 (tickOrZero s))

/-- Begin the reins whose conditions have begun. -/
def beginReins (s : State) : State :=
  [1, 2, 3, 4].foldl (fun s r =>
    if (getRegion s r).rein then s
    else
      match reinCond s r with
      | none => s
      | some c =>
        let s1 := onTherm (onRegion s r fun x =>
            { x with rein := true, cause := c, graceMs := cfgGraceMs s, graceEnd := s.now + cfgGraceMs s * msUnits, imposed := false })
          fun t => { t with reinCnt := satAdd 32 t.reinCnt 1 }
        reinEvent s1 r 1 c) s

/-- Change the curb level due and send its CURB event; the allowance applies from the next boundary. -/
def setCurb (s : State) (r lvl : Nat) : State :=
  let old := (getRegion s r).curbDue
  if lvl = old then s
  else
    let s1 := onTherm (onRegion s r fun x => { x with curbDue := lvl }) fun t => { t with curbCnt := satAdd 32 t.curbCnt 1 }
    sendEvent s1 stOk 0x0008 (leBytes 1 r ++ leBytes 1 (curbPct lvl) ++ leBytes 1 (curbPct old) ++ leBytes 5 0 ++
      leBytes 8 (if s.tick.running then s.tick.count + 1 else 0))

/-- End the rein of a region. -/
def endRein (s : State) (r : Nat) : State :=
  reinEvent (onRegion s r fun x => { x with rein := false, imposed := false }) r 0 (getRegion s r).cause

/-- The end of a grace interval. -/
def graceEnd (s : State) (r : Nat) : State :=
  let x := getRegion s r
  let again := fun (s : State) => onRegion s r fun x => { x with graceMs := cfgGraceMs s, graceEnd := s.now + cfgGraceMs s * msUnits }
  match reinCond s r with
  | some _ => again (onRegion (setCurb s r (min 4 (x.curbDue + 1))) r fun x => { x with imposed := true })
  | none =>
    if regionTemp s r ≤ 16 * 85 then
      (if x.imposed ∧ x.curbDue ≠ 0 then
        let s1 := setCurb s r (x.curbDue - 1)
        if x.curbDue = 1 then endRein s1 r else again s1
      else endRein s r)
    else again s

/-- Curb levels apply at a boundary (R508). -/
def applyCurbs (s : State) : State :=
  [1, 2, 3, 4].foldl (fun s r => if (getRegion s r).curb = (getRegion s r).curbDue then s
    else onRegion s r fun x => { x with curb := x.curbDue }) s

/-! ### Trip and window (R512, R513) -/

/-- Levels the window looks at: healthy readings and waived sensors' estimates of the bridle region. -/
def bridleLevels (s : State) : List Int :=
  ((regionSensors s 0).filter fun i => !isSuspect s i).map (sensorLevel s 0)

/-- Is the bridle region within `[lo, hi]` °C? -/
def bridleWithin (s : State) (lo hi : Int) : Bool :=
  decide (regionTemp s 0 ≤ 16 * hi) && !(bridleLevels s).isEmpty && (bridleLevels s).all fun t => decide (16 * lo ≤ t)

/-- Re-evaluate the window: it closes at once, and the time for reopening is kept (R513). -/
def evalWindow (s : State) : State :=
  let inside := bridleWithin s 10 80
  let ok := bridleWithin s 12 78
  onTherm s fun t =>
    { t with window := match t.window with | none => some inside | some w => some (w && inside),
             winOkSince := if ok then (match t.winOkSince with | some x => some x | none => some s.now) else none }

/-- Keep the time since a condition holds, per sensor. -/
def sinceUpd (tbl : List (Nat × Nat)) (i now : Nat) (cond : Bool) : List (Nat × Nat) :=
  if cond then (match smGet? tbl i with | some _ => tbl | none => smIns tbl i now) else smDel tbl i

/-- Re-evaluate the trip conditions of R512 and the cooling of a tripped part. -/
def evalTrip (s : State) : State :=
  let hot := (List.range 392).foldl (fun t i =>
    match regionOfSensor i with
    | some r => if sensorAbsent s i then t
        else sinceUpd t i s.now (!isSuspect s i && decide (16 * tripTemp r ≤ sensorLevel s r i))
    | none => t) s.therm.hotSince
  let eh := (List.range 392).foldl (fun t i =>
    match regionOfSensor i with
    | some r => if sensorAbsent s i then t else sinceUpd t i s.now (decide (16 * tripTemp r ≤ sensorEst s i))
    | none => t) s.therm.estHotSince
  let cold := (List.range 392).all fun i =>
    match regionOfSensor i with
    | some r => sensorAbsent s i || (smGet? s.therm.temp i).any fun v => decide (v ≤ 16 * (reinTemp r - 20))
    | none => true
  onTherm s fun t => { t with hotSince := hot, estHotSince := eh,
                              coldSince := if cold then (match t.coldSince with | some x => some x | none => some s.now) else none }

/-- Is a trip due (R512)? -/
def tripDue (s : State) : Bool :=
  s.therm.hotSince.any (fun p => decide (p.2 + 300000 ≤ s.now)) || s.therm.estHotSince.any fun p => decide (p.2 + 10 * msUnits ≤ s.now)

/-- Since when each region is cool enough for a release (R506). -/
def evalCool (s : State) : State :=
  (List.range 39).foldl (fun s r =>
    if (regionSensors s r).isEmpty then s
    else
      let cool := decide (regionTemp s r ≤ 16 * (throttleTemp r - 5))
      onRegion s r fun x => { x with coolSince := if cool then (match x.coolSince with | some v => some v | none => some s.now) else none }) s

/-- Re-evaluate what readings and estimates decide. -/
def evalTherm (s : State) : State := beginReins (evalWindow (evalTrip (evalCool s)))

/-! ### Temperature pairs (R511) -/

/-- Neighbours whose pair limit deepens the region: it is 18 °C above the neighbour, and on until the difference of that pair is 16 °C or less. -/
def hotPairs (s : State) (r : Nat) : List Nat :=
  (adjacentRegions r).filter fun n =>
    decide ((if (getRegion s r).pairing.contains n then 16 * 16 else 16 * 18) < regionTemp s r - regionTemp s n)
/-- Does the pair limit of a neighbour deepen the region? -/
def pairHot (s : State) (r : Nat) : Bool := !(hotPairs s r).isEmpty

/-- Does an adjacent pair forbid the release of a region (R511)? -/
def pairHolds (s : State) (r : Nat) : Bool :=
  (adjacentRegions r).any fun n => decide (16 * 16 < regionTemp s r - regionTemp s n) ||
    decide (stepDivider ((getRegion s r).step - 1) * 2 < stepDivider (getRegion s n).step)

/-- Requirement of Table 19.1 in 0.01 L/min against an estimate. -/
def flowShort (s : State) (flow : Nat) : Bool := decide (flow < 250) || decide (flow * 3400 < 600 * cfgEnvelope s)

/-- The THERM_READ word of a sensor (Table 19.3). -/
def sensorWord (s : State) (i : Nat) : Nat :=
  let st := if sensorAbsent s i then 3 else if isSuspect s i then 1 else if isWaived s i then 2 else 0
  let d := if 392 ≤ i then 0 else max (-2047) (min 2047 ((sensorEst s i - sensorTemp s i) / 4))
  wrapN 16 (sensorTemp s i) + wrapN 12 d * 2 ^ 16 + st * 2 ^ 28

end Sys2Proof.Machine
end

