-- ==== Sys2Proof/Machine/Tick.lean ====
section
/-! DEFINITION. Tick and ration units: lengths and usable time (R38 to R40), the grid and its sources (R44 to R48), the shaping law and the pool
(R56 to R61), counted run time (R52), the phase ledger's attribution (R339), marks and quarantine (R54, R55), the tick record (R69). -/

namespace Sys2Proof.Machine

/-- One µs in units of the model's clock. -/
def usUnits : Nat := 3000

/-- One ck at 1.5 GHz in units of the model's clock (R7). -/
def ckUnits : Nat := 2

/-! ### Teams -/

def getRel (s : State) (t : Nat) : TeamRel := smGet {} s.rel.teams t
def onRel (s : State) (t : Nat) (f : TeamRel → TeamRel) : State :=
  { s with rel := { s.rel with teams := smMod {} s.rel.teams t f } }
def onRelSt (s : State) (f : RelSt → RelSt) : State := { s with rel := f s.rel }
def teamDegraded (s : State) (t : Nat) : Bool := (getRel s t).degraded
def teamLost (s : State) (t : Nat) : Bool := (getRel s t).lost
/-- Teams of a 256-bit mask. -/
def maskTeams (m : Nat) : List Nat := (List.range 256).filter fun t => m.testBit t
/-- Do two tasks share a team? -/
def shareTeam (a b : Nat) : Bool := a &&& b != 0
/-- Teams of a compute layer as a mask. -/
def layerMask (n : Nat) : Nat := (2 ^ 64 - 1) * 2 ^ (64 * n)

/-! ### Task run time (R52) -/

/-- Is a slot of the team stopped, being restored, waiting for its host core or replaying (R475)? -/
def teamReplaying (s : State) (t : Nat) : Bool :=
  s.tower.slots.any fun p => p.1 / 8 == t && (p.2.mode == 1 || p.2.mode == 2 || p.2.mode == 4)

/-- Is time excluded from the task's counted run time now (R52, R475)? -/
def taskExcluded (s : State) (k : Task) : Bool :=
  (maskTeams k.teams).any fun t => s.tick.pacedTeams.contains t || layerThrottled s (t / 64) || teamReplaying s t

/-- Start or end a stretch of excluded time. -/
def exclStep (s : State) (k : Task) : Task :=
  if !k.running then k
  else
    match k.exclFrom, taskExcluded s k with
    | none, true => { k with exclFrom := some s.now }
    | some t, false => { k with excl := k.excl + (s.now - t), exclFrom := none }
    | _, _ => k

/-- Counted run time in ck (R52). -/
def countedCk (s : State) (k : Task) : Nat :=
  if !k.running then 0
  else
    let ex := k.excl + (match k.exclFrom with | some t => s.now - t | none => 0)
    (s.now - k.startAt - ex) / 2

/-! ### The phase ledger's attribution (R339, R340) -/

/-- Index of a phase in Table 12.5. -/
def actPhase : Act → Nat
  | .work _ p => p
  | .ballast => 7
  | .idle => 8
  | .replay _ => 9

/-- Priority of an activity (R339). -/
def actRank : Act → Nat
  | .replay _ => 3
  | .work _ _ => 2
  | .ballast => 1
  | .idle => 0

/-- Add whole microseconds to a phase of an open step; time that has no open step is lost. -/
def bookTime (s : State) (step phase n : Nat) : State :=
  if n = 0 then s
  else if s.watch.open_.any fun o => o.step == step then
    onWatch s fun w => { w with open_ := w.open_.map fun o =>
      if o.step = step then
        { o with phases := smMod 0 o.phases phase (· + n), seen := true,
                 firstTick := if o.seen then o.firstTick else s.tick.count, lastTick := s.tick.count }
      else o }
  else onTick s fun k => { k with lostTime := true }

/-- What a team's time goes to now. With the ballast planner paced no ballast runs (R57; log entry 179). -/
def teamAct (s : State) (t : Nat) : Act :=
  let task := s.tick.tasks.find? fun k => k.running && k.teams.testBit t
  if teamReplaying s t then .replay ((task.map (·.stepRes)).getD s.tick.curStep)
  else
    match task with
    | some k => .work k.stepRes k.phase
    | none => if (getTeam s t).ballast && !s.mp.inWindow && !s.tick.pacedTeams.contains 400 then .ballast else .idle

/-- What a team does, and what of the tick is attributed. -/
def lastAct (s : State) (t : Nat) : ActRec := smGet { since := s.tick.acc.openedAt, act := .idle, top := .idle } s.tick.acts t

def actStep (s : State) : Act → Nat
  | .work n _ => n
  | .replay n => n
  | _ => s.tick.curStep

/-- Whole microseconds of the open tick that have passed. -/
def usOfTick (s : State) : Nat := (s.now - s.tick.acc.openedAt) / usUnits

/-- Attribute a team's whole microseconds up to now: the first of them to what had the highest priority in it, the rest to what the team has been
doing since (R339). A replay's time is kept for REPLAY_US as well. -/
def bookTeam (s : State) (t : Nat) : State :=
  let a := lastAct s t
  let n := usOfTick s - a.done
  let s1 := if n = 0 then s else bookTime (bookTime s (actStep s a.top) (actPhase a.top) 1) (actStep s a.act) (actPhase a.act) (n - 1)
  match a.act with
  | .replay _ => onAcc s1 fun c => { c with replay := smMod 0 c.replay t (· + (s.now - a.since)) }
  | _ => s1

/-- Follow a change of what a team does. -/
def followTeam (s : State) (t : Nat) : State :=
  let a := lastAct s t
  let act := teamAct s t
  if a.act = act then s
  else
    let whole := (s.now - s.tick.acc.openedAt) % usUnits == 0
    let part := if usOfTick s = a.done then a.top else a.act
    let top := if whole || actRank part < actRank act then act else part
    onTick (bookTeam s t) fun k => { k with acts := smIns k.acts t { since := s.now, act := act, done := usOfTick s, top := top } }

/-- After a change of tasks, pacing, throttling or replay: follow it in the ledger and in the counted run times, and keep the thermal flag of
the tick (R63). -/
def settle (s : State) : State :=
  if !s.tick.running then s
  else
    let s1 := (List.range 256).foldl followTeam s
    let s2 := onTick s1 fun k => { k with tasks := k.tasks.map (exclStep s1) }
    onAcc s2 fun a => { a with thermal := a.thermal || thermalActive s }

/-! ### Lengths (R38 to R40, Table 02.1) -/

/-- Usable time in ck of a tick of a length, under the active margin. -/
def usableOf (s : State) (len : Nat) : Nat := (len - len * cfgReplayPct s / 100 - 3 * usUnits) / 2
/-- Usable time of the tick interval in force (R49). -/
def usableInterval (s : State) : Nat := cfgInterval s * (100 - cfgReplayPct s) * 15 - 4500
/-- The replay margin in ck (R52). -/
def marginCk (s : State) : Nat := cfgInterval s * cfgReplayPct s * 15
/-- Start of the open tick's replay margin. -/
def marginStart (s : State) : Nat := s.tick.acc.openedAt + s.tick.curLen - s.tick.curLen * cfgReplayPct s / 100

/-! ### The grid (R44 to R48) -/

/-- Time since the last grid point, under the configuration in force: the FREE grid until the source has locked. -/
def sinceGrid (s : State) : Nat :=
  let iv : Int := (3000 * cfgInterval s : Nat)
  let r := if cfgSource s ≠ 0 ∧ s.tick.everLocked then s.tick.srcRef.getD (s.tick.readyAt, 0) else (s.tick.readyAt, 0)
  (((s.now : Int) - r.1 + 3 * r.2 - 3 * cfgPhase s) % iv).toNat

/-- Signed difference of now from the grid. -/
def gridOffset (s : State) : Int :=
  let iv := 3000 * cfgInterval s
  if 2 * sinceGrid s ≤ iv then sinceGrid s else (sinceGrid s : Int) - iv

/-- Time to the first grid point at least 250 µs later (R46, R48). -/
def bridgeLen (s : State) : Nat :=
  let iv := 3000 * cfgInterval s
  let d := (iv - sinceGrid s) % iv
  let m := 250 * usUnits
  if m ≤ d then d else d + ceilDiv (m - d) iv * iv

def setFlag (s : State) (i : Nat) : State := onAcc s fun a => { a with flags := a.flags ||| 2 ^ i }

/-- Change SYNC_STATE, with its TICK_SYNC event (R46, Table 03.8). -/
def setSync (s : State) (new : Nat) : State :=
  if s.tick.syncState = new then s
  else
    let s1 := onTick s fun k => { k with syncState := new }
    sendEvent s1 stOk 0x0002 (leBytes 1 new ++ leBytes 1 s.tick.syncState ++ leBytes 2 0 ++ leBytes 4 (wrapN 32 s.tick.offsetNs) ++
      leBytes 8 s.tick.count)

/-- The comparison of a boundary with the grid (R46, R47): whether a bridge tick follows, and the slew of the tick that opens. LOCKED shows at the
boundary that finds the first lock, and at one whose difference is bridged (DESIGN CHOICE, log entry 157). OFFSET_NS is the difference in whole ns,
truncated toward 0 (DESIGN CHOICE, log entry 182). -/
def syncCheck (s : State) : State × Bool × Int :=
  if cfgSource s = 0 then (s, false, 0)
  else
    let lock := s.tick.srcRef.isSome && !s.tick.everLocked
    let s0 := if lock then onTick s fun k => { k with everLocked := true, fresh := false } else s
    let off := gridOffset s0
    let s1 := if s0.tick.everLocked then onTick s0 fun k => { k with offsetNs := Int.tdiv off 3 } else s0
    if lock then (setSync s1 1, true, 0)
    else if !s1.tick.everLocked then (s1, false, 0)
    else if s1.tick.holdDue then
      (setFlag (setSync (onTick s1 fun k => { k with holdDue := false, fresh := false }) 2) 5, false, 0)
    else if s1.tick.syncState = 2 && !s1.tick.fresh then (setFlag s1 5, false, 0)
    else
      let iv : Int := (3000 * cfgInterval s : Nat)
      let s2 := onTick s1 fun k => { k with fresh := false }
      if iv < 10 * off.natAbs then (setSync s2 1, true, 0)
      else if 300 ≤ off.natAbs then
        let lim := iv / 1000
        (setFlag (setSync s2 3) 4, false, -(max (-lim) (min lim off)))
      else (setSync s2 1, false, 0)

/-- What a committed change of interval, phase or source does to the lock (R46, R48): whether the tick that opens is a bridge tick. With a new
source TICK.OFFSET_NS reads 0 until a difference has been taken (DESIGN CHOICE, log entry 174). -/
def reconfigGrid (s : State) (old : Nat × Nat × Nat) : State × Bool :=
  if old = (cfgInterval s, cfgPhase s, cfgSource s) then (s, false)
  else if old.2.2 = cfgSource s then (s, true)
  else
    let s1 := onTick s fun k => { k with srcRef := none, everLocked := false, fresh := false, holdDue := false, offsetNs := 0 }
    (setSync s1 0, true)

/-- A valid time of the source (R46, R47). -/
def sourceTime (s : State) (srcNs : Nat) : State :=
  onTick s fun k => { k with srcRef := some (s.now, srcNs), fresh := true }

/-! ### Rations (R56 to R64) -/

/-- Units of a watt in the target. -/
def wUnits : Nat := 30000000
/-- Tokens of 10 µJ that a power in target units gives over a time. -/
def tokensOf (u len : Nat) : Nat := u * len / 900000000000
/-- Ceiling C of the gait in target units (R59). -/
def gaitCeil (s : State) : Nat := (3 * cfgFloor s + (cfgEnvelope s - cfgFloor s) * cfgGait s) * (wUnits / 3)
/-- ΔT in target units (R61). -/
def deltaT (s : State) : Nat := 3 * cfgEnvelope s * cfgRamp s * cfgInterval s
/-- U(k) in W (R61). -/
def leastDraw (s : State) : Nat := ceilDiv (s.tick.lastUncontrolled * 30000) (max 1 s.tick.lastLen)

/-- The target of the tick that opens (R61, R64): T(k), and whether the tick carries ENVELOPE_TRANSIT. The idle draw that a reset ramps down to is U(k)
(DESIGN CHOICE, log entry 158). -/
def nextTarget (s : State) (demandW : Nat) : Nat × Bool :=
  let u := leastDraw s * wUnits
  let lo := max (cfgFloor s * wUnits) u
  let hi := max lo (gaitCeil s)
  let want := if s.mp.resetting then u else min hi (max lo (demandW * wUnits))
  let t := min (s.tick.targetU + deltaT s) (max (s.tick.targetU - deltaT s) want)
  let t' := max t u
  (t', decide (t < u) || decide (t' < lo) || decide (hi < t'))

/-- Number of a grantee, for one that the part has. -/
def granteeId (s : State) : Grantee → Option Nat
  | .team t => if t < 256 then some t else none
  | .hub k => if hubFitted s k then some (256 + k) else none
  | .stack n => if hubFitted s (n / stacksPerHub s) then some (300 + n) else none
  | .ballast => some ballastId
where
  /-- The ballast planner's number. -/
  ballastId : Nat := 400

/-- Planned demands by the number of the grantee, of those the part has. -/
def demandsOf (s : State) (m : Meter) : List (Nat × Nat) :=
  m.demands.foldl (fun l d => match granteeId s d.1 with | some i => smMod 0 l i (· + d.2) | none => l) []

/-- Divide `n` tokens in proportion to demands, in whole tokens that sum to `n`: each share ends where the running sum of the demands does. With no
demand they are the ballast planner's (R56, log entry 145). -/
def shareOut (n : Nat) (ds : List (Nat × Nat)) : List (Nat × Nat) :=
  let total := (ds.map (·.2)).sum
  if total = 0 then [(granteeId.ballastId, n)]
  else
    (ds.foldl (fun (r : Nat × List (Nat × Nat)) d =>
      (r.1 + d.2, r.2 ++ [(d.1, n * (r.1 + d.2) / total - n * r.1 / total)])) (0, [])).2

/-- What a grantee's meter has deducted in the tick: never more than its grants (R57). -/
def meterOf (s : State) (m : Meter) (id : Nat) : Nat :=
  let said := ((m.used.filter fun u => granteeId s u.1 == some id).map (·.2)).sum
  max (smGet 0 s.tick.acc.used id) (min said (smGet 0 s.tick.acc.grants id))

/-- CONSUMED of the tick: every grantee's deductions (R58). -/
def consumedOf (s : State) (m : Meter) : Nat :=
  min ((s.tick.acc.grants.map fun g => meterOf s m g.1).sum) (s.tick.acc.first + s.tick.acc.floatDrawn)

/-- Grants of the tick that opens: pool, first grants and their division, target, least draw (R56, R61). The pool and 90 % of it are rounded down
(DESIGN CHOICE, log entry 145). -/
def openRations (s : State) (m : Meter) : State :=
  let r := nextTarget s m.demandW
  let u := leastDraw s
  let pool := tokensOf (r.1 - u * wUnits) s.tick.curLen
  let s1 := onTick s fun k =>
    { k with targetU := r.1, minW := u, pacedTeams := [],
             acc := { k.acc with pool := pool, first := pool * 9 / 10, floatDrawn := 0, demandW := m.demandW, used := [],
                                 grants := shareOut (pool * 9 / 10) (demandsOf s m) } }
  if r.2 then setFlag s1 2 else s1

/-- A grantee whose grant is spent draws 1,000 tokens of the float, or what is left of it; with the float spent it is paced until the boundary
(R57). Its meter has deducted all that it was granted. A last draw of less than 1,000 is a DESIGN CHOICE (log entry 174). -/
def exhaustGrant (s : State) (id : Nat) : State :=
  let left := s.tick.acc.pool - s.tick.acc.first - s.tick.acc.floatDrawn
  let spent := fun (a : TickAcc) => { a with used := smIns a.used id (smGet 0 a.grants id) }
  if s.tick.pacedTeams.contains id then s
  else if left ≠ 0 then
    onAcc s fun a => { spent a with floatDrawn := a.floatDrawn + min 1000 left, grants := smIns a.grants id (smGet 0 a.grants id + min 1000 left) }
  else settle (onTick s fun k => { k with paceCnt := satAdd 32 k.paceCnt 1, pacedTeams := k.pacedTeams ++ [id], acc := spent k.acc })

/-! ### Ballast (R65, R66) -/

/-- May ballast run on a team: no task, carry-over, replay or scan, and its layer is not throttled (R42, R65, R66)? -/
def ballastFree (s : State) (t : Nat) : Bool :=
  !(s.tick.tasks.any fun k => k.admitted && k.teams.testBit t) && !teamReplaying s t && !layerThrottled s (t / 64) && !teamLost s t &&
  !s.tick.acc.scanning.testBit t

/-- Teams in the planner's order: one of each layer in turn, so that ballast is spread evenly; C0 first, and in a layer the lowest team first (DESIGN CHOICE,
log entry 182). -/
def acrossLayers (ts : List Nat) : List Nat :=
  (List.range 64).flatMap fun j => (List.range 4).filterMap fun n => (ts.filter fun t => t / 64 == n)[j]?

/-- Take teams until their ballast makes up the need, in the model's units of power: the teams, and what is still missing. -/
def takeBallast : Nat → List Nat → List Nat × Nat
  | need, [] => ([], need)
  | 0, _ => ([], 0)
  | need + 1, t :: ts =>
    let r := takeBallast (need + 1 - Config.ballastWatts t * wUnits) ts
    (t :: r.1, r.2)

/-- The plan of ballast: first the teams that are idle for the whole tick, then those that finished early. A plan that cannot make the draw reach the
target flags its tick, once (R66). A plan made again within the tick still takes the demand D(k) of the boundary as the draw of the work (DESIGN CHOICE,
log entry 182). -/
def planBallast (s : State) : State :=
  let free := (List.range 256).filter (ballastFree s)
  let whole := free.filter fun t => !s.tick.acc.worked.testBit t
  let rest := free.filter fun t => s.tick.acc.worked.testBit t
  let plan := takeBallast (s.tick.targetU - s.tick.acc.demandW * wUnits) (acrossLayers whole ++ acrossLayers rest)
  let s1 := (List.range 256).foldl (fun s t =>
    let b := plan.1.contains t
    if (getTeam s t).ballast = b then s else onTeam s t fun x => { x with ballast := b }) s
  if plan.2 = 0 ∨ bit s1.tick.acc.flags 3 then s1 else setFlag (onTick s1 fun k => { k with shortCnt := satAdd 32 k.shortCnt 1 }) 3

/-! ### Marks and quarantine (R54, R55) -/

/-- Give a team a mark for a tick, at most one. -/
def markTeam (s : State) (t tick : Nat) : State :=
  onTick s fun k => { k with marks := smMod [] k.marks t fun l => if l.contains tick then l else tick :: l.filter fun x => decide (tick ≤ x + 16) }

/-- Marks of a team in the 16 ticks up to the one just closed. -/
def windowMarks (s : State) (t : Nat) : Nat :=
  ((smGet [] s.tick.marks t).filter fun x => decide (s.tick.count ≤ x + 16 ∧ x < s.tick.count)).length

def isQuarantined (s : State) (t : Nat) : Bool := s.tick.quarantine.testBit t

/-- Quarantine a team (R54, steps 1 to 4). -/
def quarantineTeam (s : State) (t : Nat) : State :=
  if isQuarantined s t then s
  else
    let waiting := s.tick.tasks.filter fun k => !k.admitted && k.teams.testBit t
    let s1 := onTick s fun k => { k with quarantine := k.quarantine + 2 ^ t,
                                         tasks := k.tasks.filter fun k => k.admitted || !k.teams.testBit t }
    let s2 := waiting.foldl (fun s k => finalReply s k.sid stTeamQuarantined t []) s1
    sendEvent s2 stTeamQuarantined 0x0003 (leBytes 2 t ++ leBytes 1 (min 255 (windowMarks s t)) ++ leBytes 1 0 ++ leBytes 4 waiting.length)

/-- Is a quarantine due for the team at this boundary? -/
def quarantineDue (s : State) (t : Nat) : Bool := !isQuarantined s t && (decide (4 ≤ windowMarks s t) || teamLost s t)

/-- End the quarantines that host software has ended (R55): from this boundary, with empty windows. -/
def endQuarantines (s : State) : State :=
  (maskTeams s.tick.quarClr).foldl (fun s t =>
    if isQuarantined s t then onTick s fun k => { k with quarantine := k.quarantine - 2 ^ t, marks := smDel k.marks t } else s)
    (onTick s fun k => { k with quarClr := 0 })

/-- Step 3 of R41. -/
def updateQuarantine (s : State) : State :=
  let s1 := endQuarantines s
  ((List.range 256).filter (quarantineDue s1)).foldl quarantineTeam s1

/-! ### The tick record (R69, Table 02.11) -/

/-- The record of the tick that ends. TARGET_W shows T(k) in whole watts and REPLAY_US whole microseconds, rounded down (DESIGN CHOICE, log entry 159). -/
def tickRecord (s : State) (m : Meter) (carry : Nat) : List Byte :=
  let a := s.tick.acc
  let granted := a.first + a.floatDrawn
  let consumed := consumedOf s m
  let body := leBytes 8 s.tick.count ++ leBytes 8 s.tick.curStep ++ leBytes 4 a.flags ++ leBytes 2 (s.tick.targetU / wUnits) ++
    leBytes 2 m.drawW ++ leBytes 4 a.pool ++ leBytes 4 granted ++ leBytes 4 consumed ++ leBytes 4 (a.pool - consumed) ++
    leBytes 4 (min (meterOf s m granteeId.ballastId) consumed) ++ leBytes 4 m.uncontrolled ++ leBytes 2 a.admitted ++ leBytes 2 a.deferred ++
    leBytes 2 a.overruns ++ leBytes 2 carry ++ leBytes 2 (a.replay.foldl (fun x p => max x (p.2 / usUnits)) 0) ++ leBytes 2 0
  body ++ leBytes 4 (crc32c body)

/-- Write a record into a ring; false when its slot is unmapped, protected, or cannot be written. -/
def ringWrite (s : State) (base : Nat) (bs : List Byte) : State × Bool :=
  match devAccessFault s true base bs.length with
  | some _ => (s, false)
  | none =>
    match memWrite s base bs with
    | (s1, .ok _) => (s1, true)
    | (s1, .error _) => (s1, false)

/-- Write a record into the tick-record ring; false when its slot is unmapped or cannot be written (R69). -/
def tickRingWrite (s : State) (base : Nat) (bs : List Byte) : State × Bool :=
  match unmappedAt s base bs.length with
  | some _ => (s, false)
  | none => match memWrite s base bs with | (s1, .ok _) => (s1, true) | (s1, .error _) => (s1, false)

/-- Write the tick record, or count it as dropped (R69). -/
def writeTickRecord (s : State) (m : Meter) (carry : Nat) : State :=
  let log := cfgTickLog s
  if log.1 = 0 ∨ log.2 = 0 then s
  else
    let r := tickRingWrite s (log.1 + s.tick.count % log.2 * 64) (tickRecord s m carry)
    if r.2 then r.1 else onTick r.1 fun k => { k with recDrop := satAdd 32 k.recDrop 1 }

/-- The excursion flags of a tick whose measured draw leaves ±3 % of E of T(k) (R62, R63). -/
def drawFlags (s : State) (m : Meter) : State :=
  let d := ((m.drawW * wUnits : Nat) : Int) - s.tick.targetU
  if d.natAbs * 100 ≤ 3 * cfgEnvelope s * wUnits then s
  else setFlag s (if s.tick.acc.thermal then 1 else 8)

/-- Add the tick to its 100 ms window (R63, R66). -/
def windowAdd (s : State) (m : Meter) (len : Nat) : State :=
  let a := s.tick.acc
  onTick s fun k => { k with win := { k.win with
    len := k.win.len + len, targetSum := k.win.targetSum + k.targetU * len, drawSum := k.win.drawSum + m.drawW * len,
    breach := k.win.breach + b2n (bit a.flags 1), short := k.win.short + b2n (bit a.flags 3),
    breachTick := if k.win.breach = 0 ∧ bit a.flags 1 then k.count else k.win.breachTick,
    shortTick := if k.win.short = 0 ∧ bit a.flags 3 then k.count else k.win.shortTick } }

/-- The events of a window that has ended (Table 03.10): each is of its first flagged tick, in which its condition arose (Table 03.5, DEDUCED). The
means are rounded down to whole watts (DESIGN CHOICE, log entry 159). -/
def windowEvents (s : State) : State :=
  match s.tick.winDone with
  | none => s
  | some w =>
    let body := fun n => leBytes 2 (w.targetSum / (max 1 w.len * wUnits)) ++ leBytes 2 (w.drawSum / max 1 w.len) ++ leBytes 2 n ++ leBytes 2 0
    let s0 := onTick s fun k => { k with winDone := none }
    let s1 := if w.breach = 0 then s0 else sendEventOf s0 w.breachTick stOk 0x0004 (body w.breach)
    if w.short = 0 then s1 else sendEventOf s1 w.shortTick stOk 0x0005 (body w.short)

/-- The window of the tick that opens; the window before it, if it has ended, is done. -/
def windowOpen (s : State) : State :=
  let i := (s.now - s.tick.readyAt) / (100 * msUnits)
  if i = s.tick.win.index then s
  else onTick (windowEvents s) fun k => { k with winDone := some k.win, win := { index := i } }

end Sys2Proof.Machine
end

