-- ==== Sys2Proof/Machine/Eth.lean ====
section
/-! DEFINITION. Ports and the sending side of the pack protocol: lanes and modes (R401), counters, messages (R419), streams with their credit
(R416 to R424). -/

namespace Sys2Proof.Machine

def onEth (s : State) (f : EthSt → EthSt) : State := { s with eth := f s.eth }
/-- Device-wide number of a port (R403). -/
def portNo (hub port : Nat) : Nat := hub * 16 + port
def getPort (s : State) (n : Nat) : PortSt := smGet {} s.eth.ports n
def onPort (s : State) (n : Nat) (f : PortSt → PortSt) : State := onEth s fun e => { e with ports := smMod {} e.ports n f }
def getHubEth (s : State) (k : Nat) : HubEth := smGet {} s.eth.hubs k
def onHubEth (s : State) (k : Nat) (f : HubEth → HubEth) : State := onEth s fun e => { e with hubs := smMod {} e.hubs k f }
def inc32 (n : Nat) : Nat := satAdd 32 n 1
def inc64 (n : Nat) : Nat := satAdd 64 n 1

/-! ### Lanes and addresses (R401, Table 15.11) -/

/-- Lanes that LANEMAP and LANE_EN map to a port. -/
def portLanes (s : State) (hub port : Nat) : Nat :=
  ((List.range 16).filter fun l =>
    cfgF s (baseEth + 0x10 * hub) (4 * l) 4 == port && cfgF s (baseEth + 0x10 * hub + 8) (32 + l) 1 == 1).length
def portMapped (s : State) (hub port : Nat) : Bool := hubFitted s hub && decide (port < 16) && decide (0 < portLanes s hub port)
def portKr (s : State) (hub port : Nat) : Bool := cfgF s (baseEth + 0x10 * hub + 8) port 1 == 1
def portPtp (s : State) (hub port : Nat) : Bool := cfgF s (baseEth + 0x10 * hub + 8) (16 + port) 1 == 1
/-- MODE code of Table 15.1. -/
def portMode (lanes : Nat) : Nat := if lanes = 8 then 4 else if lanes = 4 then 3 else if lanes = 2 then 2 else if lanes = 1 then 1 else 0
def portBase (hub port : Nat) : Nat := baseEth + 0x1000 + 0x400 * hub + 0x40 * port
def portGw (s : State) (hub port : Nat) : Nat := cfgF s (portBase hub port + 8) 0 48
def portV4 (s : State) (hub port : Nat) : Nat := cfgF s (portBase hub port + 0x10) 0 32
def portV6 (s : State) (hub port : Nat) : Nat :=
  cfgF s (portBase hub port + 0x18) 0 64 * 2 ^ 64 + cfgF s (portBase hub port + 0x20) 0 64
def portVid (s : State) (hub port : Nat) : Nat := cfgF s (portBase hub port + 8) 48 12
/-- The port's MAC address: the unit's base plus its device-wide number. -/
def portMac (s : State) (hub port : Nat) : Nat := (s.dev.fuses.macBase + portNo hub port) % 2 ^ 48
/-- The port's own address of a family, IPv4 in mapped form; 0 where it has none. -/
def portIp (s : State) (hub port : Nat) (v6 : Bool) : Nat :=
  if v6 then portV6 s hub port else if portV4 s hub port = 0 then 0 else v4Mapped (portV4 s hub port)
def hubEthF (s : State) (hub lo len : Nat) : Nat := cfgF s (baseEth + 0x80 + 8 * hub) lo len
def portUp (s : State) (hub port : Nat) : Bool := portMapped s hub port && (getPort s (portNo hub port)).state == 2

/-! ### Sending -/

/-- The PCP and DSCP of a frame, by its traffic class (R406); the spec names no class for the others. -/
def txClass (s : State) : EthTx → Option (Nat × Nat)
  | .pack hub _ _ _ => some (hubEthF s hub 0 3, hubEthF s hub 6 6)
  | .roce hub _ _ _ _ => some (hubEthF s hub 3 3, hubEthF s hub 12 6)
  | .delayReq _ _ _ _ => some (7, 46)
  | _ => none

/-- Next hop of an IP frame: the group's MAC, or GW_MAC for unicast (R408). -/
def nextHop (s : State) (hub port dst : Nat) : Nat := if isGroup dst then groupMac dst else portGw s hub port

/-- Ethertype of an address family. -/
def ipType (v6 : Bool) : Nat := if v6 then 0x86DD else 0x0800

/-- The IP header of `len` bytes from a port (R408), of a family; pack and RoCEv2 packets are marked ECT(0), 2. -/
def ipHead (s : State) (v6 : Bool) (hub port dst dscp ecn len : Nat) : List Byte :=
  let f := fun (i : Nat) => Config.frameField s.eth.tx.length i
  if v6 then ip6Head dscp ecn (f 2) len 17 (f 4) (portV6 s hub port) dst
  else ip4Head dscp ecn len (f 2) (f 3) (f 4) 17 (portV4 s hub port) dst

/-- Ethernet, IP and UDP headers of a datagram that a port sends. -/
def udpFrameHead (s : State) (v6 : Bool) (hub port dst pcp dscp ecn : Nat) (udp : List Byte) (dataLen : Nat) : List Byte :=
  ethHead (nextHop s hub port dst) (portMac s hub port) pcp (portVid s hub port) (ipType v6) ++
  ipHead s v6 hub port dst dscp ecn (8 + dataLen) ++ udp

/-- The priority of a frame: that of its class, else a free value. -/
def framePrio (s : State) (t : EthTx) : Nat := ((txClass s t).map (·.1)).getD (Config.frameField s.eth.tx.length 0 % 8)

/-- A report that joins or leaves a group (R416): time to live 1, to 224.0.0.22 or FF02::16, without the option or extension header that the standards
add (R408, log entry 154). -/
def groupReport (s : State) (hub port g : Nat) (join : Bool) (ether : Nat → Nat → List Byte) : List Byte :=
  let f := fun (i : Nat) => Config.frameField s.eth.tx.length i
  if isV4Mapped g then
    ether 0x01005E000016 0x0800 ++ ip4Head 48 0 16 (f 2) (f 3) 1 2 (portV4 s hub port) (v4Mapped 0xE0000016) ++ igmpBody join g
  else
    let dst := 0xFF02 * 2 ^ 112 + 0x16
    ether 0x333300000016 0x86DD ++ ip6Head 0 0 (f 2) 28 58 1 (portV6 s hub port) dst ++ mldBody join (portV6 s hub port) dst g

/-- Headers of a frame, and what follows them where it is no datagram (R406, R408). Field 0 of the free ones is the priority of a frame without a class,
1 the source port, 5 the checksum of data that the model does not hold as bytes, 6 the quanta of an XOFF; a PTP Delay_Req has 44 bytes (IEEE
1588-2019). -/
def frameHead (s : State) (hub port : Nat) (t : EthTx) : List Byte :=
  let f := fun (i : Nat) => Config.frameField s.eth.tx.length i
  let pcp := framePrio s t
  let dscp := ((txClass s t).map (·.2)).getD 0
  let ether := fun (dst ty : Nat) => ethHead dst (portMac s hub port) pcp (portVid s hub port) ty
  match t with
  | .pack _ _ dst bs =>
    udpFrameHead s (!isV4Mapped dst) hub port dst pcp dscp 2 (udpHead (portIp s hub port (!isV4Mapped dst)) dst (f 1 % 65536) 23108 bs) bs.length
  | .roce _ _ v6 dst p => udpFrameHead s v6 hub port dst pcp dscp 2 (udpHeadWith (f 1 % 65536) 4791 (rcLen p) (f 5 % 65536)) (rcLen p)
  | .delayReq _ _ _ dst =>
    if dst = 0 then ether 0x011B19000000 0x88F7
    else udpFrameHead s (!isV4Mapped dst) hub port dst pcp dscp 0 (udpHeadWith (f 1 % 65536) 319 44 (f 5 % 65536)) 44
  | .arpReply _ _ mac dst => ether mac 0x0806 ++ arpBody (portMac s hub port) (portV4 s hub port) mac dst
  | .neighbourAdvert _ _ dst =>
    ether (nextHop s hub port dst) 0x86DD ++ ip6Head 0 0 (f 2) 32 58 255 (portV6 s hub port) dst ++
    naBody (!isGroup dst) (portV6 s hub port) dst (portMac s hub port)
  | .groupJoin _ _ g => groupReport s hub port g true ether
  | .groupLeave _ _ g => groupReport s hub port g false ether
  | .pfc _ _ i xoff => ether 0x0180C2000001 0x8808 ++ pfcBody i (if xoff then f 6 % 65535 + 1 else 0)

/-- Put a frame on the wire. -/
def putWire (s : State) (hub port : Nat) (t : EthTx) : State :=
  onPort (onEth s fun e => { e with tx := e.tx ++ [⟨frameHead s hub port t, t⟩] }) (portNo hub port) fun p => { p with txFrames := inc64 p.txFrames }

/-- Is a priority paused (R407)? -/
def prioPaused (s : State) (hub port i : Nat) : Bool :=
  match smGet? (getPort s (portNo hub port)).pausedTill i with
  | some t => decide (s.now < t)
  | none => false

/-- Is the priority of a frame paused? A pause frame itself never is. -/
def txPaused (s : State) (hub port : Nat) (t : EthTx) : Bool :=
  match t with
  | .pfc _ _ _ _ => false
  | _ => prioPaused s hub port (framePrio s t)

/-- Send a frame; one of a paused priority waits at the port for the end of the pause (R407). -/
def emit (s : State) (hub port : Nat) (t : EthTx) : State :=
  if txPaused s hub port t then onPort s (portNo hub port) fun p => { p with txHeld := p.txHeld ++ [t] } else putWire s hub port t

/-- The frames that nothing pauses any more leave the port, in order. -/
def portRelease (s : State) (hub port : Nat) : State :=
  let q := (getPort s (portNo hub port)).txHeld
  q.foldl (fun s t => emit s hub port t) (onPort s (portNo hub port) fun p => { p with txHeld := [] })

/-- A pack datagram (Table 15.6). -/
def packMsg (type : Nat) (payload : List Byte) (pack step srcMember srcHub dstHub dstMember tensor seq : Nat) : List Byte :=
  let hp := beBytes 1 1 ++ beBytes 1 type ++ beBytes 2 payload.length ++ beBytes 4 pack ++ beBytes 8 step ++ beBytes 2 srcMember ++
    beBytes 1 srcHub ++ beBytes 1 dstHub ++ beBytes 2 dstMember ++ beBytes 2 0 ++ beBytes 4 tensor ++ beBytes 4 seq ++ payload
  hp ++ beBytes 4 (crc32c hp)

/-- Address of a member at a hub index, 0 when it has none. -/
def memberAddr (p : Pack) (m h : Nat) : Nat := (p.members.getD m []).getD h 0
/-- h′ of R416. -/
def destHub (p : Pack) (m h : Nat) : Nat := if memberAddr p m h = 0 then 0 else h

/-- UP ports of the pack on a hub. -/
def packPorts (s : State) (p : Pack) (hub : Nat) : List Nat :=
  (List.range 16).filter fun q => bit (p.ports.getD hub 0) q && portUp s hub q

/-- The port of a stream: the one it is on while that is UP, else by the hash (R418). -/
def streamPort (s : State) (p : Pack) (hub dst h' : Nat) (cur : Option Nat) : Option Nat :=
  let ups := packPorts s p hub
  match cur with
  | some q => if ups.contains q then some q else ups[Config.portHash dst h' % max 1 ups.length]?
  | none => ups[Config.portHash dst h' % max 1 ups.length]?

/-- Send an unsequenced unicast message: dropped with no port UP, and by a port without a next hop (R408). -/
def sendPlain (s : State) (p : Pack) (hub dst h' type step tensor : Nat) (payload : List Byte) : State :=
  match streamPort s p hub dst h' none with
  | some q =>
    if portGw s hub q = 0 then s
    else emit s hub q (.pack hub q (memberAddr p dst h') (packMsg type payload p.id step p.me hub h' dst tensor 0))
  | none => s

/-- The key of a sending stream (R416): a multicast one has no source hub in it. -/
def sameSend (pack : Nat) (mc : Bool) (srcHub dst dstHub : Nat) (x : SendStream) : Bool :=
  x.pack == pack && x.mc == mc && (mc || x.srcHub == srcHub) && x.dst == dst && x.dstHub == dstHub

/-- W of R422. -/
def creditW (n : Nat) : Nat := max 1 (min 64 (4096 / (n - 1)))

/-- Address a stream sends to. -/
def streamDst (p : Pack) (x : SendStream) : Nat := if x.mc then p.groups.getD x.dstHub 0 else memberAddr p x.dst x.dstHub

/-- Put the messages of a stream that credit allows on the wire; with no port UP they wait (R418, R422). -/
def flushStream (s : State) (p : Pack) (x : SendStream) : State × SendStream :=
  let top := if x.mc then x.next else min x.next x.limit
  if top ≤ x.sent then (s, x)
  else
    match streamPort s p x.srcHub x.dst x.dstHub x.port with
    | none => (s, { x with port := none })
    | some q =>
      let out := x.held.filter fun m => decide (x.sent ≤ m.seq ∧ m.seq < top)
      let s1 := if !x.mc && portGw s x.srcHub q == 0 then s
        else out.foldl (fun s m => emit s x.srcHub q (.pack x.srcHub q (streamDst p x) m.bytes)) s
      (s1, { x with sent := top, port := some q, since := if x.acked = x.sent then s.now else x.since })

/-- Change streams of a kind. -/
def putSend (s : State) (x : SendStream) : State :=
  let same := sameSend x.pack x.mc x.srcHub x.dst x.dstHub
  onEth s fun e => { e with sends := if e.sends.any same then e.sends.map fun y => if same y then x else y else e.sends ++ [x] }

/-- Send a sequenced message on its stream (R421); `body seq` gives the datagram. A multicast stream goes on from the hub that sends now. -/
def sendSeq (s : State) (p : Pack) (mc : Bool) (srcHub dst dstHub step : Nat) (body : Nat → List Byte) : State :=
  let x := (s.eth.sends.find? (sameSend p.id mc srcHub dst dstHub)).getD
    { pack := p.id, mc := mc, srcHub := srcHub, dst := dst, dstHub := dstHub, limit := creditW p.n }
  let x1 := { x with srcHub := srcHub, port := if x.srcHub = srcHub then x.port else none, next := x.next + 1, held := x.held ++ [⟨x.next, step, body (x.next % 2 ^ 32)⟩] }
  let r := flushStream s p x1
  putSend r.1 r.2

/-- Multicast a message of a tensor, or a vote, from a hub to a group (R416). -/
def sendGroup (s : State) (p : Pack) (srcHub group type step tensor : Nat) (payload : List Byte) : State :=
  if p.n ≤ 1 then s
  else sendSeq s p true srcHub 0xFFFF group step fun seq => packMsg type payload p.id step p.me srcHub group 0xFFFF tensor seq

/-- Unicast a sequenced message to a member's hub (R416). -/
def sendUni (s : State) (p : Pack) (srcHub dst type step tensor : Nat) (payload : List Byte) : State :=
  let h' := destHub p dst srcHub
  sendSeq s p false srcHub dst h' step fun seq => packMsg type payload p.id step p.me srcHub h' dst tensor seq

/-- Ports of a pack have come UP: its streams go on (R418). -/
def flushAll (s : State) : State :=
  s.eth.sends.foldl (fun s x =>
    match s.step.packs.find? fun p => p.id == x.pack with
    | some p => let r := flushStream s p x; putSend r.1 r.2
    | none => s) s

/-- Send rate of a stream now: it recovers by 1/16 of the port's each 50 µs (R411, R422). -/
def rateNow (now rate at_ : Nat) : Nat := min 4294967296 (rate + (now - at_) / (50 * usUnits) * 268435456)

/-- NACK a message to its source (R425); a port without a next hop sends none, and none is counted. -/
def sendNack (s : State) (hub port srcIp : Nat) (p : Option Pack) (reason : Nat) (hdr : List Byte) : State :=
  let payload := beBytes 1 reason ++ beBytes 3 0 ++ hdr.take 32
  if portGw s hub port = 0 then s
  else emit (onHubEth s hub fun h => { h with nackTx := inc32 h.nackTx }) hub port (.pack hub port srcIp (packMsg 9 payload (getBe hdr 4 4) (getBe hdr 8 8) ((p.map (·.me)).getD 0xFFFF) hub
    (getBe hdr 18 1) (getBe hdr 16 2) 0 0))

/-- Forget messages: a sender discards those of a step that its device has decided (R422), and multicasts of step s once step s + 1 is decided
(R424). -/
def trimSends (s : State) (pack decided : Nat) : State :=
  onEth s fun e => { e with
    sends := e.sends.map fun x =>
      if x.pack ≠ pack then x
      else if x.mc then { x with held := x.held.filter fun m => decide (decided ≤ m.step) }
      else { x with held := x.held.filter fun m => decide (decided < m.step) },
    scales := e.scales.filter fun c => !(c.pack == pack && decide (c.step ≤ decided)) }

end Sys2Proof.Machine
end

