-- ==== Sys2Proof/Machine/Matrix.lean ====
section
/-! DEFINITION. The matrix engine (chapter 06): instructions, descriptors and their checks (R187), products (R174, R175) and drains (R176). -/

namespace Sys2Proof.Machine

/-! ### Shapes and descriptors -/

/-- K, M and N of a shape register (R168). -/
def shapeK (g : Nat) : Nat := fld g 0 16 + 1
def shapeM (g : Nat) : Nat := fld g 16 6 + 1
def shapeN (g : Nat) : Nat := fld g 22 5 + 1

/-- A matrix descriptor (Table 06.5), with the bits that must be 0. -/
structure MatDesc where
  base : Nat
  ld : Nat
  scale : Nat
  tensor : Nat
  fmt : Nat
  log2 : Nat
  dev : Bool
  strided : Bool
  ro : Bool
  col0 : Nat
  rsv : Nat
deriving DecidableEq, Repr

def matDesc (bs : List Byte) : MatDesc :=
  { base := getLe bs 0 8, ld := getLe bs 8 4, scale := getLe bs 12 4, tensor := getLe bs 16 4, fmt := getB bs 20, log2 := getB bs 21,
    dev := bit (getB bs 22) 0, strided := bit (getB bs 22) 1, ro := bit (getB bs 22) 2, col0 := getLe bs 24 4,
    rsv := getB bs 22 / 8 + getB bs 23 + getLe bs 28 4 }

/-- Class of an operand format (Table 06.1): 4 and 8 may pair, 16 with 16, 32 with 32. -/
def matClass (fmt : Nat) : Nat := if fmt = 0 then 32 else if fmt = 1 ∨ fmt = 2 then 16 else 8

/-- The fields of a descriptor are in range (R172, R187); `out` for descriptor C. -/
def matDescOk (d : MatDesc) (out : Bool) : Bool :=
  decide (d.ld % 64 = 0) && scaleOk d.scale && decide (d.fmt ≤ (if out then 4 else 13)) && blockLog2Ok d.fmt d.log2 &&
  decide (d.rsv = 0) && !(out && d.ro)

/-- Ranges of the stored rows of a tile: `rows` rows of `n` elements. A stored row of a block format is its LD bytes. -/
def matRanges (d : MatDesc) (rows n : Nat) : List URange :=
  (List.range rows).map fun r =>
    if isBlockFmt d.fmt then ⟨d.dev, d.base + r * d.ld, d.ld⟩
    else let w := fmtBits d.fmt / 8; ⟨d.dev, d.base + r * d.ld + d.col0 * w, n * w⟩

/-- Elements of a stored row of the tile, decoded, with the descriptor's SCALE (R173, R174). The descriptor does not tell COLS, so no position of
a block counts as padding here (log entry 141); bytes beyond LD read 0 (DESIGN CHOICE, log entry 174). -/
def matRow (d : MatDesc) (bs : List Byte) (n : Nat) : List FVal :=
  let vs := if isBlockFmt d.fmt then (List.range n).map fun i => rowElem d.fmt d.log2 (bytesAt bs) d.ld (2 ^ 32) (d.col0 + i)
            else plainElems d.fmt bs n
  vs.map (fvMul (fpVal f32 d.scale))

/-- Columns of a list of rows. -/
def transposeTo (n : Nat) (rows : List (List FVal)) : List (List FVal) := (List.range n).map fun i => rows.map (·.getD i .nan)

/-- The `rows × k` tile of an operand, row by row along k. -/
def matTile (s : State) (c : Nat) (d : MatDesc) (rows k : Nat) : MRes (List (List FVal)) :=
  if d.strided then
    match unitReads c d.ro (matRanges d k rows) s with
    | (s1, .ok bss) => (s1, .ok (transposeTo rows (bss.map fun bs => matRow d bs rows)))
    | (s1, .error e) => (s1, .error e)
  else
    match unitReads c d.ro (matRanges d rows k) s with
    | (s1, .ok bss) => (s1, .ok (bss.map fun bs => matRow d bs k))
    | (s1, .error e) => (s1, .error e)

/-- Stored rows and elements of a row of a `rows × k` operand. -/
def matShape (d : MatDesc) (rows k : Nat) : Nat × Nat := if d.strided then (k, rows) else (rows, k)
def matOperRanges (d : MatDesc) (rows k : Nat) : List URange := matRanges d (matShape d rows k).1 (matShape d rows k).2

/-- One element of a product (R174). -/
def matDot (acc : Nat) (a b : List FVal) : Nat :=
  let ps := List.zipWith fvMul a b
  sumBlocks acc (chunk32 (ps.length + 1) ps)

/-! ### Accumulators (R166, R169) -/

/-- A cell that nothing has written: +0 while a task runs, undefined after its end. -/
def accIdle (k : CoreSt) (cell : Nat) : Nat :=
  match k.accDraw with
  | none => 0
  | some d => leNat ((natsFrom (4 * cell) 4).map (Config.freeByte d))
def accAt (k : CoreSt) (acc i j : Nat) : Nat :=
  let cell := acc * 2048 + i * 32 + j
  match smGet? k.acc cell with
  | some v => v.toNat
  | none => accIdle k cell
def accPut (k : CoreSt) (acc i j v : Nat) : CoreSt :=
  let cell := acc * 2048 + i * 32 + j
  { k with acc := if k.accDraw.isNone then smSet 0 k.acc cell (BitVec.ofNat 32 v) else smIns k.acc cell (BitVec.ofNat 32 v) }

/-! ### Issue (Table 06.2) -/

/-- Does a thread have instructions in the matrix queue that a fence of it waits for? -/
def inMatq (s : State) (c t : Nat) : Bool := (getCore s c).matq.any fun e => e.thr == t && e.op != .mfence

def pushMat (s : State) (c t pc : Nat) (op : MatOp) : State := onCore s c fun k => { k with matq := k.matq ++ [{ thr := t, pc := pc, op := op }] }

/-- MSTAT has been copied; with CLEAR it is 0 now (R169). -/
def mstatTaken (s : State) (c : Nat) (clear : Bool) : State :=
  if clear then onCore s c fun k => { k with stat := { k.stat with mstat := 0 } } else s

def execMmul (r : MxArgs) (s : State) : Out :=
  let c := r.core.toNat
  let t := r.thr.toNat
  issueRaw c t r.low.toNat s fun th =>
    issueQueue c t s .matrix (getCore s c).matq.length 16 fun s =>
      pushMat s c t th.pc (.mmul r.acc.toNat r.f3 (gReg th r.g1.toNat) (gReg th r.g2.toNat) (gReg th r.g3.toNat))

def execMdrain (r : MxArgs) (s : State) : Out :=
  let c := r.core.toNat
  let t := r.thr.toNat
  issueRaw c t (r.g2.toNat + b2n r.f3 + r.low.toNat) s fun th =>
    issueQueue c t s .matrix (getCore s c).matq.length 16 fun s =>
      pushMat s c t th.pc (.mdrain r.acc.toNat (gReg th r.g1.toNat) (gReg th r.g3.toNat))

def execMfence (r : MxArgs) (s : State) : Out :=
  let c := r.core.toNat
  let t := r.thr.toNat
  issueRaw c t (r.acc.toNat + r.g1.toNat + r.g2.toNat + r.g3.toNat + b2n r.f3 + r.low.toNat) s fun th =>
    if queueRoom s c 16 ≤ (getCore s c).matq.length then blockThread s c t (.room .matrix)
    else
      issueFence c t (if (getCore s c).matq.isEmpty then s else pushMat s c t th.pc .mfence) .matrix (inMatq s c t)

def execMstat (r : MxArgs) (s : State) : Out :=
  let c := r.core.toNat
  let t := r.thr.toNat
  issueRaw c t (r.acc.toNat + r.g2.toNat + r.g3.toNat + r.low.toNat) s fun th =>
    if queueRoom s c 16 ≤ (getCore s c).matq.length then blockThread s c t (.room .matrix)
    else if (getCore s c).matq.isEmpty then putNext (mstatTaken s c r.f3) c t r.g1.toNat (getCore s c).stat.mstat
    else blockThread (pushMat s c t th.pc (.mstat r.f3 r.g1.toNat)) c t (.result .matrix)

/-! ### Execution -/

/-- What stands at the head of the matrix queue and needs no engine ends: an MFENCE, and an MSTAT, which copies now that all before it is done
(R169, R170). -/
def matSettle (c : Nat) : List (QEntry MatOp) → State → State
  | [], s => s
  | e :: es, s =>
    match e.op with
    | .mfence => matSettle c es (onCore s c fun k => { k with matq := k.matq.tail })
    | .mstat clear d =>
      let w := (getCore s c).stat.mstat
      let s1 := onCore (mstatTaken s c clear) c fun k => { k with matq := k.matq.tail }
      let waits := (getThread s1 c e.thr).any fun th => th.st == .blocked (.result .matrix)
      matSettle c es (if waits then resumeNext (setReg s1 c e.thr d w) c e.thr else s1)
    | _ => s

/-- Threads that waited for the matrix queue go on after entries have left it. -/
def matAdvance (s : State) (c : Nat) : State :=
  let s1 := matSettle c (getCore s c).matq s
  unitAdvance s1 c .matrix (inMatq s1 c)

/-- Take an entry of the matrix queue away: the head, or the second one, which the head overlaps (R170). -/
def matPop (s : State) (c i : Nat) : State := matAdvance (onCore s c fun k => { k with matq := k.matq.eraseIdx i }) c

/-- An instruction fails: its thread stops, and its instructions queued behind are discarded (R187). -/
def matFail (s : State) (c i : Nat) (e : QEntry MatOp) (f : Nat × Nat) : State :=
  let s1 := stopQueued s c e.thr f.1 e.pc f.2
  matAdvance (onCore s1 c fun k =>
    { k with matq := k.matq.take i ++ ((k.matq.drop (i + 1)).filter fun x => x.thr != e.thr) }) c

/-- Accumulator that a matrix operation names. -/
def opAcc : MatOp → Option (Bool × Nat)
  | .mmul a _ _ _ _ => some (true, a)
  | .mdrain a _ _ => some (false, a)
  | _ => none

/-- The entry the engine may run: the head, when it is an MMUL (`mm`) or an MDRAIN as asked, or the one behind it, which overlaps a head of the
other kind that names another accumulator (R170). -/
def matReady (s : State) (c : Nat) (mm : Bool) : Option (Nat × QEntry MatOp) :=
  match (getCore s c).matq with
  | e :: es =>
    (match opAcc e.op, (es.head?.bind fun x => (opAcc x.op).map fun o => (x, o)) with
      | some (k, a), some (x, (k', a')) => if k = mm then some (0, e) else if k' = mm ∧ a ≠ a' then some (1, x) else none
      | some (k, _), none => if k = mm then some (0, e) else none
      | none, _ => none)
  | [] => none

/-- The descriptor at a scratchpad offset, when it lies on 32 bytes within the scratchpad and its fields are in range. -/
def readMatDesc (s : State) (c off : Nat) (out : Bool) : Option MatDesc :=
  if off % 32 ≠ 0 ∨ scratchLen s c < off + 32 then none
  else let d := matDesc (spadRead s c off 32); if matDescOk d out then some d else none

/-- Why an MMUL fails its checks (R187): bad descriptors and pairs, scratchpad ranges, device ranges. FAULT_ADDR of a range that exceeds the scratchpad
is the descriptor's offset (DESIGN CHOICE, log entry 174). Of several causes the first in this order is reported (DESIGN CHOICE, log entry 182). -/
def mmulFault (s : State) (c a b : Nat) (da db : Option MatDesc) (m n k : Nat) : Option (Nat × Nat) :=
  match da, db with
  | none, _ => some (stAddrUnmapped, spadFault a)
  | _, none => some (stAddrUnmapped, spadFault b)
  | some x, some y =>
    if matClass x.fmt ≠ matClass y.fmt then some (stAddrUnmapped, spadFault a)
    else if !rangesSpadOk s c (matOperRanges x m k) then some (stAddrUnmapped, spadFault a)
    else if !rangesSpadOk s c (matOperRanges y n k) then some (stAddrUnmapped, spadFault b)
    else rangesFault s false (matOperRanges x m k ++ matOperRanges y n k)

/-- Write the M × N corner of an accumulator. -/
def accWrite (s : State) (c acc : Nat) (m n : Nat) (v : CoreSt → Nat → Nat → Nat) : State :=
  onCore s c fun k => (List.range m).foldl (fun k' i => (List.range n).foldl (fun k' j => accPut k' acc i j (v k i j)) k') k

/-- MMUL_EXECUTE: the MMUL at the head of the queue, or the one that a draining head overlaps (R169, R170, R174, R187). -/
def execMmulExecute (core : BitVec 11) (s : State) : Out :=
  let c := core.toNat
  match matReady s c true with
  | some (i, e@⟨_, _, .mmul acc accum a b g, _⟩) =>
    if !unitServed s c then .next s
    else
      let m := shapeM g
      let n := shapeN g
      let k := shapeK g
      let da := readMatDesc s c a false
      let db := readMatDesc s c b false
      match mmulFault s c a b da db m n k, da, db with
      | none, some x, some y =>
        match matTile s c x m k with
        | (s1, .error x) => .next (matFail s1 c i e (stAddrUnmapped, x))
        | (s1, .ok ra) =>
          match matTile s1 c y n k with
          | (s2, .error x) => .next (matFail s2 c i e (stAddrUnmapped, x))
          | (s2, .ok rb) =>
            .next (matPop (accWrite s2 c acc m n fun kc i j =>
              matDot (if accum then accAt kc acc i j else 0x80000000) (ra.getD i []) (rb.getD j [])) c i)
      | f, _, _ => .next (matFail s c i e (f.getD (stAddrUnmapped, spadFault a)))
  | _ => .next s

/-- One drained element: the code of the output format, and whether it saturated (R176). -/
def drainElem (fmt : Nat) (v : FVal) : Nat × Bool :=
  match v with
  | .fin neg m e =>
    if fmt = 3 then
      let q := (gridRound 3 (gridQmin 3) .near (dyNum m e) (dyDen e)).1
      (min q 0x7E + (if neg then 0x80 else 0), decide (0x7E < q))
    else
      let f := if fmt = 0 then f32 else if fmt = 1 then bf16 else if fmt = 2 then f16 else e5m2
      let r := (fpRoundQ f neg (dyNum m e) (dyDen e)).bits
      if fmt ≠ 0 ∧ fpIsInf f r then (fpSign f neg (f.infBits - 1), true) else (r, false)
  | .inf neg =>
    match fmt with
    | 0 => (fpSign f32 neg f32.infBits, false)
    | 1 => (fpSign bf16 neg bf16.infBits, false)
    | 2 => (fpSign f16 neg f16.infBits, false)
    | 3 => (0x7F, false)
    | _ => (fpSign e5m2 neg e5m2.infBits, false)
  | .nan => (match fmt with | 0 => fpCanon f32 | 1 => fpCanon bf16 | 2 => fpCanon f16 | 3 => 0x7F | _ => fpCanon e5m2, false)

/-- Why an MDRAIN fails its checks. -/
def mdrainFault (s : State) (c off : Nat) (d : Option MatDesc) (m n : Nat) : Option (Nat × Nat) :=
  match d with
  | none => some (stAddrUnmapped, spadFault off)
  | some x =>
    if !rangesSpadOk s c (matOperRanges x m n) then some (stAddrUnmapped, spadFault off)
    else rangesFault s true (matOperRanges x m n)

/-- MDRAIN_EXECUTE: the MDRAIN at the head of the queue, or the one that a multiplying head overlaps (R169, R170, R176, R187). The first NaN
in order of i and then j is reported. The stored rows are written in ascending order, which tells where they overlap (DESIGN CHOICE, log entry 182). -/
def execMdrainExecute (core : BitVec 11) (s : State) : Out :=
  let c := core.toNat
  match matReady s c false with
  | some (i, e@⟨_, _, .mdrain acc off g, _⟩) =>
    if !unitServed s c then .next s
    else
      let m := shapeM g
      let n := shapeN g
      let d := readMatDesc s c off true
      match mdrainFault s c off d m n, d with
      | none, some x =>
        let k := getCore s c
        let val := fun i j => drainElem x.fmt (fvMul (fpVal f32 (accAt k acc i j)) (fpVal f32 x.scale))
        let w := fmtBits x.fmt / 8
        let sh := matShape x m n
        let rows := (List.range sh.1).map fun p => (List.range sh.2).map fun q => if x.strided then val q p else val p q
        let cells := (List.range m).flatMap fun i => (List.range n).map fun j => ((i, j), val i j)
        let isNan := fun v => fvIsNan (plainDecode x.fmt v)
        let isInf := fun v => match plainDecode x.fmt v with | .inf _ => true | _ => false
        match unitWrites c ((matOperRanges x m n).zip (rows.map fun r => r.flatMap fun v => leBytes w v.1)) s with
        | (s1, .error x) => .next (matFail s1 c i e (stAddrUnmapped, x))
        | (s1, .ok _) =>
          let sats := (cells.filter fun v => v.2.2).length
          let nan := cells.find? fun v => isNan v.2.1
          let s2 := onCore s1 c fun k =>
            { k with stat := { k.stat with mstat := mstatAdd k.stat.mstat sats nan.isSome (cells.any fun v => isInf v.2.1) } }
          let s3 := match nan with
            | some v => nanEntry s2 c e 1 (some x.tensor) (v.1.1 * 2 ^ 32 + v.1.2)
            | none => s2
          .next (matPop s3 c i)
      | f, _ => .next (matFail s c i e (f.getD (stAddrUnmapped, spadFault off)))
  | _ => .next s

end Sys2Proof.Machine
end

