-- ==== Sys2Proof/Machine/GroomMath.lean ====
section
/-! DEFINITION. The arithmetic of the groom engine: the hyperparameter block (R376, R377), clipping (R382), the update rules (R383 to R387) and the
factor refresh (R389). Values are FP32 codes; matrices are lists of rows. -/

namespace Sys2Proof.Machine

/-! ### The hyperparameter block (Table 14.4) -/

structure Hyper where
  stepA : Nat
  stepB : Nat
  lrA : Nat
  lrB : Nat
  beta1 : Nat
  beta2 : Nat
  eps : Nat
  wd : Nat
  clip : Nat
  opt : Nat
  escMax : Nat
  outShift : Nat
  iters : Nat
  pool : Nat
  nsA : Nat
  nsB : Nat
  nsC : Nat
  rsvZero : Bool
deriving DecidableEq, Repr

def hyperOf (b : List Byte) : Hyper :=
  { stepA := getLe b 0 8, stepB := getLe b 8 8, lrA := getLe b 16 4, lrB := getLe b 20 4, beta1 := getLe b 24 4, beta2 := getLe b 28 4,
    eps := getLe b 32 4, wd := getLe b 36 4, clip := getLe b 40 4, opt := getB b 44, escMax := getB b 45, outShift := getB b 46,
    iters := getB b 47, pool := getLe b 48 2, nsA := getLe b 52 4, nsB := getLe b 56 4, nsC := getLe b 60 4,
    rsvZero := getLe b 50 2 == 0 && allZero ((b.drop 64).take 64) }

def finite32 (b : Nat) : Bool := decide (fpMag f32 b < f32.infBits)
/-- Finite and not below 0. -/
def nonNeg32 (b : Nat) : Bool := finite32 b && (!fpNeg? f32 b || fpIsZero f32 b)
def pos32 (b : Nat) : Bool := finite32 b && !fpNeg? f32 b && !fpIsZero f32 b
/-- From 0 up to, and not including, 1. -/
def unit32 (b : Nat) : Bool := nonNeg32 b && decide (fpMag f32 b < 0x3F800000)

def optNesterov (h : Hyper) : Bool := bit h.opt 0
def optBias (h : Hyper) : Bool := bit h.opt 1
def optDecoupled (h : Hyper) : Bool := bit h.opt 2
def optFactors (h : Hyper) : Bool := bit h.opt 3

/-- Does every field lie within Table 14.4 for the tensor? -/
def hyperOk (t : Tensor) (h : Hyper) : Bool :=
  nonNeg32 h.lrA && nonNeg32 h.lrB && unit32 h.beta1 &&
  (if t.rule = 2 ∨ t.rule = 4 then unit32 h.beta2 else h.beta2 == 0) && (if t.rule = 1 then h.eps == 0 else pos32 h.eps) &&
  nonNeg32 h.wd && nonNeg32 h.clip && decide (h.opt < 16) &&
  (if isZb t.fmt then decide (h.escMax ≤ 4 ∧ h.outShift ≤ 15) else h.escMax == 0 && h.outShift == 0 && h.pool == 0) &&
  (if t.rule = 3 ∨ t.rule = 4 then decide (1 ≤ h.iters ∧ h.iters ≤ 15) else h.iters == 0) &&
  (if t.rule = 3 then finite32 h.nsA && finite32 h.nsB && finite32 h.nsC else h.nsA == 0 && h.nsB == 0 && h.nsC == 0) && h.rsvZero

/-- The learning rate of a step (R377); `none` when neither entry has begun. -/
def lrFor (h : Hyper) (n : Nat) : Option Nat :=
  if h.stepA ≤ n ∧ h.stepB ≤ n then
    (if h.stepA = h.stepB then some (if Config.lrTieFirst then h.lrA else h.lrB)
     else some (if h.stepB < h.stepA then h.lrA else h.lrB))
  else if h.stepA ≤ n then some h.lrA
  else if h.stepB ≤ n then some h.lrB
  else none

/-! ### Elementwise operations (R383) -/

def gAdd (st : Bool) (a b : Nat) : Nat := (fpAdd f32 st a b).bits
def gSub (st : Bool) (a b : Nat) : Nat := (fpSub f32 st a b).bits
def gMul (st : Bool) (a b : Nat) : Nat := (fpMul f32 st a b).bits
def gFma (st : Bool) (a b c : Nat) : Nat := (fpFma f32 st a b c).bits
def gDiv (st : Bool) (a b : Nat) : Nat := (fpDiv f32 st a b).bits
def gSqrt (st : Bool) (a : Nat) : Nat := (fpSqrt f32 st a).bits
def gRsqrt (st : Bool) (a : Nat) : Nat := (fpRsqrt f32 st a).bits
def gNeg (a : Nat) : Nat := if fpNeg? f32 a then a - 2 ^ 31 else a + 2 ^ 31
def gOne : Nat := 0x3F800000

/-- bf(): round to BF16, given as the FP32 code of the same value. In strict mode a NaN keeps what its payload has in BF16 (R266). -/
def gBf (st : Bool) (a : Nat) : Nat := (fpCvt bf16 f32 st (fpCvt f32 bf16 st a).bits).bits

abbrev Mat := List (List Nat)

def mMap (f : Nat → Nat) (a : Mat) : Mat := a.map fun r => r.map f
def mZip (f : Nat → Nat → Nat) (a b : Mat) : Mat := List.zipWith (fun x y => List.zipWith f x y) a b
def mTrans (cols : Nat) (a : Mat) : Mat := (List.range cols).map fun j => a.map fun r => r.getD j 0
def mVals (a : Mat) : List (List FVal) := a.map fun r => r.map (fpVal f32)
/-- mm(A, B) with B given by its columns (R174, R176). -/
def mMulT (a bt : Mat) : Mat :=
  let bv := mVals bt
  (mVals a).map fun r => bv.map fun c => matDot 0x80000000 r c
/-- The n × n identity times a value. -/
def mIdent (n v : Nat) : Mat := (List.range n).map fun i => (List.range n).map fun j => if i = j then v else 0
/-- exact_sum() of the squares (R383): products and sum exact, one rounding, in both modes: an exact sum does not depend on its order (R266; DEDUCED, log
entry 162). In strict mode a NaN result is the first NaN operand, made quiet. -/
def mSumSq (st : Bool) (a : Mat) : Nat :=
  match a.flatten.find? (fpIsNan f32) with
  | some x => gMul st x gOne
  | none => r32 (blockSum ((mVals a).flatMap fun r => r.map fun x => fvMul x x))

/-! ### Clipping (R382) -/

def clipFactor (st : Bool) (clip norm2 : Nat) : Nat :=
  if fpIsZero f32 clip ∨ !finite32 norm2 ∨ fpIsZero f32 norm2 then gOne
  else (fpMinMax f32 st false gOne (gDiv st clip (gSqrt st norm2))).bits

/-! ### The rules -/

/-- What an update computes: masters, moments, statistics, and for the matrix rules the products that the matrix unit drains, in order. -/
structure UpdOut where
  w : Mat
  m1 : Mat
  m2 : Mat := []
  statL : Mat := []
  statR : Mat := []
  prods : List Mat := []
deriving DecidableEq, Repr

/-- What an update reads. -/
structure UpdIn where
  st : Bool
  narrow : Bool
  h : Hyper
  lr : Nat
  b1pow : Nat
  b2pow : Nat
  g : Mat
  w : Mat
  m1 : Mat
  m2 : Mat
  statL : Mat
  statR : Mat
  preL : Mat
  preR : Mat
deriving DecidableEq, Repr

/-- The decay added to the gradient (R383). -/
def decayG (x : UpdIn) (trained : Nat → Bool) : Mat :=
  if !optDecoupled x.h && pos32 x.h.wd then
    ((List.range x.g.length).map fun i =>
      if trained i then List.zipWith (fun w g => gFma x.st x.h.wd w g) (x.w.getD i []) (x.g.getD i []) else x.g.getD i [])
  else x.g

/-- d with decoupled decay, then w = fma(−lr, d, w). -/
def stepW (x : UpdIn) (d : Mat) : Mat :=
  let d1 := if optDecoupled x.h then mZip (fun w d => gFma x.st x.h.wd w d) x.w d else d
  mZip (fun d w => gFma x.st (gNeg x.lr) d w) d1 x.w

def momentum (x : UpdIn) (g : Mat) : Mat := mZip (fun m g => gFma x.st x.h.beta1 m g) x.m1 g
def nesterov (x : UpdIn) (m g : Mat) : Mat := if optNesterov x.h then mZip (fun m g => gFma x.st x.h.beta1 m g) m g else m

/-- RULE 1 (R384). -/
def rule1 (x : UpdIn) (g : Mat) : UpdOut :=
  let m := momentum x g
  { w := stepW x (nesterov x m g), m1 := m }

/-- RULE 2 (R385). -/
def rule2 (x : UpdIn) (g : Mat) : UpdOut :=
  let st := x.st
  let om1 := gSub st gOne x.h.beta1
  let om2 := gSub st gOne x.h.beta2
  let bc1 := if optBias x.h then gDiv st gOne (gSub st gOne (gMul st x.b1pow x.h.beta1)) else gOne
  let rb2 := if optBias x.h then gRsqrt st (gSub st gOne (gMul st x.b2pow x.h.beta2)) else gOne
  let m := mZip (fun m g => gFma st x.h.beta1 m (gMul st om1 g)) x.m1 g
  let v0 := if x.narrow then mMap (fun s => gMul st s s) x.m2 else x.m2
  let v := mZip (fun v g => gFma st x.h.beta2 v (gMul st om2 (gMul st g g))) v0 g
  let s := mMap (gSqrt st) v
  let d := mZip (fun m s => gDiv st (gMul st m bc1) (gAdd st (gMul st s rb2) x.h.eps)) m s
  { w := stepW x d, m1 := m, m2 := if x.narrow then s else v }

/-- One Newton–Schulz iteration on X, given with its number of columns: the new X, and the products in order. -/
def nsIter (st : Bool) (h : Hyper) (cols : Nat) (X : Mat) : Mat × List Mat :=
  let A := mMulT X X
  let bA := mMap (gBf st) A
  let AA := mMulT bA (mTrans X.length bA)
  let B := mMap (gBf st) (mZip (gAdd st) (mMap (gMul st h.nsC) AA) (mMap (gMul st h.nsB) A))
  let BX := mMulT B (mTrans cols X)
  (mMap (gBf st) (mZip (gAdd st) (mMap (gMul st h.nsA) X) BX), [A, AA, BX])

def nsRun (st : Bool) (h : Hyper) (cols : Nat) : Nat → Mat × List Mat → Mat × List Mat
  | 0, X => X
  | n + 1, X => let r := nsIter st h cols X.1; nsRun st h cols n (r.1, X.2 ++ r.2)

/-- RULE 3 (R386). -/
def rule3 (rows cols : Nat) (x : UpdIn) (g : Mat) : UpdOut :=
  let st := x.st
  let m := momentum x g
  let u := nesterov x m g
  let r := gDiv st gOne (gAdd st (gSqrt st (mSumSq st u)) x.h.eps)
  let X := mMap (fun v => gBf st (gMul st v r)) u
  let o := if cols < rows then nsRun st x.h rows x.h.iters (mTrans cols X, []) else nsRun st x.h cols x.h.iters (X, [])
  { w := stepW x (if cols < rows then mTrans rows o.1 else o.1), m1 := m, prods := o.2 }

/-- RULE 4 (R387). -/
def rule4 (cols : Nat) (x : UpdIn) (g : Mat) : UpdOut :=
  let st := x.st
  let om2 := gSub st gOne x.h.beta2
  let G := mMap (gBf st) g
  let Gt := mTrans cols G
  let GG := mMulT G G
  let GtG := mMulT Gt Gt
  let sl := mZip (fun s p => gFma st x.h.beta2 s (gMul st om2 p)) x.statL GG
  let sr := mZip (fun s p => gFma st x.h.beta2 s (gMul st om2 p)) x.statR GtG
  let m := momentum x g
  let P := mMulT x.preL (mTrans cols (mMap (gBf st) m))
  let U := mMulT (mMap (gBf st) P) (mTrans cols x.preR)
  { w := stepW x U, m1 := m, statL := sl, statR := sr, prods := [GG, GtG, P, U] }

/-- An update's arithmetic. -/
def ruleRun (t : Tensor) (x : UpdIn) (trained : Nat → Bool) : UpdOut :=
  let g := decayG x trained
  match t.rule with
  | 1 => rule1 x g
  | 2 => rule2 x g
  | 3 => rule3 t.rows t.cols x g
  | _ => rule4 t.cols x g

/-! ### The factor refresh (R389) -/

/-- What one side of a refresh writes: its factor so far and M, and every matrix of the elementwise path and of the matrix unit, in order. -/
structure RefreshOut where
  X : Mat
  M : Mat
  elems : List Mat
  prods : List Mat
deriving DecidableEq, Repr

def refreshIter (st : Bool) (n : Nat) (o : RefreshOut) : RefreshOut :=
  let five := mIdent n 0x40A00000
  let T := mMap (fun v => gMul st v 0x3E800000) (mZip (gSub st) five o.M)
  let Tt := mTrans n T
  let T2 := mMulT T Tt
  let T4 := mMulT T2 (mTrans n T2)
  let X := mMulT o.X Tt
  let M := mMulT T4 (mTrans n o.M)
  { X := X, M := M, elems := o.elems ++ [T], prods := o.prods ++ [X, T2, T4, M] }

def refreshRun (st : Bool) (n : Nat) : Nat → RefreshOut → RefreshOut
  | 0, o => o
  | k + 1, o => refreshRun st n k (refreshIter st n o)

/-- One side's factor before rounding to BF16. -/
def refreshSide (st : Bool) (h : Hyper) (stat : Mat) : RefreshOut :=
  let n := stat.length
  let A := mZip (gAdd st) stat (mIdent n h.eps)
  let c := gSqrt st (mSumSq st A)
  let rc := gDiv st gOne c
  let M := mMap (fun v => gMul st v rc) A
  let X := mIdent n (gDiv st gOne (gSqrt st (gSqrt st c)))
  refreshRun st n h.iters { X := X, M := M, elems := [A, M, X], prods := [] }

end Sys2Proof.Machine
end

