-- ==== Sys2Proof/Machine/Tally.lean ====
section
/-! DEFINITION. The tally (chapter 13): row ownership, open steps, counting, conversion and summation, reduced rows and shard-done messages, norms,
and the decision of a step. -/

namespace Sys2Proof.Machine

def onPackCnt (s : State) (f : PackCnt → PackCnt) : State := onStep s fun t => { t with cnt := f t.cnt }

/-! ### Packs, steps and tensors -/

/-- The pack that names a tensor. -/
def packOf (s : State) (tensor : Nat) : Option Pack := s.step.packs.find? fun p => p.tensors.contains tensor

def onPack (s : State) (id : Nat) (f : Pack → Pack) : State :=
  let g := fun (p : Pack) => if p.id = id then f p else p
  onStep s fun t => { t with packs := t.packs.map g }

def findPS (p : Pack) (step : Nat) : Option PackStep := p.steps.find? fun x => x.step == step
def getPS (s : State) (pack step : Nat) : PackStep := ((findPack s pack).bind fun p => findPS p step).getD { step := step }
/-- Change a step of a pack, opening it when it is not yet. -/
def onPS (s : State) (pack step : Nat) (f : PackStep → PackStep) : State :=
  onPack s pack fun p =>
    if p.steps.any fun x => x.step == step then
      let g := fun (x : PackStep) => if x.step = step then f x else x
      { p with steps := p.steps.map g }
    else { p with steps := p.steps ++ [f { step := step }] }

def getTS (s : State) (pack step tensor : Nat) : TensorStep :=
  ((getPS s pack step).tensors.find? fun x => x.tensor == tensor).getD { tensor := tensor }
def onTS (s : State) (pack step tensor : Nat) (f : TensorStep → TensorStep) : State :=
  onPS s pack step fun x =>
    if x.tensors.any fun y => y.tensor == tensor then
      let g := fun (y : TensorStep) => if y.tensor = tensor then f y else y
      { x with tensors := x.tensors.map g }
    else { x with tensors := x.tensors ++ [f { tensor := tensor }] }

/-- May traffic of a step be accepted (R352)? Steps stand in the order in which they were first seen. -/
def stepAcceptable (p : Pack) (n : Nat) : Bool :=
  match p.lastDecided with
  | some d => n == d + 1 || n == d + 2
  | none => ((p.steps.take 2).any fun x => x.step == n) || decide (p.steps.length < 2)

/-! ### Ownership (R345) -/

def ownLo (rows n m : Nat) : Nat := m * rows / n
def ownerOf (rows n row : Nat) : Nat := ((row + 1) * n - 1) / rows
/-- Rows of a member's shard. -/
def shardRows (rows n m : Nat) : List Nat := natsFrom (ownLo rows n m) (ownLo rows n (m + 1) - ownLo rows n m)
/-- Members that own a row. -/
def owners (rows n : Nat) : List Nat := (List.range n).filter fun m => decide (ownLo rows n m < ownLo rows n (m + 1))

/-- Is a row trained (R183, R376)? -/
def trainedIn (t : Tensor) (bm : List Byte) (r : Nat) : Bool := !tMasked t || bit (getB bm (r / 8)) (r % 8)

/-- The bitmap of a tensor for a step, read once when its contribution begins to arrive (R186). One that cannot be read stands
as empty: no row counts as trained (DESIGN CHOICE, log entry 174). -/
def stepBitmap (s : State) (pack step : Nat) (t : Tensor) : State × List Byte :=
  if !tMasked t then (s, [])
  else
    match (getTS s pack step t.id).bitmap with
    | some b => (s, b)
    | none =>
      match memRead s (t.hyper + 128) (ceilDiv t.rows 8) with
      | (s1, .ok b) => (onTS s1 pack step t.id fun x => { x with bitmap := some b }, b)
      | (s1, .error _) => (onTS s1 pack step t.id fun x => { x with bitmap := some [] }, [])

/-! ### Scales (R355, R356) -/

def tsOf (x : TensorStep) (m : Nat) : Option Int := smGet? x.ts m
/-- Does the owner hold the T of all members? -/
def allTs (p : Pack) (x : TensorStep) : Bool := (List.range p.n).all fun m => (tsOf x m).isSome
def tMax (x : TensorStep) : Int := x.ts.foldl (fun a v => max a v.2) (-126)

/-- Take a member's T from its first message; `false` when it is unlike the first (R355). -/
def takeT (s : State) (pack step tensor m : Nat) (T : Int) : State × Bool :=
  match tsOf (getTS s pack step tensor) m with
  | some v => (s, decide (v = T))
  | none => (onTS s pack step tensor fun x => { x with ts := smIns x.ts m T }, true)

/-! ### Conversion and summation (R357) -/

/-- What one element adds: the integer, and 0 under, 1 non-finite, 2 neither. -/
def tallyElem (shift : Int) (v : FVal) : Int × Nat :=
  match v with
  | .fin neg m e =>
    let k := rneInt m (e + shift)
    (if neg then -(k : Int) else k, if m ≠ 0 ∧ k = 0 then 0 else 2)
  | _ => (0, 1)

/-- Convert one counted row and add it to the accumulators: the members' integers are kept, and summed when the row is complete (R357, log entry 139). -/
def tallyRow (s : State) (pack step tensor : Nat) (r : Staged) : State :=
  let x := getTS s pack step tensor
  let T := (tsOf x r.member).getD 0
  let shift := T - tMax x + 96
  let es := r.vals.map (tallyElem shift)
  let nans := (List.range es.length).filter fun j => (es.getD j (0, 2)).2 == 1
  let s1 := onTS s pack step tensor fun x =>
    { x with accs := smMod [] x.accs r.row fun l => smIns l r.member (es.map (·.1)),
             nanBits := smMod [] x.nanBits r.row fun l => l ++ nans.filter fun j => !l.contains j,
             convd := smMod [] x.convd r.row fun l => l ++ [r.member] }
  onPackCnt s1 fun c =>
    { c with under := satAdd 32 c.under (es.filter fun e => e.2 == 0).length, nonfinite := satAdd 32 c.nonfinite nans.length }

/-- Add one integer to an accumulator, with the count of its saturations (R357): one that passes the bound alone saturates it at once. -/
def tallyPut (a : Int × Nat) (k : Int) : Int × Nat :=
  if tallyMax < k.natAbs then (if k < 0 then -tallyMax else tallyMax, a.2 + 1)
  else
    let c := tallyClamp (a.1 + k)
    (c.1, a.2 + b2n c.2)

/-! ### Reduced rows (R358 to R361) -/

/-- The FP32 code of a reduced element, and how often it adds to TALLY_SAT_CNT: the saturations of its accumulator, and one more for a result beyond the
FP32 range (R357, R358). The members' integers are added in the order of their numbers, and an element that has saturated gives the bound, with the sign
of the exact sum, so that nothing depends on the order of arrival (log entry 139). -/
def reduceElem (lsb : Int) (ks : List Int) : Nat × Nat :=
  let n := (ks.foldl tallyPut (0, 0)).2
  let k := ks.sum
  let m := if n = 0 then k.natAbs else tallyMax.toNat
  if m = 0 then (0, n)
  else
    let b := (fpOfVal f32 (.fin (decide (k < 0)) m lsb)).bits
    if fpIsInf f32 b then (fpSign f32 (decide (k < 0)) (f32.infBits - 1), n + 1) else (b, n)

/-- TAG of the outstanding STEP_FENCE of a pack's step, if any (Table 10.4). -/
def fenceTag (s : State) (x : PackStep) : Option Nat := (x.fence.bind (findSlot s)).map (·.tag)

/-- Has a reduced row been received whole: is it held, or released again (R360, R381)? -/
def rowIn (x : TensorStep) (row : Nat) : Bool := (smGet? x.reduced row).isSome || x.released.contains row

/-- Place a reduced row, or a part of one, in this device's hub (R360): dropped and counted when all of it is already held. -/
def placeReduced (s : State) (pack step : Nat) (t : Tensor) (row col0 : Nat) (vals : List Nat) : State :=
  let x := getTS s pack step t.id
  let held := fun (j : Nat) => rowIn x row ||
    x.redPart.any fun q => q.1 == row && decide (q.2.1 ≤ j ∧ j < q.2.1 + q.2.2.length)
  if (List.range vals.length).all fun j => held (col0 + j) then onPackCnt s fun c => { c with dup := inc32 c.dup }
  else
    let parts := x.redPart ++ [(row, col0, vals)]
    let mine := parts.filter fun q => q.1 == row
    let at_ := fun (j : Nat) => (mine.find? fun q => decide (q.2.1 ≤ j ∧ j < q.2.1 + q.2.2.length)).map fun q => q.2.2.getD (j - q.2.1) 0
    let s1 := onStep s fun u => { u with latchDue := if u.latchDue.contains step then u.latchDue else u.latchDue ++ [step] }
    if (List.range t.cols).all fun j => (at_ j).isSome then
      onTS s1 pack step t.id fun x =>
        { x with reduced := smIns x.reduced row ((List.range t.cols).map fun j => (at_ j).getD 0),
                 redPart := x.redPart.filter fun q => q.1 != row }
    else onTS s1 pack step t.id fun x => { x with redPart := parts }

/-- Multicast a reduced row in messages of at most 2,237 elements (R360, Table 15.7a). -/
def sendReduced (s : State) (p : Pack) (step : Nat) (t : Tensor) (row : Nat) (vals : List Nat) : State :=
  (List.range (ceilDiv vals.length 2237)).foldl (fun s (i : Nat) =>
    let part := (vals.drop (2237 * i)).take 2237
    sendGroup s p t.hub t.hub 5 step t.id (beBytes 4 row ++ beBytes 4 (2237 * i) ++ beBytes 2 part.length ++ beBytes 2 0 ++
      part.flatMap (beBytes 4))) s

/-- Exact square of a finite FP32 code in units of `2 ^ -298`. -/
def sqUnits (b : Nat) : Nat :=
  match fpVal f32 b with
  | .fin _ m e => m * m * 2 ^ (2 * e + 298).toNat
  | _ => 0

/-- Chunk of an element (R362). -/
def chunkOf (t : Tensor) (row col : Nat) : Nat := if t.chunk = 0 then 0 else (row * t.cols + col) / t.chunk

/-- Partial norms with a reduced row of the shard added (R362). -/
def partialAdd (t : Tensor) (q : Partial) (row : Nat) (vals : List Nat) : Partial :=
  { q with
    sumsq := vals.foldl (fun a b => a + sqUnits b) q.sumsq
    nonfinite := q.nonfinite || vals.any (fpIsNan f32)
    chunks := if tClipChunk t then
        (List.range vals.length).foldl (fun l j => smMod 0 l (chunkOf t row j) (· + sqUnits (vals.getD j 0))) q.chunks
      else q.chunks }

/-- The chunks that the trained rows of a shard touch: the first, and how many up to the last (R362). -/
def chunkSpan (t : Tensor) (rows : List Nat) : Nat × Nat :=
  match rows.head?, rows.getLast? with
  | some a, some b => if tClipChunk t then (chunkOf t a 0, chunkOf t b (t.cols - 1) + 1 - chunkOf t a 0) else (0, 0)
  | _, _ => (0, 0)

/-- Keep a member's partial norms. -/
def putPartial (s : State) (pack step tensor : Nat) (q : Partial) : State :=
  onTS s pack step tensor fun x => { x with partials := x.partials.filter (fun y => y.member != q.member) ++ [q] }

/-- Send the shard-done messages of a finished shard: chunk partials in groups of 185, the last message marked (Table 15.7a). -/
def sendShardDone (s : State) (p : Pack) (step : Nat) (t : Tensor) (lsb : Int) (rows : List Nat) (q : Partial) : State :=
  let shift := (lsb + 298).toNat
  let c0 := (chunkSpan t rows).1
  let total := (chunkSpan t rows).2
  let groups := max 1 (ceilDiv total 185)
  (List.range groups).foldl (fun s (i : Nat) =>
    let n := min 185 (total - 185 * i)
    sendGroup s p t.hub t.hub 6 step t.id (beBytes 2 (b2n q.nonfinite + 2 * b2n (i + 1 == groups)) ++ beBytes 2 (wrapN 16 lsb) ++ beBytes 4 n ++
      beBytes 8 (c0 + 185 * i) ++ beBytes 48 (q.sumsq >>> shift) ++ beBytes 8 0 ++
      (List.range n).flatMap fun j => beBytes 48 (smGet 0 q.chunks (c0 + 185 * i + j) >>> shift))) s

/-- Finish the shard of this device when every trained row of it is reduced (R354, R361). Which rows of a MASKED tensor are trained is known once its
bitmap has been read, when its contribution begins to arrive (R186). -/
def shardCheck (s : State) (p : Pack) (step : Nat) (t : Tensor) : State :=
  let x := getTS s p.id step t.id
  let mine := shardRows t.rows p.n p.me
  let rows := mine.filter (trainedIn t (x.bitmap.getD []))
  if x.shardSent || (tMasked t && x.bitmap.isNone && !mine.isEmpty) || !(rows.all fun i => x.doneRows.contains i) then s
  else
    let q := { x.own with member := p.me, last := true }
    let lsb : Int := if rows.isEmpty then -298 else max (2 * (tMax x - 96)) (-298)
    sendShardDone (putPartial (onTS s p.id step t.id fun x => { x with shardSent := true }) p.id step t.id q) p step t lsb rows q

/-- Reduce a row that is complete (R354, R358, R360): each element is rounded once, and a NaN is reported as unit 5. -/
def rowCheck (s : State) (p : Pack) (step : Nat) (t : Tensor) (row : Nat) : State :=
  let x := getTS s p.id step t.id
  if x.doneRows.contains row ∨ (smGet [] x.bits row).length < p.n ∨ (smGet [] x.convd row).length < p.n then s
  else
    let lsb := tMax x - 96
    let nans := smGet [] x.nanBits row
    let es := (List.range t.cols).map fun j =>
      let ks := (smGet [] x.accs row).map fun c => c.2.getD j 0
      if nans.contains j then (nan32c, (ks.foldl tallyPut (0, 0)).2) else reduceElem lsb ks
    let s1 := onPackCnt s fun c => { c with tallySat := satAdd 32 c.tallySat (es.map (·.2)).sum }
    let first := (List.range t.cols).find? fun j => nans.contains j
    let s2 := match first with
      | some j => if x.nanSent then s1
          else nanHub s1 t.hub 5 t.id (row * t.cols + j) step (fenceTag s (getPS s p.id step))
      | none => s1
    let s3 := onTS s2 p.id step t.id fun x =>
      { x with doneRows := x.doneRows ++ [row], accs := smDel x.accs row, nanBits := smDel x.nanBits row,
               nanSent := x.nanSent || first.isSome, own := partialAdd t x.own row (es.map (·.1)) }
    let vals := es.map (·.1)
    shardCheck (sendReduced (placeReduced s3 p.id step t row 0 vals) p step t row vals) p step t
where
  /-- The canonical NaN. -/
  nan32c : Nat := fpCanon f32

/-- Convert what waits in staging for a tensor, once the T of all members is held (R356). -/
def convertStaged (s : State) (p : Pack) (step : Nat) (t : Tensor) : State :=
  let x := getTS s p.id step t.id
  if !allTs p x then s
  else
    let s1 := onTS s p.id step t.id fun x => { x with staged := [] }
    x.staged.foldl (fun s r => rowCheck (tallyRow s p.id step t.id r) p step t r.row) s1

/-- Count a contribution row (R353): 0 counted, 1 duplicate, 2 not owned or untrained. -/
def countRow (s : State) (p : Pack) (step : Nat) (t : Tensor) (r : Staged) : State × Nat :=
  let b := stepBitmap s p.id step t
  let x := getTS b.1 p.id step t.id
  if t.rows ≤ r.row ∨ ownerOf t.rows p.n r.row ≠ p.me ∨ !trainedIn t b.2 r.row then
    (onPackCnt b.1 fun c => { c with unknown := inc32 c.unknown }, 2)
  else if (smGet [] x.bits r.row).contains r.member then (onPackCnt b.1 fun c => { c with dup := inc32 c.dup }, 1)
  else
    let s1 := onPackCnt b.1 fun c => { c with contrib := inc32 c.contrib }
    let s2 := onTS s1 p.id step t.id fun x =>
      { x with bits := smMod [] x.bits r.row fun l => l ++ [r.member], staged := x.staged ++ [r] }
    (s2, 0)

/-! ### Gathering and norms (R361, R363) -/

/-- The trained rows of a tensor in a step, under the bitmap read for it. -/
def trainedRows (x : TensorStep) (t : Tensor) : List Nat := (List.range t.rows).filter (trainedIn t (x.bitmap.getD []))

/-- Has the member gathered the tensor? -/
def gathered (p : Pack) (t : Tensor) (x : TensorStep) : Bool :=
  !x.rowsLost && (!tMasked t || x.bitmap.isSome) && (trainedRows x t).all (rowIn x) &&
  (List.range p.n).all fun m => x.partials.any fun q => q.member == m && q.last

def tensorFlag (x : TensorStep) : Bool := x.partials.any (·.nonfinite)
/-- NORM2 of a tensor, and of a chunk: an exact sum rounded once; the canonical NaN with a non-finite bit set. -/
def norm2Of (flag : Bool) (units : Nat) : Nat := if flag then fpCanon f32 else (fpOfVal f32 (.fin false units (-298))).bits
def tensorNorm2 (x : TensorStep) : Nat := norm2Of (tensorFlag x) (x.partials.foldl (fun a q => a + q.sumsq) 0)
def chunkNorm2 (x : TensorStep) (c : Nat) : Nat := norm2Of (tensorFlag x) (x.partials.foldl (fun a q => a + smGet 0 q.chunks c) 0)
def fpFinite (b : Nat) : Bool := decide (fpMag f32 b < f32.infBits)

/-- Chunk indices of a tensor. -/
def chunksOfTensor (t : Tensor) : List Nat :=
  if tClipChunk t && t.chunk != 0 then List.range (ceilDiv (t.rows * t.cols) t.chunk) else []

/-- Does a gathered tensor make the members skip (R364)? -/
def normBad (t : Tensor) (x : TensorStep) : Bool :=
  tensorFlag x || !fpFinite (tensorNorm2 x) || (chunksOfTensor t).any fun c => !fpFinite (chunkNorm2 x c)

/-- Tensors of a pack with their descriptors. -/
def packTensors (s : State) (p : Pack) : List Tensor := p.tensors.filterMap (findTensor s)
def allGathered (s : State) (p : Pack) (step : Nat) : Bool :=
  (packTensors s p).all fun t => gathered p t (getTS s p.id step t.id)
def anyBad (s : State) (p : Pack) (step : Nat) : Bool :=
  (packTensors s p).any fun t => normBad t (getTS s p.id step t.id)

/-! ### The decision (R366, R367) -/

/-- Decide a step: its decision takes effect at the next boundary (R393). -/
def decideStep (s : State) (pack step : Nat) (commit : Bool) (by_ status detail : Nat) : State :=
  let s1 := onPS s pack step fun x => { x with decision := some (commit, by_, status, detail) }
  trimSends (onPack s1 pack fun p => { p with lastDecided := some step }) pack step

/-- Decide a step when the votes of all members are held (R366). -/
def voteCheck (s : State) (pack step : Nat) : State :=
  match findPack s pack with
  | none => s
  | some p =>
    match findPS p step with
    | none => s
    | some x =>
      if x.decision.isSome ∨ !((List.range p.n).all fun m => x.votes.any fun v => v.1 == m) then s
      else
        let commit := x.votes.all (·.2)
        let s1 := decideStep s pack step commit 0 (if commit then stOk else stStepSkipped) 0
        if commit then s1 else onPackCnt s1 fun c => { c with skip := inc32 c.skip }

/-- This device's own vote, sent and kept (R364). -/
def castVote (s : State) (p : Pack) (step : Nat) (commit timeout : Bool) : State :=
  let hub := ((List.range 6).find? (hubFitted s)).getD 0
  let s1 := sendGroup s p hub 0 7 step 0 (beBytes 1 (b2n commit + 2 * b2n timeout) ++ beBytes 3 0)
  voteCheck (onPS s1 p.id step fun x => { x with votes := x.votes ++ [(p.me, commit)], voted := some commit, votedAt := s.now }) p.id step

end Sys2Proof.Machine
end

