-- ==== Sys2Proof/Machine/Groom.lean ====
section
/-! DEFINITION. The groom engine: state slots, updates from start to finish (R378 to R381, R396 to R398), copy-back, factor refresh (R388), the
regeneration of working copies (R394), and the snapshot copies (R337). -/

namespace Sys2Proof.Machine

def onGroom (s : State) (f : GroomCnt → GroomCnt) : State := onStep s fun x => { x with groom := f x.groom }
def onTensor (s : State) (id : Nat) (f : Tensor → Tensor) : State :=
  let g := fun (t : Tensor) => if t.id = id then f t else t
  onStep s fun x => { x with tensors := x.tensors.map g }

/-! ### Slots (Tables 14.1 to 14.3) -/

/-- The slot that holds the current state: the shadow slot while a copy-back runs, else the home slot (R393). -/
def currentSlot (s : State) (t : Tensor) : Nat :=
  match s.step.copyBacks.find? fun c => c.tensor == t.id with
  | some c => c.shadow
  | none => homeSlot t

/-- Rows of FP32 words at a pitch. -/
def readMat (base pitch cols : Nat) : List Nat → State → MRes Mat
  | [], s => (s, .ok [])
  | i :: is, s => mBind (hubRead s (base + i * pitch) (4 * cols)) fun s1 b =>
      mBind (readMat base pitch cols is s1) fun s2 r => (s2, .ok ((List.range cols).map (fun j => getLe b (4 * j) 4) :: r))

def writeMat (base pitch : Nat) : List (Nat × List Nat) → State → State
  | [], s => s
  | r :: rs, s => writeMat base pitch rs (hubWrite s (base + r.1 * pitch) (r.2.flatMap (leBytes 4)))

/-- Rows of BF16 words, as FP32 codes. -/
def readBf (base pitch cols : Nat) : List Nat → State → MRes Mat
  | [], s => (s, .ok [])
  | i :: is, s => mBind (hubRead s (base + i * pitch) (2 * cols)) fun s1 b =>
      mBind (readBf base pitch cols is s1) fun s2 r =>
        (s2, .ok ((List.range cols).map (fun j => r32 (fpVal bf16 (getLe b (2 * j) 2))) :: r))

def writeBf (base pitch : Nat) : List (Nat × List Nat) → State → State
  | [], s => s
  | r :: rs, s => writeBf base pitch rs (hubWrite s (base + r.1 * pitch) (r.2.flatMap fun v => leBytes 2 (fpOfVal bf16 (fpVal f32 v)).bits))

/-- Rows of a NARROW section: ZB8 stored rows with their scales (R371). -/
def readNarrow (t : Tensor) (base : Nat) : List Nat → State → MRes Mat
  | [], s => (s, .ok [])
  | i :: is, s => mBind (hubRead s (base + i * narrowPitch t) (140 * ceilDiv t.cols 128)) fun s1 b =>
      mBind (hubRead s1 (base + narrowScales t + 4 * i) 4) fun s2 w =>
        mBind (readNarrow t base is s2) fun s3 r =>
          (s3, .ok ((rowElems 11 7 (bytesAt b) b.length t.cols).map (fun v => r32 (fvMul v (fpVal f32 (leNat w)))) :: r))

/-- Largest finite magnitude of a row, as an FP32 code. -/
def rowAmax (r : List Nat) : Nat := r.foldl (fun m v => if finite32 v then max m (fpMag f32 v) else m) 0

/-- The random value of an element under R254 and R255, for a tensor that rounds stochastically. -/
def srFor (t : Tensor) (step row stream : Nat) (j : Nat) : Option Nat :=
  if tSr t then some (srValue step t.id (row * t.cols + j) stream) else none

/-- Write rows of a NARROW section: each is converted as a one-row tensor. -/
def writeNarrow (t : Tensor) (step stream base : Nat) : List (Nat × List Nat) → State → State
  | [], s => s
  | (i, r) :: rs, s =>
    let T := (tensorExp 11 (rowAmax r)).1
    let o := convRow ⟨11, 7, 2, 4, 2 * ceilDiv t.cols 128, t.cols⟩ T (srFor t step i stream) (r.map (fpVal f32))
    writeNarrow t step stream base rs
      (hubWrite (hubWrite s (base + i * narrowPitch t) o.1) (base + narrowScales t + 4 * i) (leBytes 4 (r32 (.fin false 1 T))))

def readMoment (s : State) (t : Tensor) (base : Nat) (rows : List Nat) : MRes Mat :=
  if tWide t then readMat base (pitchP t.cols 4) t.cols rows s else readNarrow t base rows s
def writeMoment (s : State) (t : Tensor) (step stream base : Nat) (rs : List (Nat × List Nat)) : State :=
  if tWide t then writeMat base (pitchP t.cols 4) rs s else writeNarrow t step stream base rs s

/-- Copy a row of a moment section byte for byte (R380). -/
def copyMomentRow (s : State) (t : Tensor) (from_ dst i : Nat) : MRes Unit :=
  let p := if tWide t then pitchP t.cols 4 else narrowPitch t
  mBind (hubRead s (from_ + i * p) p) fun s1 b =>
    let s2 := hubWrite s1 (dst + i * p) b
    if tWide t then (s2, .ok ())
    else mBind (hubRead s2 (from_ + narrowScales t + 4 * i) 4) fun s3 w => (hubWrite s3 (dst + narrowScales t + 4 * i) w, .ok ())

/-- Copy an untrained row of every section that holds rows (R380). -/
def copyRows (t : Tensor) (cur sh : Nat) : List Nat → State → MRes Unit
  | [], s => (s, .ok ())
  | i :: is, s =>
    let p := pitchP t.cols 4
    mBind (hubRead s (cur + masterOff + i * p) p) fun s1 b =>
      mBind (copyMomentRow (hubWrite s1 (sh + masterOff + i * p) b) t (cur + m1Off t) (sh + m1Off t) i) fun s2 _ =>
        mBind (if t.rule = 2 then copyMomentRow s2 t (cur + m2Off t) (sh + m2Off t) i else (s2, .ok ())) fun s3 _ => copyRows t cur sh is s3

/-- Write the tensor header's words. -/
def putHeader (s : State) (t : Tensor) (off : Nat) (len v : Nat) : State := hubWrite s (t.master + off) (leBytes len v)
/-- Read a word of the tensor header, or of a slot; an error that the read meets is handled and counted (R305), and with no data the word reads as 0. -/
def readWord (s : State) (a len : Nat) : State × Nat :=
  match hubRead s a len with
  | (s1, .ok b) => (s1, leNat b)
  | (s1, .error _) => (s1, 0)
def readHeader (s : State) (t : Tensor) (off len : Nat) : State × Nat := readWord s (t.master + off) len

/-- The largest finite magnitude in MASTER of a slot. -/
def masterAmax (w : Mat) : Nat := w.foldl (fun m r => max m (rowAmax r)) 0

/-- Write a slot header (Table 14.3, R381). -/
def putSlotHeader (s : State) (slot step count b1 b2 amax : Nat) : State :=
  hubWrite s slot (leBytes 8 step ++ leBytes 4 count ++ leBytes 4 b1 ++ leBytes 4 b2 ++ leBytes 4 amax ++ zeroBytes 40)

/-! ### Space (R391, R392, Table 14.6) -/

def mib : Nat := 1048576
/-- Groom space of a hub in bytes. -/
def groomSpace (s : State) (k : Nat) : Nat := (cfgReserveMib s k - 64) * mib
def heldMode (t : Tensor) (h : Hyper) : Bool := decide (2 < t.rule) || !fpIsZero f32 h.clip
/-- F of Table 14.6. -/
def updFootprint (t : Tensor) (h : Hyper) : Nat :=
  let rc := t.rows * t.cols
  let k := min t.rows t.cols
  (if !heldMode t h then 0
   else if t.rule ≤ 2 then 4 * rc
   else if t.rule = 3 then 12 * rc + 8 * k * k
   else 10 * rc + 2 * (t.rows * t.rows + t.cols * t.cols)) + 4 * mib
/-- Space a refresh needs (R391). -/
def refreshFootprint (t : Tensor) : Nat := 16 * max t.rows t.cols * max t.rows t.cols + 4 * mib

/-- Updates that run, with their packs and steps. -/
def runningUpdates (s : State) : List (Pack × PackStep × Update) :=
  s.step.packs.flatMap fun p => p.steps.flatMap fun x => (x.updates.filter fun u => u.phase == .running).map fun u => (p, x, u)
def hubOfUpdate (s : State) (u : Update) : Nat := ((findTensor s u.tensor).map (·.hub)).getD 0
/-- Space that running updates hold on a hub. -/
def spaceUsed (s : State) (k : Nat) : Nat :=
  (((runningUpdates s).filter fun r => hubOfUpdate s r.2.2 == k).map fun r => r.2.2.footprint).sum
/-- FREE_MIB of Table 14.9. -/
def freeMib (s : State) (k : Nat) : Nat := (groomSpace s k - spaceUsed s k) / mib

/-! ### Shadow extents (R374, R375) -/

/-- Does the extent lie in the hub's window below the parity limit? -/
def extentOk (s : State) (k : Nat) (e : Nat × Nat) : Bool :=
  decide (k * hubWindow s ≤ e.1) && decide (e.1 + e.2 ≤ k * hubWindow s + privLimit s * 2048)

/-- Shadow slots of the tensors of a pack on a hub, in the table's order: tensor and address. -/
def shadowPlan (s : State) (p : Pack) (k : Nat) : List (Nat × Nat) :=
  let e := p.extents.getD k (0, 0)
  if !extentOk s k e then []
  else
    (((packTensors s p).filter fun t => t.hub == k).foldl (fun (r : Nat × List (Nat × Nat)) t =>
      if r.1 + sslotLen t ≤ e.2 then (r.1 + sslotLen t, r.2 ++ [(t.id, e.1 + r.1)]) else r) (0, [])).2

/-- Do the extents of two packs on a hub overlap? -/
def extentsMeet (p q : Pack) (k : Nat) : Bool :=
  let a := p.extents.getD k (0, 0)
  let b := q.extents.getD k (0, 0)
  decide (a.1 < b.1 + b.2) && decide (b.1 < a.1 + a.2)

/-- Is an extent that overlaps the pack's on a hub busy with another pack? -/
def extentBusy (s : State) (p : Pack) (k : Nat) : Bool :=
  s.step.packs.any fun q => q.id != p.id && extentsMeet p q k &&
    ((q.steps.any fun x => !x.applied && x.updates.any fun u => u.shadow.isSome && hubOfUpdate s u == k) ||
     s.step.copyBacks.any fun c => c.pack == q.id && (((findTensor s c.tensor).map (·.hub)).getD 6) == k)

/-! ### Failure (R397, R398) -/

def onUpdate (s : State) (pack step tensor : Nat) (f : Update → Update) : State :=
  onPS s pack step fun x =>
    let g := fun (u : Update) => if u.tensor = tensor then f u else u
    { x with updates := x.updates.map g }

/-- Has the pack decided to commit the step? -/
def committed (x : PackStep) : Bool := match x.decision with | some d => d.1 | none => false

/-- Report a NaN of a hub unit, when there is one (R269). -/
def reportHub (s : State) (unit : Nat) (t : Tensor) (step : Nat) (tag : Option Nat) (e : Option Nat) : State :=
  match e with
  | some i => nanHub s t.hub unit t.id i step tag
  | none => s

/-- An update in row mode ends, whether it has finished, has failed or is stopped: the first NaN of the rows it has written is reported, once (R269). -/
def reportRows (s : State) (p : Pack) (x : PackStep) (t : Tensor) : State :=
  match (getPS s p.id x.step).updates.find? fun u => u.tensor == t.id with
  | some u =>
    if u.nan.isNone || u.nanSent then s
    else onUpdate (reportHub s 6 t x.step (fenceTag s x) u.nan) p.id x.step t.id fun u => { u with nanSent := true }
  | none => s

/-- The running updates of a pack's tensor end with it: what their rows have written is reported first. -/
def reportEnds (s : State) (p : Pack) (tensor : Nat) : State :=
  match findTensor s tensor with
  | some t => p.steps.foldl (fun s x => if x.updates.any (fun u => u.tensor == tensor && u.phase == .running) then reportRows s p x t else s) s
  | none => s

/-- Record a failed update; one that fails after the pack's decision to commit leaves a divergence. -/
def groomFail (s : State) (p : Pack) (x : PackStep) (t : Tensor) (cause : Nat) : State :=
  let late := committed x
  let s1 := onUpdate (reportRows s p x t) p.id x.step t.id fun u => { u with phase := .failed cause, late := late }
  onGroom s1 fun g =>
    { g with fail := inc32 g.fail, diverge := if late then inc32 g.diverge else g.diverge, lastTensor := t.id, lastCause := cause,
             lastHub := t.hub, lastDiverged := late, lastStep := x.step }

/-! ### Start (R378) -/

/-- Does the hub's groom engine work: the hub is there, and it is not paced (R57; log entry 179)? -/
def hubServed (s : State) (k : Nat) : Bool := hubFitted s k && !s.tick.pacedTeams.contains (256 + k)

/-- May the update of a tensor for a step begin: not yet begun, or to be run again after a commit by the fallback, and has a row arrived? -/
def updOpen (t : Tensor) (x : PackStep) : Bool :=
  !x.applied && (match x.decision with | some d => d.1 | none => true) &&
    (match x.updates.find? fun u => u.tensor == t.id with
      | none => true
      | some u => (match u.phase with | .failed _ => x.decision.isSome && !u.late | _ => false)) &&
    (match x.tensors.find? fun y => y.tensor == t.id with
      | some y => !y.reduced.isEmpty || !y.released.isEmpty
      | none => false)

/-- The step of a tensor's pack whose update may begin: the lowest of them, for steps can become known out of order (R352). -/
def updDue (p : Pack) (t : Tensor) : Option PackStep :=
  (p.steps.filter (updOpen t)).foldl (fun m x => match m with | some y => if x.step < y.step then some x else m | none => some x) none

/-- Does a commit that waits for class Q units keep the hub from new updates (R92)? -/
def hubHeld (s : State) (k : Nat) : Bool :=
  match s.mp.commit with
  | some (_, some _) =>
    shWords.any fun w => (w.cls == .groom k || w.cls == .eth k) && cfgGet s.cfg.shadow w.addr != cfgGet s.cfg.active w.addr
  | _ => false

/-- The hub works, no commit holds it, every earlier step decided and applied, no copy-back of the tensor, and the work of R372 done. -/
def updReady (s : State) (p : Pack) (t : Tensor) (n : Nat) : Bool :=
  hubServed s t.hub && !hubHeld s t.hub && (p.steps.all fun y => decide (n ≤ y.step) || y.applied) &&
  (match p.lastDecided with | some d => decide (n ≤ d + 1) | none => true) && !(s.step.copyBacks.any fun c => c.tensor == t.id) &&
  t.refreshes.all fun j => j.step.isSome

/-- Must the update wait for a refresh of step `s` with `s + 2 ≤ n`, one that starts at the next boundary included (R388)? -/
def waitsFactor (t : Tensor) (n : Nat) : Bool :=
  (t.refreshes.any fun j => match j.step with | some r => decide (r + 2 ≤ n) | none => false) || t.refreshNext.any fun r => decide (r + 2 ≤ n)

/-- A finished refresh comes into use when the update of a step two later begins (R388). -/
def flipFactors (s : State) (t : Tensor) (n : Nat) : State :=
  match t.refreshed with
  | some r =>
    if r + 2 ≤ n then
      let st := readHeader s t 0 8
      let s1 := putHeader st.1 t 0 8 ((st.2 ^^^ 2) ||| 4)
      onTensor (putHeader s1 t 16 8 r) t.id fun t => { t with refreshed := none }
    else s
  | none => s

/-- Causes that stop an update at its start (Table 14.8). -/
def startCause (s : State) (t : Tensor) (h : Option Hyper) (shadow : Option Nat) (n : Nat) : Option Nat :=
  if t.check6 then some 6
  else if t.lostState then some 2
  else
    match h with
    | none => some 5
    | some h =>
      if !hyperOk t h ∨ (lrFor h n).isNone then some 5
      else if groomSpace s t.hub < updFootprint t h then some 3
      else if shadow.isNone then some 4
      else none

/-- Begin, or fail at once; one that is run again keeps the rows whose shadow writes have completed (R396, R398). -/
def beginUpdate (s : State) (p : Pack) (x : PackStep) (t : Tensor) (strict : Bool) : State :=
  let bm := stepBitmap s p.id x.step t
  let hy : State × Option (List Byte) := match memRead bm.1 t.hyper 128 with
    | (s1, .ok b) => (s1, some b)
    | (s1, .error _) => (s1, none)
  let shadow := (shadowPlan s p t.hub).find? fun q => q.1 == t.id
  let h := hy.2.map hyperOf
  let before := x.updates.find? fun v => v.tensor == t.id
  let u : Update := { tensor := t.id, shadow := shadow.map (·.2), phase := .running, hyper := hy.2.getD [], bitmap := bm.2, strict := strict,
                      footprint := (h.map (updFootprint t)).getD 0, late := committed x, written := (before.map (·.written)).getD [],
                      amax := (before.map (·.amax)).getD 0, nan := before.bind (·.nan),
                      nanSent := (before.map (·.nanSent)).getD false }
  let put := fun (s : State) => onPS s p.id x.step fun y => { y with updates := y.updates.filter (fun v => v.tensor != t.id) ++ [u] }
  match startCause hy.1 t h (shadow.map (·.2)) x.step with
  | some c => groomFail (protUpdate (put hy.1)) p x t c
  | none =>
    if groomSpace hy.1 t.hub < spaceUsed hy.1 t.hub + u.footprint then hy.1
    else flipFactors (protUpdate (put hy.1)) t x.step

/-- UPDATE_START. -/
def execUpdateStart (tensor : W32) (s : State) : Out :=
  match findTensor s tensor.toNat, packOf s tensor.toNat with
  | some t, some p =>
    match updDue p t with
    | none => .next s
    | some x =>
      match s.step.latched.find? fun l => l.1 == x.step with
      | none => .next s
      | some l =>
        if !updReady s p t x.step then .next s
        else if waitsFactor t x.step then
          (if x.waitedFactor.contains t.id then .next s
           else .next (onGroom (onPS s p.id x.step fun y => { y with waitedFactor := y.waitedFactor ++ [t.id] }) fun g =>
             { g with waitFactor := inc32 g.waitFactor }))
        else if extentBusy s p t.hub then
          (if x.waitedShadow.contains t.id then .next s
           else .next (onGroom (onPS s p.id x.step fun y => { y with waitedShadow := y.waitedShadow ++ [t.id] }) fun g =>
             { g with waitShadow := inc32 g.waitShadow }))
        else .next (beginUpdate s p x t l.2)
  | _, _ => .next s

/-! ### Finish (R379 to R387) -/

/-- Clipped gradient of rows, untrained ones 0. -/
def gradient (u : Update) (t : Tensor) (x : TensorStep) (h : Hyper) (rows : List Nat) : Mat :=
  let st := u.strict
  let whole := clipFactor st h.clip (tensorNorm2 x)
  rows.map fun i =>
    if !trainedIn t u.bitmap i then List.replicate t.cols 0
    else
      let r := (smGet? x.reduced i).getD []
      (List.range t.cols).map fun j =>
        let c := if tClipChunk t && t.chunk != 0 then clipFactor st h.clip (chunkNorm2 x ((i * t.cols + j) / t.chunk)) else whole
        gMul st (r.getD j 0) c

/-- The factors in use, or the identity (R389). -/
def readFactors (s : State) (t : Tensor) : MRes (Mat × Mat) :=
  mBind (hubRead s t.master 8) fun s1 b =>
    let w := leNat b
    if bit w 2 then
      let f := factorSlot t (b2n (bit w 1))
      mBind (readBf f (pitchP t.rows 2) t.rows (List.range t.rows) s1) fun s2 l =>
        mBind (readBf (f + preROff t) (pitchP t.cols 2) t.cols (List.range t.cols) s2) fun s3 r => (s3, .ok (l, r))
    else (s1, .ok (mIdent t.rows gOne, mIdent t.cols gOne))

/-- Read everything that an update of some rows needs from the current slot. -/
def readUpdIn (s : State) (t : Tensor) (u : Update) (x : TensorStep) (step : Nat) (rows : List Nat) : MRes (UpdIn × Nat) :=
  let h := hyperOf u.hyper
  let cur := currentSlot s t
  mBind (hubRead s cur 64) fun s1 hd =>
    mBind (readMat (cur + masterOff) (pitchP t.cols 4) t.cols rows s1) fun s2 w =>
      mBind (readMoment s2 t (cur + m1Off t) rows) fun s3 m1 =>
        mBind (if t.rule = 2 then readMoment s3 t (cur + m2Off t) rows else (s3, .ok [])) fun s4 m2 =>
          mBind (if t.rule = 4 then readMat (cur + statLOff t) (pitchP t.rows 4) t.rows (List.range t.rows) s4 else (s4, .ok [])) fun s5 sl =>
            mBind (if t.rule = 4 then readMat (cur + statROff t) (pitchP t.cols 4) t.cols (List.range t.cols) s5 else (s5, .ok [])) fun s6 sr =>
              mBind (if t.rule = 4 then readFactors s6 t else (s6, .ok ([], []))) fun s7 f =>
                (s7, .ok (⟨u.strict, !tWide t, h, (lrFor h step).getD 0, getLe hd 12 4, getLe hd 16 4, gradient u t x h rows, w, m1, m2, sl, sr,
                          f.1, f.2⟩, getLe hd 8 4))

/-- Rows of a matrix that are trained, with their numbers: row `i` of the matrix is the row that `rows` gives. -/
def trainedPairs (t : Tensor) (u : Update) (rows : List Nat) (m : Mat) : List (Nat × List Nat) :=
  (List.zip rows m).filter fun r => trainedIn t u.bitmap r.1
def allPairs (m : Mat) : List (Nat × List Nat) := (List.range m.length).map fun i => (i, m.getD i [])

/-- First NaN of numbered rows, as an element number. -/
def pairsNan (cols : Nat) (rs : List (Nat × List Nat)) : Option Nat :=
  (rs.flatMap fun r => (List.range r.2.length).filterMap fun j =>
    if fpIsNan f32 (r.2.getD j 0) then some (r.1 * cols + j) else none).head?

/-- First NaN of a matrix, numbered by its own rows and columns (log entry 142). -/
def matNan (m : Mat) : Option Nat := pairsNan ((m.headD []).length) (allPairs m)
/-- First NaN of matrices in the order in which a unit writes them. -/
def matsNan (ms : List Mat) : Option Nat := ms.findSome? matNan

/-- Least element number of some optional ones. -/
def optMin (a b : Option Nat) : Option Nat :=
  match a, b with
  | some x, some y => some (min x y)
  | some x, none => some x
  | none, y => y

/-- Write the rows of an update's results that are trained (R381). -/
def writeRows (s : State) (t : Tensor) (u : Update) (step sh : Nat) (rows : List Nat) (o : UpdOut) : State :=
  let s1 := writeMat (sh + masterOff) (pitchP t.cols 4) (trainedPairs t u rows o.w) s
  let s2 := writeMoment s1 t step 1 (sh + m1Off t) (trainedPairs t u rows o.m1)
  if t.rule = 2 then writeMoment s2 t step 2 (sh + m2Off t) (trainedPairs t u rows o.m2) else s2

/-- First NaN of the rows that an update of some rows writes. -/
def rowsNan (t : Tensor) (u : Update) (rows : List Nat) (o : UpdOut) : Option Nat :=
  let f := fun (m : Mat) => pairsNan t.cols (trainedPairs t u rows m)
  optMin (f o.w) (optMin (f o.m1) (f o.m2))

/-- Largest finite magnitude of the MASTER of some rows. -/
def pairsAmax (rs : List (Nat × List Nat)) : Nat := rs.foldl (fun m r => max m (rowAmax r.2)) 0

/-- Copy the untrained rows and write the slot header: the shadow slot is then complete (R380, R381). -/
def sealShadow (s : State) (t : Tensor) (u : Update) (sh step count b1 b2 amax : Nat) : MRes Unit :=
  let untrained := (List.range t.rows).filter fun i => !trainedIn t u.bitmap i
  mBind (copyRows t (currentSlot s t) sh untrained s) fun s1 _ =>
    mBind (readMat (sh + masterOff) (pitchP t.cols 4) t.cols untrained s1) fun s2 w =>
      (putSlotHeader s2 sh step ((count + 1) % 2 ^ 32) b1 b2 (max amax (masterAmax w)), .ok ())

/-- Write the whole shadow slot: held mode (R379 to R381). -/
def writeShadow (s : State) (t : Tensor) (u : Update) (step count : Nat) (x : UpdIn) (o : UpdOut) : MRes Unit :=
  let sh := u.shadow.getD 0
  let rows := List.range t.rows
  let s1 := writeRows s t u step sh rows o
  let s2 := if t.rule = 4 then
      writeMat (sh + statROff t) (pitchP t.cols 4) (allPairs o.statR) (writeMat (sh + statLOff t) (pitchP t.rows 4) (allPairs o.statL) s1)
    else s1
  sealShadow s2 t u sh step count (gMul u.strict x.b1pow x.h.beta1) (gMul u.strict x.b2pow x.h.beta2) (pairsAmax (trainedPairs t u rows o.w))

/-- May the update finish: all its trained rows have arrived, and in held mode the tensor is gathered (R379)? -/
def canFinish (p : Pack) (t : Tensor) (u : Update) (x : TensorStep) : Bool :=
  if heldMode t (hyperOf u.hyper) then gathered p t x
  else !x.rowsLost && ((List.range t.rows).filter (trainedIn t u.bitmap)).all (rowIn x)

/-- The running update of a tensor. -/
def runningOf (s : State) (tensor : Nat) : Option (Pack × PackStep × Update) := (runningUpdates s).find? fun r => r.2.2.tensor == tensor

/-- What this device holds of a tensor in a step. -/
def tensorStepOf (x : PackStep) (t : Tensor) : TensorStep := (x.tensors.find? fun y => y.tensor == t.id).getD { tensor := t.id }

/-- A read that cannot be rebuilt fails an update with cause 2. -/
def updLost (s : State) (p : Pack) (x : PackStep) (t : Tensor) : State :=
  groomFail (onTensor s t.id fun t => { t with lostState := true }) p x t 2

/-- The update is finished: what its reduced rows held is free (R381). -/
def updDone (s : State) (p : Pack) (x : PackStep) (t : Tensor) : State :=
  let s1 := onTS s p.id x.step t.id fun y =>
    { y with released := y.released ++ (y.reduced.map (·.1)).filter (fun r => !y.released.contains r), reduced := [] }
  onUpdate s1 p.id x.step t.id fun u => { u with phase := .finished }

/-- Run an update in held mode from start to end. The elementwise path reports the first NaN of its rows, else of the statistics; the matrix unit the
first of its products in order (R269, log entry 142). -/
def finishHeld (s : State) (p : Pack) (x : PackStep) (u : Update) (t : Tensor) : State :=
  match readUpdIn s t u (tensorStepOf x t) x.step (List.range t.rows) with
  | (s1, .error _) => updLost s1 p x t
  | (s1, .ok q) =>
    let o := ruleRun t q.1 (trainedIn t u.bitmap)
    let w := writeShadow s1 t u x.step q.2 q.1 o
    let tag := fenceTag w.1 x
    let e6 := match rowsNan t u (List.range t.rows) o with | some e => some e | none => matsNan [o.statL, o.statR]
    let s2 := reportHub (reportHub w.1 6 t x.step tag e6) 7 t x.step tag (matsNan o.prods)
    match w.2 with
    | .error _ => updLost s2 p x t
    | .ok _ => updDone s2 p x t

/-- Update one row in row mode and release it (R379, R381). -/
def updateRow (s : State) (p : Pack) (x : PackStep) (u : Update) (t : Tensor) (i : Nat) : State :=
  match readUpdIn s t u (tensorStepOf x t) x.step [i] with
  | (s1, .error _) => updLost s1 p x t
  | (s1, .ok q) =>
    let o := ruleRun t q.1 fun _ => true
    let s2 := writeRows s1 t u x.step (u.shadow.getD 0) [i] o
    let s3 := onTS s2 p.id x.step t.id fun y => { y with reduced := smDel y.reduced i, released := y.released ++ [i] }
    onUpdate s3 p.id x.step t.id fun v =>
      { v with written := v.written ++ [i], amax := max v.amax (masterAmax o.w), nan := optMin v.nan (rowsNan t u [i] o) }

/-- The update of a tensor, when it runs in row mode on a hub that is there and its rows are intact. -/
def rowModeOf (s : State) (tensor : Nat) : Option (Pack × PackStep × Update × Tensor) :=
  match runningOf s tensor, findTensor s tensor with
  | some (p, x, u), some t =>
    if heldMode t (hyperOf u.hyper) || !hubServed s t.hub || (tensorStepOf x t).rowsLost then none else some (p, x, u, t)
  | _, _ => none

/-- Update the rows of a tensor that have arrived, while its update runs in row mode. -/
def updateRows (s : State) (tensor : Nat) : State :=
  match rowModeOf s tensor with
  | none => s
  | some (_, x, _, t) =>
    ((tensorStepOf x t).reduced.map (·.1)).foldl (fun s i =>
      match rowModeOf s tensor with
      | some (p, x, u, t) => updateRow s p x u t i
      | none => s) s

/-- The groom engine's work of a ck: every update in row mode takes the rows that have arrived (R379). -/
def groomRows (s : State) : State := ((runningUpdates s).map fun r => r.2.2.tensor).foldl updateRows s

/-- End an update in row mode, all of whose trained rows are written. -/
def finishRows (s : State) (p : Pack) (x : PackStep) (u : Update) (t : Tensor) : State :=
  let h := hyperOf u.hyper
  let r := mBind (hubRead s (currentSlot s t) 64) fun s1 hd =>
    sealShadow s1 t u (u.shadow.getD 0) x.step (getLe hd 8 4) (gMul u.strict (getLe hd 12 4) h.beta1) (gMul u.strict (getLe hd 16 4) h.beta2) u.amax
  match r with
  | (s1, .error _) => updLost s1 p x t
  | (s1, .ok _) => updDone (reportRows s1 p x t) p x t

/-- Run an update to its end. -/
def finishUpdate (s : State) (p : Pack) (x : PackStep) (u : Update) (t : Tensor) : State :=
  if heldMode t (hyperOf u.hyper) then finishHeld s p x u t
  else
    let s1 := updateRows s t.id
    match runningOf s1 t.id with
    | some (p, x, u) => finishRows s1 p x u t
    | none => s1

/-- UPDATE_FINISH. -/
def execUpdateFinish (tensor : W32) (s : State) : Out :=
  match runningOf s tensor.toNat, findTensor s tensor.toNat with
  | some (p, x, u), some t =>
    .next (if hubServed s t.hub && canFinish p t u (tensorStepOf x t) then finishUpdate s p x u t else s)
  | _, _ => .next s

/-- UPDATE_INTERRUPT (R396, R397). -/
def execUpdateInterrupt (tensor : W32) (cause : Interrupt) (s : State) : Out :=
  match runningOf s tensor.toNat, findTensor s tensor.toNat with
  | some (p, x, _), some t =>
    let rerun := fun (s : State) => onGroom s fun g => { g with rerun := inc32 g.rerun }
    match cause with
    | .restart => .next (rerun s)
    | .sramError false => .next (rerun s)
    | .sramError true => .next (groomFail (onTS s p.id x.step t.id fun y => { y with rowsLost := true }) p x t 1)
    | .stateLost => .next (groomFail (onTensor s t.id fun t => { t with lostState := true }) p x t 2)
  | _, _ => .next s

/-! ### Copy-back (R393) -/

/-- COPYBACK_DONE: the home slot holds the shadow slot's state; LOC and SHADOW return to 0. A copy-back that cannot read the shadow slot restarts. -/
def execCopybackDone (tensor : W32) (s : State) : Out :=
  match s.step.copyBacks.find? fun c => c.tensor == tensor.toNat, findTensor s tensor.toNat with
  | some c, some t =>
    if !hubServed s t.hub then .next s else
    match hubRead s c.shadow (sslotLen t) with
    | (s1, .error _) => .next s1
    | (s1, .ok b) =>
      let s2 := hubWrite s1 (homeSlot t) b
      let st := readHeader s2 t 0 8
      let s3 := putHeader (putHeader st.1 t 0 8 (st.2 - st.2 % 2)) t 8 8 0
      .next (protUpdate (onStep s3 fun x => { x with copyBacks := x.copyBacks.filter fun y => y.tensor != t.id }))
  | _, _ => .next s

/-! ### Factor refresh (R388, R389) -/

/-- What a refresh reads when it starts: the tensor's hyperparameter block and the statistics of its current slot; none when a read fails. -/
def refreshInputs (s : State) (t : Tensor) : State × Option (List Byte × Mat × Mat) :=
  let cur := currentSlot s t
  match mBind (memRead s t.hyper 128) fun s1 hb =>
    mBind (readMat (cur + statLOff t) (pitchP t.rows 4) t.rows (List.range t.rows) s1) fun s2 sl =>
      mBind (readMat (cur + statROff t) (pitchP t.cols 4) t.cols (List.range t.cols) s2) fun s3 sr => (s3, .ok (hb, sl, sr)) with
  | (s1, .ok v) => (s1, some v)
  | (s1, .error _) => (s1, none)

/-- A refresh starts: it holds what it has read, and waits for the matrix unit (R388). -/
def startRefresh (s : State) (t : Tensor) (step : Option Nat) : State :=
  let r := refreshInputs s t
  onTensor r.1 t.id fun t => { t with refreshes := t.refreshes ++ [⟨step, r.2⟩] }

/-- Arithmetic mode of a refresh: the one latched for its step (R267). -/
def refreshStrict (s : State) (step : Option Nat) : Bool :=
  match step.bind fun n => s.step.latched.find? fun l => l.1 == n with
  | some l => l.2
  | none => cfgStrict s 3

/-- Write the factors that a refresh has built: into slot 0 at the definition, else into the slot not in use. -/
def writeFactors (s : State) (t : Tensor) (step : Option Nat) (L R : Mat) : State :=
  let st := readHeader s t 0 8
  let slot := match step with | none => 0 | some _ => 1 - b2n (bit st.2 1)
  let f := factorSlot t slot
  let s1 := writeBf (f + preROff t) (pitchP t.cols 2) (allPairs R) (writeBf f (pitchP t.rows 2) (allPairs L) st.1)
  match step with
  | none => putHeader s1 t 0 8 (st.2 ||| 4)
  | some n => onTensor s1 t.id fun t => { t with refreshed := some n }

/-- Run the refresh that a tensor has waiting longest. Its NaNs are reported whether or not it is discarded (R269, R389). -/
def runRefresh (s : State) (t : Tensor) : State :=
  match t.refreshes with
  | [] => s
  | j :: rest =>
    let s0 := onTensor s t.id fun t => { t with refreshes := rest }
    let discard := fun (s : State) => onGroom s fun g => { g with factorBad := inc32 g.factorBad }
    match j.inputs with
    | none => discard s0
    | some (hb, sl, sr) =>
      if groomSpace s t.hub < refreshFootprint t then discard s0
      else
        let strict := refreshStrict s j.step
        let L := refreshSide strict (hyperOf hb) sl
        let R := refreshSide strict (hyperOf hb) sr
        let n := j.step.getD 0
        let tag := (packOf s t.id).bind fun p => fenceTag s (getPS s p.id n)
        let s1 := reportHub (reportHub s0 6 t n tag (matsNan (L.elems ++ R.elems))) 7 t n tag (matsNan (L.prods ++ R.prods))
        if !((L.X ++ R.X).all fun r => r.all finite32) then discard s1 else writeFactors s1 t j.step L.X R.X

/-- May the refresh that waits longest write the factor slot not in use? A refresh built before has come into use, or no update that would use it can
begin any more, since the step after the due one is decided (R388). -/
def refreshFree (s : State) (t : Tensor) : Bool :=
  match t.refreshes, t.refreshed with
  | [], _ => false
  | _ :: _, none => true
  | j :: _, some _ =>
    match j.step with
    | none => true
    | some n => match (packOf s t.id).bind (·.lastDecided) with | some d => decide (n + 1 ≤ d) | none => false

/-- FACTOR_REFRESH: when the hub's matrix unit has no update to run, and the factor slot is free. -/
def execFactorRefresh (tensor : W32) (s : State) : Out :=
  match findTensor s tensor.toNat with
  | none => .next s
  | some t =>
    let busy := (runningUpdates s).any fun r => hubOfUpdate s r.2.2 == t.hub &&
      (match findTensor s r.2.2.tensor with | some v => decide (2 < v.rule) | none => false)
    .next (if refreshFree s t ∧ !busy ∧ hubServed s t.hub then runRefresh s t else s)

/-! ### Regeneration (R394) and snapshots (R337) -/

/-- Slot of the current epoch (R314). -/
def epochSlot (t : Tensor) : Nat := t.switches % 2

/-- One element of a working copy without blocks: code, and whether it saturated. -/
def plainEncode (fmt : Nat) (u : Option Nat) (v : FVal) : Nat × Bool :=
  match u, v with
  | some u, .fin neg _ _ =>
    if fmt = 0 then (let r := drainElem 0 v; if r.1 % 2 ^ 31 = 0 then (0, r.2) else r)
    else if fmt = 1 ∨ fmt = 2 then
      let f := if fmt = 1 then bf16 else f16
      let b := srRound f u v
      if fpIsInf f b then (fpSign f neg (f.infBits - 1), true) else (b, false)
    else
      let q := magQ v
      let r := encodeMag fmt (some u) q.1 q.2
      (if r.1 = 0 then 0 else r.1 + (if neg then 0x80 else 0), r.2)
  | _, _ => drainElem fmt v

/-- A row of a working copy: bytes, counts, and the first NaN it holds. -/
def workRow (t : Tensor) (h : Hyper) (T : Int) (u : Nat → Option Nat) (xs : List FVal) : List Byte × ConvCount × Option Nat :=
  if isBlockFmt t.fmt then
    let r := convRow ⟨t.fmt, t.log2, h.escMax, h.outShift, h.pool, t.cols⟩ T u xs
    (r.1, r.2, (rowElems t.fmt t.log2 (bytesAt r.1) r.1.length t.cols).findIdx? fvIsNan)
  else
    let cs := (List.range xs.length).map fun j => plainEncode t.fmt (u j) (fvScale (-T) (xs.getD j .nan))
    let dec := cs.map fun c => plainDecode t.fmt c.1
    (cs.flatMap fun c => leBytes (fmtBits t.fmt / 8) c.1,
     { elements := xs.length, zeros := (dec.filter fvIsZero).length, sats := (cs.filter (·.2)).length,
       nonfinite := (xs.filter fun x => !fvIsFin x).length }, dec.findIdx? fvIsNan)

/-- Push rows of a working copy, until one cannot be read or written: counts and the first NaN element of the rows written, and whether all were. -/
def pushRows (t : Tensor) (h : Hyper) (step slotBase home : Nat) (T : Int) :
    List Nat → ConvCount × Option Nat → State → State × (ConvCount × Option Nat) × Bool
  | [], c, s => (s, c, true)
  | i :: is, c, s =>
    match hubRead s (home + masterOff + i * pitchP t.cols 4) (4 * t.cols) with
    | (s1, .error _) => (s1, c, false)
    | (s1, .ok b) =>
      let o := workRow t h T (srFor t step i 0) ((List.range t.cols).map fun j => fpVal f32 (getLe b (4 * j) 4))
      match memWrite s1 (slotBase + i * workPitch t h.pool) o.1 with
      | (s2, .error _) => (s2, c, false)
      | (s2, .ok _) =>
        pushRows t h step slotBase home T is (c.1.add o.2.1, match c.2 with | some e => some e | none => o.2.2.map fun j => i * t.cols + j) s2

/-- Regenerate a tensor's working copy into the slot that the next epoch takes. The scale of a tensor follows its MASTER_AMAX as R394 states, so a change
of the trained rows can change the codes of an untrained one, of which R185 says that they stay from epoch to epoch (DESIGN CHOICE, log entry 182). A
push that stops early reports the NaN of the rows it has written (R269), and delivers no counts. -/
def pushTensor (s : State) (t : Tensor) (step : Nat) : State :=
  let home := homeSlot t
  let slot := 1 - epochSlot t
  let nan := fun (s : State) (e : Option Nat) => reportHub s 6 t step ((packOf s t.id).bind fun p => fenceTag s (getPS s p.id step)) e
  let mark := fun (s : State) => onTensor s t.id fun t => { t with pushed := true }
  match mBind (memRead s t.hyper 128) fun s1 hb => mBind (hubRead s1 home 64) fun s2 hd => (s2, .ok (hyperOf hb, getLe hd 20 4)) with
  | (s1, .error _) => mark s1
  | (s2, .ok (h, amax)) =>
    let T : Int := if isZb t.fmt ∨ t.fmt = 3 ∨ t.fmt = 4 then (tensorExp t.fmt amax).1 else 0
    match pushRows t h step (t.work + slot * wslotLen t h.pool) home T (List.range t.rows) ({}, none) s2 with
    | (s3, c, false) => mark (nan s3 c.2)
    | (s3, c, true) =>
      match memWrite s3 (t.work + workSlots t * wslotLen t h.pool + 4 * slot) (leBytes 4 (r32 (.fin false 1 T))) with
      | (s4, .error _) => mark (nan s4 c.2)
      | (s4, .ok _) => mark (nan (watchAdd s4 t.id 1 step c.1.elements c.1.zeros c.1.sats c.1.nonfinite) c.2)

/-- Does the decision of a step still wait to be applied to a tensor (R398)? -/
def decisionWaits (s : State) (t : Tensor) (step : Nat) : Bool :=
  match (packOf s t.id).bind fun p => findPS p step with
  | some x => !x.applied
  | none => false

/-- PUSH_START (Table 12.1, order 2): no snapshot still copies the slot that the pushes write (R320), and no task on the retired epoch is left; every WEIGHT tensor whose decision is applied and whose copy-back is complete is pushed;
one of a lost hub has nothing to push. -/
def execPushStart (s : State) : Out :=
  match s.step.switch with
  | none => .next s
  | some w =>
    if !w.retired ∨ s.tick.tasks.any (fun k => k.admitted && k.epochRes != s.step.epochCur) ∨
        (s.step.snapshot.any fun n => n.epoch != s.step.epochCur) then .next s
    else
      let s1 := onStep s fun x => { x with switch := some { w with started := true } }
      .next ((s.step.tensors.filter fun t =>
          isWeight t && !t.pushed && !(s.step.copyBacks.any fun c => c.tensor == t.id) && !decisionWaits s t w.step).foldl
        (fun s t => if hubFitted s t.hub then pushTensor s t w.step else onTensor s t.id fun t => { t with pushed := true }) s1)

/-- Is an EVAL task admitted and not ended? -/
def evalRunning (s : State) : Bool := s.tick.tasks.any fun k => k.admitted && k.phase == 6

/-- Copy a tensor's slot of the epoch that the snapshot fixed, the current one or by now the previous one, with its scale word, into its snapshot slot. -/
def snapTensor (epoch : Nat) (s : State) (t : Tensor) : State :=
  let c := if epoch = s.step.epochCur then epochSlot t else 1 - epochSlot t
  (mBind (memRead s t.hyper 128) fun s1 hb =>
    let l := wslotLen t (hyperOf hb).pool
    mBind (memRead s1 (t.work + c * l) l) fun s2 b =>
      mBind (memWrite s2 (t.work + 2 * l) b) fun s3 _ =>
        mBind (memRead s3 (t.work + 3 * l + 4 * c) 4) fun s4 w => memWrite s4 (t.work + 3 * l + 8) w).1

/-- SNAPSHOT_COPY: once the EVAL tasks admitted earlier have ended (R337). -/
def execSnapshotCopy (s : State) : Out :=
  match s.step.snapshot with
  | none => .next s
  | some n =>
    if n.copied ∨ evalRunning s then .next s
    else
      .next ((s.step.tensors.filter fun t => isWeight t && tSnap t).foldl (snapTensor n.epoch)
        (onStep s fun x => { x with snapshot := some { n with copied := true } }))

/-- SNAPSHOT_COPY_DONE: the final reply; EVAL admission resumes at the next boundary. -/
def execSnapshotCopyDone (s : State) : Out :=
  match s.step.snapshot with
  | none => .next s
  | some n =>
    if n.copied then
      .next (finalReply (onStep s fun x => { x with snapshot := none, evalResume := true }) n.sid stOk 0 (leBytes 8 n.epoch))
    else .next s

/-! ### Definition (R372, R373) -/

/-- The layout check. -/
def layoutOk (s : State) (t : Tensor) (pool : Nat) : Bool :=
  let lim := t.hub * hubWindow s + privLimit s * 2048
  t.master % 2048 == 0 && decide (t.hub * hubWindow s ≤ t.master) && decide (t.master + paramLen t ≤ lim) &&
  t.work % 2048 == 0 && decide (t.work + workSlots t * wslotLen t pool + 64 ≤ mappedEnd s t.work) && decide (t.work < stackEnd s) &&
  t.hyper % 64 == 0 && decide (t.hyper + hyperLen t ≤ mappedEnd s t.hyper) && decide (t.hyper < stackEnd s)

/-- The work after a TENSOR_DEFINE of a WEIGHT tensor (R372, orders 1 to 5; the refresh of order 6 is left waiting). The granules of its parameter
region are hub-private whatever the layout check gives, so cached lines of them are written back first and parity covers them (R289, R307). -/
def defineWork (s : State) (t : Tensor) : State :=
  let hb : State × List Byte := match memRead s t.hyper 128 with
    | (s1, .ok b) => (s1, b)
    | (s1, .error _) => (s1, [])
  let h := hyperOf hb.2
  let ok := layoutOk hb.1 t h.pool
  let s0 := onTensor hb.1 t.id fun t => { t with check6 := !ok }
  let s1 := flushRange s0 t.master (paramLen t)
  if !ok then
    protUpdate (if unmappedAt s1 t.master 2048 = none ∧ t.master < stackEnd s1 then hubWrite s1 (t.master + 24) (leBytes 4 6) else s1)
  else
    let home := homeSlot t
    let homeStep := readWord s1 home 8
    let s2 := hubWrite homeStep.1 t.master (leBytes 8 (if t.rule = 4 && optFactors h then 4 else 0) ++ leBytes 8 0 ++ leBytes 8 homeStep.2 ++ leBytes 4 0)
    let s3 := match readMat (home + masterOff) (pitchP t.cols 4) t.cols (List.range t.rows) s2 with
      | (s3, .ok w) => hubWrite s3 (home + 20) (leBytes 4 (masterAmax w))
      | (s3, .error _) => onTensor s3 t.id fun t => { t with lostState := true }
    let s4 := protUpdate s3
    if t.rule = 4 ∧ !optFactors h then startRefresh s4 t none else s4

end Sys2Proof.Machine
end

