-- ==== Sys2Proof/Machine/Control.lean ====
section
/-! DEFINITION. Control space (R88, R89, R123): which words are mapped, what a read returns (Tables 02.5 to 02.10, 03.16, 04.16, 10.7, 11.4,
11.5, 12.6, 13.5, 14.9, 15.11, 16.8, 17.8, 18.11, 19.11, 20.7), what a write to a shadowed field does, and each self-clearing bit. -/

namespace Sys2Proof.Machine

/-- Block base and extent (Table 04.15). -/
def csBlocks : List (Nat × Nat) :=
  [(baseDev, 0x1000), (baseCmd, 0x1000), (baseTick, 0x1000), (baseRation, 0x1000), (baseTherm, 0x1000), (baseWatch, 0x1000), (baseArith, 0x1000),
   (baseLc, 0x1000), (baseNm, 0x1000), (baseEval, 0x1000), (baseLedger, 0x1000), (baseGroom, 0x1000), (basePack, 0x1000), (baseEth, 0x4000),
   (baseFw, 0x1000)]

/-- Hub whose field-bearing word an address is. -/
def csHub (a : Nat) : Option Nat :=
  if baseGroom ≤ a ∧ a < baseGroom + 0x30 then some ((a - baseGroom) / 8)
  else if baseGroom + 0x70 ≤ a ∧ a < baseGroom + 0xA0 then some ((a - baseGroom - 0x70) / 8)
  else if baseNm + 0x80 ≤ a ∧ a < baseNm + 0xB0 then some ((a - baseNm - 0x80) / 8)
  else if baseEth ≤ a ∧ a < baseEth + 0x60 then some ((a - baseEth) / 0x10)
  else if baseEth + 0x80 ≤ a ∧ a < baseEth + 0xB0 then some ((a - baseEth - 0x80) / 8)
  else if baseEth + 0x900 ≤ a ∧ a < baseEth + 0xA80 ∧ (a - baseEth - 0x900) % 0x40 < 0x30 then some ((a - baseEth - 0x900) / 0x40)
  else if baseEth + 0x1000 ≤ a ∧ a < baseEth + 0x2800 ∧ (a - baseEth - 0x1000) % 0x40 < 0x28 then some ((a - baseEth - 0x1000) / 0x400)
  else none

/-- Is the word unmapped (R88, R123)? -/
def csUnmapped (s : State) (a : Nat) : Bool :=
  !(csBlocks.any fun b => decide (b.1 ≤ a ∧ a < b.1 + b.2)) || (match csHub a with | some k => !hubFitted s k | none => false)

/-! ### Values of RO fields -/

/-- Two 32-bit fields in a word. -/
def two32 (lo hi : Nat) : Nat := lo % 2 ^ 32 + hi % 2 ^ 32 * 2 ^ 32

/-- Bits of a list of numbers. -/
def maskOfList (l : List Nat) : Nat := l.foldl (fun m i => if m.testBit i then m else m + 2 ^ i) 0

def csDev (s : State) (o : Nat) : Nat :=
  let r := s.rel
  if o = 0 then s.dev.fuses.variant % 2 ^ 16 + s.dev.fuses.stepping % 2 ^ 16 * 2 ^ 16 + s.dev.state * 2 ^ 32 + s.dev.stage * 2 ^ 36
  else if o = 0x08 then s.dev.fuses.uid
  else if o = 0x10 then s.dev.pinRate
  else if o = 0x18 then
    s.dev.fuses.expHubs + s.dev.fuses.maxDegraded * 2 ^ 8 + s.dev.fuses.maxHalf * 2 ^ 16 + s.dev.fuses.pinMin * 2 ^ 24
  else if o = 0x20 then s.dev.fuses.expStacks
  else if o = 0x40 then two32 r.substCnt r.degradeCnt
  else if o = 0x48 then two32 r.lostCnt r.stateLostCnt
  else if o = 0x50 then two32 r.swapCnt r.failCnt
  else if o = 0x58 then two32 r.clkOneCnt r.halfCnt
  else if o = 0x60 then two32 r.sealCeCnt r.moduleCnt
  else if o = 0x68 then maskOfList s.dev.hubsLost
  else if o = 0x78 then r.ffr.length + 2 ^ 11 * b2n (!r.ffrPending.isEmpty)
  else 0

def csCmd (s : State) (o : Nat) : Nat :=
  let b := s.bxl
  if o = 0 then two32 s.mp.malformed s.mp.evtDrop
  else if o = 0x08 then s.mp.bulkOrphan
  else if o = 0x18 then
    slotsUsed s false + slotsUsed s true * 2 ^ 16 + 2 ^ 24 * b2n s.mp.commit.isSome + 2 ^ 25 * b2n (s.cfg.shadow != s.cfg.active)
  else if o = 0x20 then s.mp.lastCommitTick
  else if o = 0x28 then two32 s.mp.commitCnt s.mp.lastRefuse
  else if o = 0x30 then s.mp.evtSeq
  else if o = 0x80 then b.state + 16 * b.width + 256 * b.laneOk
  else if o = 0x88 then two32 b.downCnt b.recoveryCnt
  else if o = 0x90 then two32 b.fecCorr b.badFlit
  else if o = 0x98 then two32 b.replayCnt b.protoErr
  else if o = 0xA0 then two32 b.overrun b.partialDrop
  else 0

def csTick (s : State) (o : Nat) : Nat :=
  let t := s.tick
  if o = 0x10 then t.count
  else if o = 0x18 then t.syncState + wrapN 32 t.offsetNs * 2 ^ 32
  else if o = 0x20 then two32 t.overrunCnt t.carryCnt
  else if 0x40 ≤ o ∧ o < 0x60 then fld t.quarantine (8 * (o - 0x40)) 64
  else if o = 0x80 then t.recDrop
  else 0

def csRation (s : State) (o : Nat) : Nat :=
  let t := s.tick
  if o = 0x08 then t.drawW % 2 ^ 12 + t.targetU / wUnits % 2 ^ 12 * 2 ^ 16 + t.minW % 2 ^ 12 * 2 ^ 32
  else if o = 0x10 then two32 t.paceCnt t.shortCnt
  else 0

/-- A byte of REGION_STATE (Table 19.11). -/
def regionByte (s : State) (r : Nat) : Nat :=
  if 39 ≤ r then 0
  else let x := getRegion s r
       x.step + 8 * x.curb + 64 * b2n (regionSuspect s r) + 128 * b2n x.rein

def csTherm (s : State) (o : Nat) : Nat :=
  let t := s.therm
  if o = 0x10 then
    wrapN 16 (sensorTemp s 392) + wrapN 16 (sensorTemp s 393) * 2 ^ 16 + t.flow * 2 ^ 32 + 2 ^ 48 * b2n t.coolantHot + 2 ^ 49 * b2n t.flowLow +
      2 ^ 50 * b2n (t.window == some true)
  else if o = 0x18 then two32 t.suspectCnt t.reinCnt
  else if o = 0x20 then two32 t.curbCnt t.pullCnt
  else if 0x40 ≤ o ∧ o < 0x68 then (List.range 8).foldl (fun w i => w + regionByte s (o - 0x40 + i) * 2 ^ (8 * i)) 0
  else 0

def csWatch (s : State) (o : Nat) : Nat :=
  let w := s.watch
  if o = 0x18 then b2n w.trapped
  else if o = 0x20 then two32 w.nanCnt w.entryDrop
  else if o = 0x30 then w.logSeq
  else if o = 0x38 then two32 w.alarmCnt w.recDrop
  else if 0x40 ≤ o ∧ o < 0x70 then getLe w.trapRec (o - 0x40) 8
  else 0

def csLc (s : State) (o : Nat) : Nat :=
  let c := s.mem.cnt
  if o = 0x08 then c.deadReread
  else if o = 0x18 then two32 c.deadDrop c.redFwd
  else if o = 0x20 then two32 c.redSat c.redFull
  else if o = 0x28 then two32 c.l1Merge c.l1Full
  else 0

def csNm (s : State) (o : Nat) : Nat :=
  let c := s.mem.cnt
  if o = 0x60 then two32 c.nmCe c.nmUe
  else if o = 0x68 then two32 c.stkCe c.stkUe
  else if o = 0x70 then two32 c.parFix c.parMismatch
  else if o = 0x78 then maskOfList s.mem.lost
  else if 0x80 ≤ o ∧ o < 0xB0 then
    let k := (o - 0x80) / 8
    protGran s k * 2048 / 2 ^ 20 + 2 ^ 32 * b2n (parUnprot s k)
  else if o = 0xB8 then two32 c.asRefuse c.asWait
  else if 0x100 ≤ o ∧ o < 0x900 then (getTeam s ((o - 0x100) / 8)).used % 2 ^ 40
  else 0

def csLedger (s : State) (o : Nat) : Nat :=
  if o = 0x10 then s.watch.ledSeq else if o = 0x18 then two32 s.watch.ledDrop s.watch.ledRecDrop else 0

def csGroom (s : State) (o : Nat) : Nat :=
  let g := s.step.groom
  if o = 0x40 then two32 g.rerun g.fail
  else if o = 0x48 then two32 g.diverge g.factorBad
  else if o = 0x50 then two32 g.waitShadow g.waitFactor
  else if o = 0x60 then g.lastTensor % 2 ^ 32 + g.lastCause % 2 ^ 8 * 2 ^ 32 + g.lastHub % 8 * 2 ^ 40 + 2 ^ 43 * b2n g.lastDiverged
  else if o = 0x68 then g.lastStep
  else if 0x70 ≤ o ∧ o < 0xA0 then freeMib s ((o - 0x70) / 8) % 2 ^ 11
  else 0

def csPack (s : State) (o : Nat) : Nat :=
  let c := s.step.cnt
  if o = 0x08 then two32 c.contrib c.dup
  else if o = 0x10 then two32 c.stale c.unknown
  else if o = 0x18 then two32 c.under c.tallySat
  else if o = 0x20 then two32 c.nonfinite c.timeout
  else if o = 0x28 then two32 c.skip c.fallback
  else 0

def csEth (s : State) (o : Nat) : Nat :=
  if 0x900 ≤ o ∧ o < 0xA80 then
    let h := getHubEth s ((o - 0x900) / 0x40)
    let q := (o - 0x900) % 0x40
    if q = 0 then two32 h.malformed h.nackTx
    else if q = 0x08 then two32 h.nackRx h.retx
    else if q = 0x10 then two32 h.repeatCnt h.repair
    else if q = 0x18 then two32 h.relay h.rcErr
    else if q = 0x20 then h.lastReason % 2 ^ 8 + h.lastMember % 2 ^ 16 * 2 ^ 8
    else 0
  else if 0x1000 ≤ o ∧ o < 0x2800 ∧ (o - 0x1000) % 0x40 = 0 then
    (s.dev.fuses.macBase + (o - 0x1000) / 0x400 * 16 + (o - 0x1000) % 0x400 / 0x40) % 2 ^ 48
  else 0

def csFw (s : State) (o : Nat) : Nat :=
  let f := s.fw
  if o = 0x08 then two32 f.bitmap.length f.total
  else if o = 0x10 then b2n f.armed + 2 * b2n f.copyBusy + 4 * b2n f.fusePending + 8 * f.bank + 16 * b2n f.netOff
  else if o = 0x28 then two32 f.netOk f.netBad
  else 0

/-- RO and LV bits of a word: LV fields read 0. PACK 0x000 also holds UDP_PORT. -/
def csRo (s : State) (a : Nat) : Nat :=
  let o := a % 0x1000
  match (a / 0x1000) * 0x1000 with
  | 0x7F0000000000 => csDev s o
  | 0x7F0000010000 => csCmd s o
  | 0x7F0000020000 => csTick s o
  | 0x7F0000021000 => csRation s o
  | 0x7F0000022000 => csTherm s o
  | 0x7F0000030000 => csWatch s o
  | 0x7F0000040000 => csLc s o
  | 0x7F0000041000 => csNm s o
  | 0x7F0000044000 => csLedger s o
  | 0x7F0000050000 => csGroom s o
  | 0x7F0000051000 => if o = 0 then 23108 * 2 ^ 32 else csPack s o
  | 0x7F0000060000 => csEth s o
  | 0x7F0000061000 => csEth s (o + 0x1000)
  | 0x7F0000062000 => csEth s (o + 0x2000)
  | 0x7F0000070000 => csFw s o
  | _ => 0

/-- A word as CS_READ returns it (R88, R10): the shadow of SH fields, RO and LV fields as they are. -/
def csReadWord (s : State) (a : Nat) : Nat :=
  (csRo s a + (match shAt a with | some w => cfgGet s.cfg.shadow a &&& shMask w.fields | none => 0)) % 2 ^ 64

/-! ### Self-clearing bits (R89) -/

/-- The bit `i` of the LV word at `a` written with 1. -/
def csClear (s : State) (a i : Nat) : State :=
  if a = baseTick + 0x28 then
    if i = 0 then onTick s fun t => { t with overrunCnt := 0 }
    else if i = 1 then onTick s fun t => { t with carryCnt := 0 }
    else if i = 2 then onTick s fun t => { t with recDrop := 0 } else s
  else if baseTick + 0x60 ≤ a ∧ a < baseTick + 0x80 then
    let t := 8 * (a - baseTick - 0x60) + i
    onTick s fun k => { k with quarClr := if k.quarClr.testBit t then k.quarClr else k.quarClr + 2 ^ t }
  else if a = baseRation + 0x18 then
    if i = 0 then onTick s fun t => { t with paceCnt := 0 }
    else if i = 1 then onTick s fun t => { t with shortCnt := 0 } else s
  else if a = baseCmd + 0x10 then
    if i = 0 then onMp s fun m => { m with malformed := 0 }
    else if i = 1 then onMp s fun m => { m with evtDrop := 0 }
    else if i = 2 then onMp s fun m => { m with bulkOrphan := 0 } else s
  else if a = baseCmd + 0xA8 then
    if i = 0 then onBxl s fun b => { b with downCnt := 0, recoveryCnt := 0, fecCorr := 0, badFlit := 0, replayCnt := 0, protoErr := 0,
                                            overrun := 0, partialDrop := 0 } else s
  else if a = baseLc + 0x10 then if i = 0 then onMemCnt s fun c => { c with deadReread := 0 } else s
  else if a = baseLc + 0x30 then
    if i = 0 then onMemCnt s fun c => { c with deadDrop := 0 }
    else if i = 1 then onMemCnt s fun c => { c with redFwd := 0, redSat := 0, redFull := 0 }
    else if i = 2 then onMemCnt s fun c => { c with l1Merge := 0, l1Full := 0 } else s
  else if a = baseNm + 0xB0 then
    if i = 0 then onMemCnt s fun c => { c with nmCe := 0, nmUe := 0 }
    else if i = 1 then onMemCnt s fun c => { c with stkCe := 0, stkUe := 0, parFix := 0, parMismatch := 0 } else s
  else if a = baseNm + 0xC0 then if i = 0 then onMemCnt s fun c => { c with asRefuse := 0, asWait := 0 } else s
  else if a = baseLedger + 0x20 then if i = 0 then onWatch s fun w => { w with ledDrop := 0, ledRecDrop := 0 } else s
  else if a = baseWatch + 0x28 then
    if i = 0 then onWatch s fun w => { w with trapped := false, trapRec := zeroBytes 48 }
    else if i = 1 then onWatch s fun w => { w with nanCnt := 0 }
    else if i = 2 then onWatch s fun w => { w with entryDrop := 0 }
    else if i = 3 then onWatch s fun w => { w with runs := w.runs.map fun r => { r with run := 0, fired := false } }
    else if i = 4 then onWatch s fun w => { w with alarmCnt := 0 }
    else if i = 5 then onWatch s fun w => { w with recDrop := 0 } else s
  else if a = basePack + 0x30 then
    if i = 0 then onPackCnt s fun c => { c with contrib := 0, dup := 0 }
    else if i = 1 then onPackCnt s fun c => { c with stale := 0, unknown := 0 }
    else if i = 2 then onPackCnt s fun c => { c with under := 0, tallySat := 0, nonfinite := 0 }
    else if i = 3 then onPackCnt s fun c => { c with timeout := 0, skip := 0, fallback := 0 } else s
  else if a = baseGroom + 0x58 then
    if i = 0 then onGroom s fun g => { g with rerun := 0, fail := 0, diverge := 0 }
    else if i = 1 then onGroom s fun g => { g with factorBad := 0 }
    else if i = 2 then onGroom s fun g => { g with waitShadow := 0, waitFactor := 0 }
    else if i = 3 then onGroom s fun g => { g with lastTensor := 0, lastCause := 0, lastHub := 0, lastDiverged := false, lastStep := 0 } else s
  else if baseEth + 0x900 ≤ a ∧ a < baseEth + 0xA80 ∧ (a - baseEth - 0x900) % 0x40 = 0x28 then
    if i = 0 then onHubEth s ((a - baseEth - 0x900) / 0x40) fun _ => {} else s
  else if a = baseDev + 0x70 then
    if i = 0 then onRelSt s fun r => { r with substCnt := 0, degradeCnt := 0, lostCnt := 0, stateLostCnt := 0, swapCnt := 0, failCnt := 0,
                                              clkOneCnt := 0, halfCnt := 0, sealCeCnt := 0, moduleCnt := 0 }
    else if i = 1 then onRelSt s fun r => { r with alert := false } else s
  else if a = baseTherm + 0x28 then
    if i = 0 then onTherm s fun t => { t with suspectCnt := 0, reinCnt := 0, curbCnt := 0, pullCnt := 0 } else s
  else if a = baseFw + 0x30 then
    if i = 0 then { s with fw := { s.fw with netOk := 0, netBad := 0 } } else s
  else s

/-- A write under mask (R88, R102): SH bits into the shadow; a 1 to an LV bit takes effect; anything else is ignored (R10, R11). -/
def csWriteWord (s : State) (a value mask : Nat) : State :=
  match shAt a with
  | some w =>
    let m := mask &&& shMask w.fields
    let old := cfgGet s.cfg.shadow a
    let new := (old - (old &&& m)) + (value &&& m)
    { s with cfg := { s.cfg with shadow := cfgPut s.cfg.shadow a new } }
  | none => (List.range 64).foldl (fun s i => if (value &&& mask).testBit i then csClear s a i else s) s

end Sys2Proof.Machine
end

