-- ==== Sys2Proof/Machine/EthPorts.lean ====
section
/-! DEFINITION. Link states (R401 to R405), frames that end at a port, priority flow control (R407), address resolution (R408), and precision time
messages (R410). -/

namespace Sys2Proof.Machine

/-! ### Link state (R404, Table 15.2) -/

/-- Change a port's state, with its LINK_STATE event. The frames that wait at the port are lost with its link, as is its choice as time source
(R410). -/
def setLink (s : State) (hub port st cause : Nat) : State :=
  let n := portNo hub port
  let s0 := onPort s n fun p => { p with state := st, downCnt := if st = 0 then inc32 p.downCnt else p.downCnt, trainAt := s.now,
                                         pausedTill := [], pausedSince := [], ignoreTill := [], txHeld := [], rxFill := [], xoff := [] }
  let s1 := onEth s0 fun e => { e with ptp := e.ptp.filter fun q => q.port != n }
  sendEvent s1 (if st = 0 then stLinkDown else stOk) 0x0010
    (leBytes 1 hub ++ leBytes 1 port ++ leBytes 1 st ++ leBytes 1 cause ++ leBytes 4 (getPort s1 n).downCnt)

/-- Ports start training at READY (R403). -/
def portsStart (s : State) : State :=
  ((List.range 6).flatMap fun k => ((List.range 16).filter (portMapped s k)).map fun p => (k, p)).foldl (fun s q =>
    if (getPort s (portNo q.1 q.2)).state = 0 then setLink s q.1 q.2 1 0 else s) s

/-- A committed change of the hub's ETH fields retrains its ports (R92, R403). -/
def portsRetrain (s : State) (k : Nat) : State :=
  flushAll ((List.range 16).foldl (fun s p =>
    let st := (getPort s (portNo k p)).state
    let s1 := if st = 2 ∨ (st = 1 ∧ !portMapped s k p) then setLink s k p 0 4 else s
    if portMapped s k p ∧ (getPort s1 (portNo k p)).state = 0 then setLink s1 k p 1 0 else s1) s)

def linkCause : LinkCause → Nat
  | .signal => 1
  | .fec => 2
  | .codewords _ => 2
  | .command => 4

/-- Count codewords that a port corrected and found uncorrectable (Table 15.3). -/
def countFec (corrected uncorrectable : Nat) (p : PortSt) : PortSt :=
  { p with fecCorr := satAdd 64 p.fecCorr corrected, fecUncorr := satAdd 64 p.fecUncorr uncorrectable }

/-- Uncorrectable codewords that take the link down with them. -/
def causeCodewords : LinkCause → Nat
  | .codewords n => n
  | _ => 0

/-- Does a cause take the link down? Uncorrectable codewords do when more than 100 fall within 10 ms (R404). -/
def takesDown : LinkCause → Bool
  | .codewords n => decide (100 < n)
  | _ => true

/-- LINK_DOWN: an UP port goes DOWN and retrains at once; its streams move (R404, R418). -/
def execLinkDown (hub port : Nat) (cause : LinkCause) (s : State) : Out :=
  if portUp s hub port then
    let s1 := onPort s (portNo hub port) (countFec 0 (causeCodewords cause))
    .next (if takesDown cause then flushAll (setLink (setLink s1 hub port 0 (linkCause cause)) hub port 1 0) else s1)
  else .next s

/-- LINK_UP: training completes. -/
def execLinkUp (hub port : Nat) (s : State) : Out :=
  if portMapped s hub port ∧ (getPort s (portNo hub port)).state = 1 then .next (flushAll (setLink s hub port 2 0)) else .next s

/-- AN_RETRY: a port in TRAINING tries again each 500 ms (R402). -/
def execAnRetry (hub port : Nat) (s : State) : Out :=
  let p := getPort s (portNo hub port)
  if portMapped s hub port ∧ p.state = 1 ∧ p.trainAt + 500 * msUnits ≤ s.now then
    .next (onPort s (portNo hub port) fun p => { p with trainAt := s.now })
  else .next s

/-! ### Frames (R405 to R409) -/

/-- Is priority flow control enabled on a priority (PFC_EN)? -/
def pfcEnabled (s : State) (hub i : Nat) : Bool := bit (hubEthF s hub 18 8) i

/-- Bytes of a frame that the MAC accepts (R406). -/
def frameSizeOk (f : NetFrame) : Bool := decide (64 ≤ f.size ∧ f.size ≤ 9216)

/-- What a port counts of a frame: the codewords, and a good frame or one of a wrong length (R405). -/
def countFrame (s : State) (f : NetFrame) : State :=
  onPort s (portNo f.hub f.port) fun p =>
    let q := countFec f.corrected f.uncorrectable p
    if frameSizeOk f then { q with rxFrames := inc64 q.rxFrames } else { q with rxBadFcs := inc64 q.rxBadFcs }

/-- The receive buffer of a priority, 2 MiB for each port (R407). -/
def rxBufferBytes : Nat := 2097152

/-- A frame enters its priority's receive buffer: past 75 % an enabled priority sends XOFF, once (R407). -/
def bufferFrame (s : State) (f : NetFrame) : State :=
  let n := portNo f.hub f.port
  let i := f.prio.toNat
  let s1 := onPort s n fun p => { p with rxFill := smSet 0 p.rxFill i (min rxBufferBytes (smGet 0 p.rxFill i + f.size)) }
  let p := getPort s1 n
  if pfcEnabled s f.hub i && decide (3 * rxBufferBytes < 4 * smGet 0 p.rxFill i) && !p.xoff.contains i then
    emit (onPort s1 n fun p => { p with xoff := p.xoff ++ [i] }) f.hub f.port (.pfc f.hub f.port i true)
  else s1

/-- One ck of a port: frames leave its receive buffers, at a rate that R407 does not give; below 50 % a priority under XOFF sends XON. -/
def portDrain (s : State) (hub port : Nat) : State :=
  let n := portNo hub port
  let left := fun (e : Nat × Nat) => (e.1, e.2 - Config.rxDrained s.now (n * 8 + e.1))
  let s1 := onPort s n fun p => { p with rxFill := (p.rxFill.map left).filter fun e => e.2 != 0 }
  let p := getPort s1 n
  (p.xoff.filter fun i => decide (2 * smGet 0 p.rxFill i < rxBufferBytes)).foldl (fun s i =>
    emit (onPort s n fun p => { p with xoff := p.xoff.filter (· != i) }) hub port (.pfc hub port i false)) s1

/-- One ck of the ports: pauses that have run out let their frames go, and the receive buffers drain. -/
def portsClock (s : State) : State :=
  (s.eth.ports.filter fun e => !e.2.txHeld.isEmpty || !e.2.rxFill.isEmpty).foldl (fun s e =>
    portDrain (portRelease s (e.1 / 16) (e.1 % 16)) (e.1 / 16) (e.1 % 16)) s

/-- A frame arrives at an UP port; one of a wrong length goes no further (R406, Table 15.8). -/
def rxFrame (f : NetFrame) (s : State) (k : State → State) : Out :=
  if !portUp s f.hub f.port then .next s
  else if !frameSizeOk f then .next (countFrame s f)
  else .next (k (bufferFrame (countFrame s f) f))

/-- The groups that a PTP port listens to: 224.0.1.129, FF0X::181 (IEEE 1588-2019, log entry 156). -/
def ptpGroup (a : Nat) : Bool := a == v4Mapped 0xE0000181 || (a / 2 ^ 116 == 0xFF0 && a % 2 ^ 112 == 0x181)

/-- Has a port joined a group (R416)? -/
def joined (s : State) (hub port g : Nat) : Bool :=
  (s.step.packs.any fun p => bit (p.ports.getD hub 0) port && p.groups.getD hub 0 == g) || (portPtp s hub port && ptpGroup g)

/-- Is a frame addressed to the port's MAC or a joined group (R409)? PTP over Layer 2 has a group of its own. -/
def macOurs (s : State) (f : NetFrame) : Bool :=
  f.dstMac == portMac s f.hub f.port || (joined s f.hub f.port f.dst && f.dstMac == groupMac f.dst) ||
  (portPtp s f.hub f.port && f.dst == 0 && f.dstMac == 0x011B19000000)

/-- Is the IP address it carries one that the port holds? -/
def ipOurs (s : State) (f : NetFrame) : Bool :=
  f.dst == 0 || f.dst == portIp s f.hub f.port false || f.dst == portIp s f.hub f.port true || joined s f.hub f.port f.dst

/-- The UDP ports that the device listens on (R409). -/
def udpOurs (f : NetFrame) : Bool := f.udp == 23108 || f.udp == 4791 || f.udp == 319 || f.udp == 320 || (f.udp == 0 && f.dst == 0)

/-- Is a well-formed frame for the device (R409)? -/
def frameOurs (s : State) (f : NetFrame) : Bool := macOurs s f && ipOurs s f && udpOurs f

/-- A frame that is not for the device is dropped and counted (R409). -/
def dropFrame (s : State) (f : NetFrame) : State :=
  onPort s (portNo f.hub f.port) fun p => { p with rxDrop := inc64 p.rxDrop }

/-- A well-formed frame arrives: taken when it is for the device. -/
def rxTaken (f : NetFrame) (s : State) (k : State → State) : Out :=
  rxFrame f s fun s => if frameOurs s f then k s else dropFrame s f

/-- Is a request for an address of the port addressed to it (R409): to its MAC, or to the group that such a request goes to, all stations for ARP (RFC
826) and the solicited-node group of the port's address for Neighbour Solicitation (RFC 4291; PRESUMED, log entry 183)? -/
def askOurs (s : State) (f : NetFrame) : Bool :=
  f.dstMac == portMac s f.hub f.port ||
  (if f.isArp then f.dstMac == 2 ^ 48 - 1 else f.dstMac == 0x3333FF000000 + portIp s f.hub f.port true % 2 ^ 24)

/-- ARP_REQUEST for an IPv4 address of the port is answered; one for another address carries an address that the port does not hold (R408, R409). -/
def execArpRequest (f : NetFrame) (s : State) : Out :=
  rxFrame f s fun s =>
    if askOurs s f ∧ f.isArp ∧ f.dst = portIp s f.hub f.port false then emit s f.hub f.port (.arpReply f.hub f.port f.srcMac f.src) else dropFrame s f

/-- NEIGHBOUR_SOLICITATION for an IPv6 address of the port is answered. The answer to a station's address is a unicast IP frame, which a port without a
next hop does not originate; that to the unspecified address, 0, goes to all nodes (RFC 4861). -/
def execNeighbourSolicitation (f : NetFrame) (s : State) : Out :=
  rxFrame f s fun s =>
    if askOurs s f ∧ f.isNs ∧ f.dst ≠ 0 ∧ f.dst = portIp s f.hub f.port true then
      if f.src = 0 then emit s f.hub f.port (.neighbourAdvert f.hub f.port (0xFF02 * 2 ^ 112 + 1))
      else if portGw s f.hub f.port = 0 then s
      else emit s f.hub f.port (.neighbourAdvert f.hub f.port f.src)
    else dropFrame s f

/-- ICMP_DISCARD: discarded with no trace. -/
def execIcmpDiscard (f : NetFrame) (s : State) : Out := rxFrame f s id

/-- RX_DROP: a well-formed frame that is not for the device (R409). -/
def execRxDrop (f : NetFrame) (s : State) : Out := rxTaken f s id

/-- MALFORMED_FRAME (Table 15.8): a bad check sequence or length, or a malformed IP, UDP or pack form. -/
def execMalformedFrame (f : NetFrame) (kind : BadFrame) (s : State) : Out :=
  if !portUp s f.hub f.port then .next s
  else
    match kind with
    | .fcs => .next (onPort s (portNo f.hub f.port) fun p =>
        let q := countFec f.corrected f.uncorrectable p
        { q with rxBadFcs := inc64 q.rxBadFcs })
    | _ => rxFrame f s fun s => onHubEth s f.hub fun h => { h with malformed := inc32 h.malformed }

/-! ### Priority flow control (R407) -/

/-- Time of a number of pause quanta: 512 bit times each. -/
def pauseTime (s : State) (hub port q : Nat) : Nat := q * 1536 / (200 * max 1 (portLanes s hub port))

/-- Pause one priority until a time. -/
def pausePrio (now till i : Nat) (p : PortSt) : PortSt :=
  if (match smGet? p.ignoreTill i with | some t => decide (now < t) | none => false) then p
  else if till ≤ now then { p with pausedTill := smDel p.pausedTill i, pausedSince := smDel p.pausedSince i }
  else
    let on := match smGet? p.pausedTill i with | some t => decide (now < t) | none => false
    { p with pausedTill := smIns p.pausedTill i till, pausedSince := if on then p.pausedSince else smIns p.pausedSince i now }

/-- PFC_FRAME: pauses the enabled priorities it names; the others are counted and ignored. -/
def execPfcFrame (hub port : Nat) (enable : BitVec 8) (quanta : List W16) (s : State) : Out :=
  if portUp s hub port then
    .next (portRelease (onPort s (portNo hub port) fun p =>
      ((List.range 8).filter fun i => bit enable.toNat i && pfcEnabled s hub i).foldl (fun p i =>
        pausePrio s.now (s.now + pauseTime s hub port (quanta.getD i 0).toNat) i p)
        { p with rxFrames := inc64 p.rxFrames, pfcRx := inc32 p.pfcRx }) hub port)
  else .next s

/-- PFC_WATCHDOG: a priority paused for 200 ms is released, and pause frames on it are ignored for 200 ms. -/
def execPfcWatchdog (hub port : Nat) (prio : BitVec 3) (s : State) : Out :=
  let p := getPort s (portNo hub port)
  let i := prio.toNat
  match smGet? p.pausedSince i, smGet? p.pausedTill i with
  | some t, some till =>
    if t + 200 * msUnits ≤ s.now ∧ s.now < till then
      .next (portRelease (onPort s (portNo hub port) fun p =>
        { p with pausedTill := smDel p.pausedTill i, pausedSince := smDel p.pausedSince i, pfcWd := inc32 p.pfcWd,
                 ignoreTill := smIns p.ignoreTill i (s.now + 200 * msUnits) }) hub port)
    else .next s
  | _, _ => .next s

/-- Table 15.3. -/
def portPayload (s : State) (hub port : Nat) : List Byte :=
  let p := getPort s (portNo hub port)
  leBytes 1 p.state ++ leBytes 1 (portMode (portLanes s hub port)) ++ leBytes 1 (b2n (portKr s hub port)) ++ leBytes 1 (portLanes s hub port) ++
  leBytes 4 p.downCnt ++ leBytes 8 p.fecCorr ++ leBytes 8 p.fecUncorr ++ leBytes 8 p.rxFrames ++ leBytes 8 p.txFrames ++ leBytes 8 p.rxBadFcs ++
  leBytes 8 p.rxDrop ++ leBytes 4 p.pfcRx ++ leBytes 4 p.pfcWd

/-! ### Time (R410) -/

/-- What the best master clock algorithm compares, the more significant field first (IEEE 1588-2019). -/
def ptpRank (m : PtpMaster) : List Nat :=
  [m.priority1.toNat, m.clockClass.toNat, m.accuracy.toNat, m.variance.toNat, m.priority2.toNat, m.identity.toNat, m.stepsRemoved.toNat]

/-- Is a master better than another? -/
def ptpBetter (a b : PtpMaster) : Bool := decide (List.Lex (· < ·) (ptpRank a) (ptpRank b))

/-- The time after which a master that announces nothing is given up: three intervals of 2 s, the default profile's (PRESUMED, IEEE 1588-2019, log entry
156). -/
def announceTimeout : Nat := 6000 * msUnits

/-- The selection in force: that of a master which still announces itself. -/
def ptpMaster (s : State) : Option PtpSel := s.eth.ptp.filter fun q => decide (s.now < q.heard + announceTimeout)

/-- Is the message from the selected master? -/
def ptpSelected (s : State) (n : Nat) (m : PtpMaster) : Bool :=
  match ptpMaster s with
  | some q => q.port == n && q.master.identity == m.identity
  | none => false

/-- Send a Delay_Req over the transport of a Sync: to its group, or to its sender where it came by unicast. -/
def sendDelayReq (s : State) (msg : PtpMsg) : State :=
  let dst := if msg.dst = 0 ∨ isGroup msg.dst then msg.dst else msg.src
  if dst ≠ 0 ∧ !isGroup dst ∧ portGw s msg.hub msg.port = 0 then s
  else emit s msg.hub msg.port (.delayReq msg.hub msg.port msg.domain dst)

/-- PTP_MESSAGE in the port's domain: an Announce enters the best master clock algorithm, which runs over all enabled ports; a Sync of the selected
master is answered by a Delay_Req, over the transport it came by; the Delay_Resp gives the time, which is the source's while the source is PTP. -/
def ptpMessage (msg : PtpMsg) (s : State) : State :=
  let n := portNo msg.hub msg.port
  if !portPtp s msg.hub msg.port || hubEthF s msg.hub 26 8 != msg.domain then s
  else
    let best := match ptpMaster s with
      | none => true
      | some q => ptpSelected s n msg.master || ptpBetter msg.master q.master
    match msg.kind with
    | .announce => if best then onEth s fun e => { e with ptp := some ⟨n, msg.master, s.now⟩ } else s
    | .sync => if ptpSelected s n msg.master then sendDelayReq s msg else s
    | .delayResp t => if ptpSelected s n msg.master && cfgSource s == 1 then sourceTime s t else s

/-- PTP_MESSAGE. -/
def execPtpMessage (msg : PtpMsg) (s : State) : Out := rxTaken msg.toNetFrame s (ptpMessage msg)

end Sys2Proof.Machine
end

