-- ==== Sys2Proof/Machine/ActStack.lean ====
section
/-! DEFINITION. The activation stacks (R322 to R330): instructions, frames, the near share with its spills and refills, and replays. -/

namespace Sys2Proof.Machine

/-- Bytes of a team's near share and its capacity CAP (R322). -/
def stackNear (s : State) (team : Nat) : Nat := cfgAstackMib s (team / 64) * 16384
def stackCap (s : State) (team : Nat) : Nat := stackNear s team + cfgXmib s (team / 64) * 16384

/-- Where a team's near share and its extent share begin, as device addresses (R281, R322). The near share is reached by the stack unit only. -/
def nearPlace (s : State) (team : Nat) : Nat :=
  let n := team / 64
  nearBase + n * layerLen + (cfgScratchMib s n + cfgCacheMib s n) * 2 ^ 20 + team % 64 * stackNear s team
def extentPlace (s : State) (team : Nat) : Nat := cfgXbase s (team / 64) + team % 64 * (cfgXmib s (team / 64) * 16384)

/-- Bytes a frame takes (R323). -/
def frameSize : Frame → Nat
  | .data _ bs => 64 + roundUp bs.length 64
  | .mark _ _ => 64

/-! ### Issue (Table 12.3) -/

def stkOf (s : State) (c : Nat) : List (Nat × QEntry StkOp) := (getTeam s (teamOf c)).stkq.filter fun e => e.1 == c
def inStkq (s : State) (c t : Nat) : Bool := (stkOf s c).any fun e => e.2.thr == t

/-- Send an instruction to the team's stack unit; a thread that will get a result waits for it (R130, R324). -/
def issueStk (r : SArgs) (resv : Nat) (wait : Bool) (s : State) (op : Thread → StkOp) : Out :=
  let c := r.core.toNat
  let t := r.thr.toNat
  issueRaw c t resv s fun th =>
    if 8 ≤ (stkOf s c).length then blockThread s c t (.room .stack)
    else
      let s1 := onTeam s (teamOf c) fun x => { x with stkq := x.stkq ++ [(c, { thr := t, pc := th.pc, op := op th })] }
      if wait then blockThread s1 c t (.result .stack) else nextPc s1 c t

def execApush (r : SArgs) (s : State) : Out :=
  issueStk r (r.g2.toNat + r.rsv.toNat) false s fun th => .push (gReg th r.g1.toNat)
def execApop (r : SArgs) (s : State) : Out :=
  issueStk r (r.g2.toNat + r.rsv.toNat) false s fun th => .pop (gReg th r.g1.toNat)
def execApeek (r : SArgs) (s : State) : Out :=
  issueStk r (r.g2.toNat + r.rsv.toNat) false s fun th => .peek (gReg th r.g1.toNat)
def execAmark (r : SArgs) (s : State) : Out :=
  issueStk r r.rsv.toNat false s fun th => .mark (gReg th r.g1.toNat % 2 ^ 32) (gReg th r.g2.toNat)
def execAunmark (r : SArgs) (s : State) : Out :=
  issueStk r r.rsv.toNat true s fun th => .unmark r.g1.toNat (gReg th r.g2.toNat % 2 ^ 32)
def execAused (r : SArgs) (s : State) : Out :=
  issueStk r (r.g2.toNat + r.rsv.toNat) true s fun _ => .used r.g1.toNat
def execAfence (r : SArgs) (s : State) : Out :=
  let c := r.core.toNat
  let t := r.thr.toNat
  issueRaw c t (r.g1.toNat + r.g2.toNat + r.rsv.toNat) s fun _ => issueFence c t s .stack (inStkq s c t)

/-! ### Descriptors and checks (Table 12.4, R328) -/

structure StkDesc where
  addr : Nat
  len : Nat
  tag : Nat
  flags : Nat
  rsvZero : Bool
deriving DecidableEq, Repr

def stkDesc (b : List Byte) : StkDesc := ⟨getLe b 0 8, getLe b 8 4, getLe b 12 4, getB b 16, allZero (b.drop 17)⟩

/-- The descriptor of a push, pop or peek, when its fields are in range. -/
def readStkDesc (s : State) (c off : Nat) : Option StkDesc :=
  let d := stkDesc (spadRead s c off 32)
  if off % 32 = 0 ∧ off + 32 ≤ scratchLen s c ∧ d.len % 64 = 0 ∧ 64 ≤ d.len ∧ d.len ≤ 2 ^ 28 ∧ d.flags < 2 ∧ d.rsvZero then some d
  else none

def stkRange (d : StkDesc) : URange := ⟨bit d.flags 0, d.addr, d.len⟩

/-- Range faults of a push, pop or peek (R328, as in R263). -/
def stkRangeFault (s : State) (c : Nat) (write : Bool) (d : StkDesc) : Option (Nat × Nat) :=
  if !bit d.flags 0 then
    (if scratchLen s c < d.addr + d.len then some (stAddrUnmapped, spadFault (max d.addr (scratchLen s c))) else none)
  else devAccessFault s write d.addr d.len

def stkBadFrame (s : State) (team : Nat) : Nat × Nat := (stAddrUnmapped, 0xFA00000000000000 + (getTeam s team).used)

/-- Does the top frame satisfy a pop or peek (R325)? -/
def topData (x : TeamSt) (d : StkDesc) : Option (List Byte) :=
  match x.frames with
  | .data tag bs :: _ => if tag = d.tag ∧ bs.length = d.len then some bs else none
  | _ => none

/-- Why an instruction fails (R328). -/
def stkFault (s : State) (c : Nat) (op : StkOp) : Option (Nat × Nat) :=
  let team := teamOf c
  let x := getTeam s team
  let room := fun size => if x.used + x.held + size ≤ stackCap s team then none else some (stkBadFrame s team)
  match op with
  | .push off =>
    match readStkDesc s c off with
    | none => some (stAddrUnmapped, spadFault off)
    | some d => (room (64 + d.len)).orElse fun _ => stkRangeFault s c false d
  | .pop off | .peek off =>
    match readStkDesc s c off with
    | none => some (stAddrUnmapped, spadFault off)
    | some d => if (topData x d).isNone then some (stkBadFrame s team) else stkRangeFault s c true d
  | .mark _ _ => room 64
  | .unmark _ tag =>
    match x.frames with
    | .mark t _ :: _ => if t = tag then none else some (stkBadFrame s team)
    | _ => some (stkBadFrame s team)
  | .used _ => none

/-! ### The near share (R327) -/

/-- Bytes the unit keeps in the near share: those of R327, and what the team's extent share has no room for (DESIGN CHOICE, log entry 182: R322 gives
the extent share its size, and R327's near share then holds more). -/
def nearGoal (s : State) (team used : Nat) : Nat :=
  max (min used (stackNear s team - stackNear s team / 8)) (used - cfgXmib s (team / 64) * 16384)

/-- Bytes that a push brings, and bytes of the top frame that a pop or peek reads. -/
def stkMoves (s : State) (c : Nat) (op : StkOp) : Nat × Nat :=
  match op with
  | .push off => (match readStkDesc s c off with | some d => (64 + d.len, 0) | none => (0, 0))
  | .mark _ _ => (64, 0)
  | .pop off | .peek off => (match readStkDesc s c off with | some d => (0, 64 + d.len) | none => (0, 0))
  | _ => (0, 0)

/-- Must the instruction wait for a spill or a refill? -/
def stkMustWait (s : State) (c : Nat) (op : StkOp) : Bool :=
  let x := getTeam s (teamOf c)
  let m := stkMoves s c op
  !x.moved && (decide (stackNear s (teamOf c) < x.near + m.1 ∧ 0 < x.near ∧ 0 < m.1) || decide (x.near < min m.2 x.used))

/-- The first uncorrectable word of near memory under bytes `[lo, hi)` of a team's stack: byte `p` of a stack lies `p mod NEAR` into the near share
(DESIGN CHOICE, log entry 163). -/
def nearBad (s : State) (team lo hi : Nat) : Option Nat :=
  let near := stackNear s team
  let base := nearPlace s team
  (s.mem.badNm.map (· * 32)).find? fun a =>
    decide (base ≤ a ∧ a < base + near) && decide (lo + (a - base + near - lo % near) % near < hi)

/-- A push has written bytes `[lo, hi)` of a team's stack: whole words are good again (R305). -/
def nearHeal (s : State) (team lo hi : Nat) : State :=
  let near := stackNear s team
  let base := nearPlace s team
  onMem s fun m => { m with badNm := m.badNm.filter fun u =>
    !(decide (base ≤ u * 32 ∧ u * 32 < base + near) && decide (lo + (u * 32 - base + near - lo % near) % near < hi)) }

/-- Offsets of the stack that an instruction reads from the near share: what of the top frame lies there, for a pop, a peek
and an unmark. -/
def stkReads (x : TeamSt) (op : StkOp) : Nat × Nat :=
  match op, x.frames with
  | .pop _, f :: _ => (x.used - min x.near (frameSize f), x.used)
  | .peek _, f :: _ => (x.used - min x.near (frameSize f), x.used)
  | .unmark _ _, f :: _ => (x.used - min x.near (frameSize f), x.used)
  | _, _ => (0, 0)

/-! ### Application (R326, R329) -/

/-- Change a team's frames by one instruction: the new team state and the result it delivers (the bytes of a frame as a number, a user word, or
USED). -/
def stkChange (s : State) (team : Nat) (op : StkOp) (bytes : List Byte) (tag : Nat) (x : TeamSt) : TeamSt × Nat :=
  let near := fun n => min n (stackNear s team)
  match op with
  | .push _ =>
    let f := Frame.data tag bytes
    ({ x with frames := f :: x.frames, used := x.used + frameSize f, near := near (x.near + frameSize f) }, 0)
  | .mark tg user => ({ x with frames := .mark tg user :: x.frames, used := x.used + 64, near := near (x.near + 64) }, 0)
  | .pop _ =>
    match x.frames with
    | f :: fs => ({ x with frames := fs, used := x.used - frameSize f, held := x.held + frameSize f, near := x.near - frameSize f },
                  match f with | .data _ bs => leNat bs | _ => 0)
    | [] => (x, 0)
  | .peek _ => (x, match x.frames with | .data _ bs :: _ => leNat bs | _ => 0)
  | .unmark _ _ =>
    match x.frames with
    | .mark _ u :: fs => ({ x with frames := fs, used := x.used - 64, held := x.held + 64, near := x.near - 64 }, u)
    | _ => (x, 0)
  | .used _ => (x, x.used)

/-- Deliver an instruction's result: bytes to their place, a register to its thread. -/
def stkDeliver (s : State) (c t : Nat) (op : StkOp) (res : Nat) : MRes Unit :=
  let reg := fun d => (resumeNext (setReg s c t d res) c t, Except.ok ())
  match op with
  | .pop off | .peek off =>
    match readStkDesc s c off with
    | some d => unitWrites c [(stkRange d, leBytes d.len res)] s
    | none => (s, .ok ())
  | .unmark d _ => reg d
  | .used d => reg d
  | _ => (s, .ok ())

/-- Remove the first entry of a core. -/
def dropFirst (c : Nat) : List (Nat × QEntry StkOp) → List (Nat × QEntry StkOp)
  | [] => []
  | e :: es => if e.1 = c then es else e :: dropFirst c es

/-- The instruction leaves the unit. -/
def stkPop (s : State) (c : Nat) : State :=
  let s1 := onTeam s (teamOf c) fun x => { x with stkq := dropFirst c x.stkq, waiting := false, moved := false }
  unitAdvance s1 c .stack (inStkq s1 c)

/-- The instruction fails (R328). -/
def stkFail (s : State) (c t pc : Nat) (f : Nat × Nat) : State :=
  let s1 := stopQueued s c t f.1 pc f.2
  let s2 := onTeam s1 (teamOf c) fun x =>
    { x with stkq := x.stkq.filter fun e => !(e.1 == c && e.2.thr == t), waiting := false, moved := false }
  unitAdvance s2 c .stack (inStkq s2 c)

/-- Bytes of a frame in stack order: its header, whose contents the spec does not give (free values of draw `d`), and its data. -/
def frameBytes (d at_ : Nat) (f : Frame) : List Byte :=
  (natsFrom at_ 64).map (Config.freeByte d) ++ (match f with | .data _ bs => bs | .mark _ _ => [])

/-- The bytes of a stack from its bottom, for frames listed from the bottom up. -/
def stackImage (d : Nat) : Nat → List Frame → List Byte
  | _, [] => []
  | at_, f :: fs => frameBytes d at_ f ++ stackImage d (at_ + frameSize f) fs

/-- The bytes between two offsets of a stack go to the team's extent (R327). -/
def spillBytes (s : State) (t lo hi : Nat) : State :=
  let bs := ((stackImage s.draws 0 (getTeam s t).frames.reverse).drop lo).take (hi - lo)
  (memWrite { s with draws := s.draws + 1 } (extentPlace s t + lo) bs).1

/-- Apply an instruction that passes its checks and need not wait. -/
def stkApply (s0 : State) (c : Nat) (e : QEntry StkOp) : State :=
  let team := teamOf c
  let reads := stkReads (getTeam s0 team) e.op
  let met : State × Option Nat := match nearBad s0 team reads.1 reads.2 with
    | some a => ((nmUeAt (α := Unit) s0 a).1, some (0xFB00000000000000 + a))
    | none => (s0, none)
  match met with
  | (s, some a) => stkFail s c e.thr e.pc (stAddrUnmapped, a)
  | (s, none) =>
  let src : State × Except Nat (List Byte × Nat) := match e.op with
    | .push off =>
      (match readStkDesc s c off with
        | some d =>
          (match unitRead s c (stkRange d) false with
            | (s1, .ok bs) => (s1, .ok (bs, d.tag))
            | (s1, .error a) => (s1, .error a))
        | none => (s, .ok ([], 0)))
    | _ => (s, .ok ([], 0))
  match src with
  | (s1, .error a) => stkFail s1 c e.thr e.pc (stAddrUnmapped, a)
  | (s1, .ok (bs, tag)) =>
    let r := stkChange s1 team e.op bs tag (getTeam s1 team)
    match stkDeliver s1 c e.thr e.op r.2 with
    | (s2, .error a) => stkFail s2 c e.thr e.pc (stAddrUnmapped, a)
    | (s2, .ok _) =>
      let grown := (stkChange s1 team e.op bs tag (getTeam s1 team)).1.used
      let s3 := nearHeal (onTeam s2 team fun x => (stkChange s1 team e.op bs tag x).1) team (getTeam s1 team).used grown
      -- what a push leaves no room for in the near share lies in the extent (R327)
      let old := getTeam s1 team
      let new := getTeam s3 team
      let s4 := if old.used - old.near < new.used - new.near then spillBytes s3 team (old.used - old.near) (new.used - new.near) else s3
      stkPop (onNode s4 c fun n =>
        { n with eff := { n.eff with stackOps := n.eff.stackOps + 1, stackRes := n.eff.stackRes ++ [r.2] } }) c

/-- An instruction that the failed tick had applied already: its original result again (R329). -/
def stkAgain (s : State) (c : Nat) (e : QEntry StkOp) : State :=
  let res := (getNode s c).suppress.stackRes.headD 0
  let s1 := onNode s c fun n =>
    { n with suppress := { n.suppress with stackOps := n.suppress.stackOps - 1, stackRes := n.suppress.stackRes.tail } }
  match stkDeliver s1 c e.thr e.op res with
  | (s2, .error a) => stkFail s2 c e.thr e.pc (stAddrUnmapped, a)
  | (s2, .ok _) => stkPop s2 c

/-- STACK_APPLY: the first stack instruction of a slot, when the unit is free for it. -/
def execStackApply (core : BitVec 11) (s : State) : Out :=
  let c := core.toNat
  let team := teamOf c
  let x := getTeam s team
  match (stkOf s c).head? with
  | none => .next s
  | some (_, e) =>
    if !unitServed s c ∨ (x.waiting ∧ (x.moved = false ∨ (x.stkq.head?.map (·.1)) ≠ some c)) then .next s
    else if 0 < (getNode s c).suppress.stackOps then .next (stkAgain s c e)
    else
      match stkFault s c e.op with
      | some f => .next (stkFail s c e.thr e.pc f)
      | none =>
        if stkMustWait s c e.op then
          let s1 := onTeam s team fun x => { x with waiting := true, moved := false, stkq := (c, e) :: dropFirst c x.stkq }
          .next (onMemCnt s1 fun n => { n with asWait := satAdd 32 n.asWait 1 })
        else .next (stkApply s c e)

/-- Frames, from the bottom up, with the bytes from offset `lo` on replaced by those that a refill has read. -/
def refillFrames (lo : Nat) (bs : List Byte) : Nat → List Frame → List Frame
  | _, [] => []
  | at_, f :: fs =>
    let g := match f with
      | .data tag old => Frame.data tag ((List.range old.length).map fun i =>
          let p := at_ + 64 + i
          if lo ≤ p ∧ p < lo + bs.length then getB8 bs (p - lo) else old.getD i 0)
      | f => f
    g :: refillFrames lo bs (at_ + frameSize f) fs
where
  /-- A byte of a list. -/
  getB8 (bs : List Byte) (i : Nat) : Byte := bs.getD i 0

/-- Move data so that the near share holds `near` bytes: the bytes below them lie in the extent, in stack order (R327). A refill for a frame larger than the
near share reads all of it. The Nat is the FAULT_ADDR of a refill that cannot be read. -/
def moveNear (s : State) (t near : Nat) : MRes Unit :=
  let x := getTeam s t
  let put := fun (s : State) => onTeam s t fun x => { x with near := min near (stackNear s t) }
  if near < x.near then (put (spillBytes s t (x.used - x.near) (x.used - near)), .ok ())
  else if x.near < near then
    match memRead s (extentPlace s t + (x.used - near)) (near - x.near) with
    | (s1, .error e) => (s1, .error e)
    | (s1, .ok bs) =>
      (put (onTeam s1 t fun x => { x with frames := (refillFrames (x.used - near) bs 0 x.frames.reverse).reverse }), .ok ())
  else (s, .ok ())

/-- SPILL_REFILL_DONE: the near share holds what the waiting instruction needs, or else what R327 keeps there. A refill that cannot be read fails
the instruction that waits for it (R305, R328). -/
def execSpillRefillDone (team : BitVec 8) (s : State) : Out :=
  let t := team.toNat
  let x := getTeam s t
  if x.waiting then
    match x.stkq.head? with
    | some (c, e) =>
      let m := stkMoves s c e.op
      (match moveNear s t (if m.1 ≠ 0 then min x.near (stackNear s t - m.1) else max x.near (min x.used m.2)) with
        | (s1, .ok _) => .next (onTeam s1 t fun x => { x with moved := true })
        | (s1, .error a) => .next (stkFail s1 c e.thr e.pc (stAddrUnmapped, a)))
    | none => .next (onTeam s t fun x => { x with waiting := false, moved := false })
  else .next (moveNear s t (nearGoal s t x.used)).1

/-- HELD bytes become free at a boundary (R323). -/
def freeHeld (s : State) : State :=
  (s.tower.teams.map (·.1)).foldl (fun s t => onTeam s t fun x => { x with held := 0 }) s

/-- Empty a team's stack (R330). -/
def emptyStack (s : State) (t : Nat) : State :=
  onTeam s t fun x => { x with frames := [], used := 0, held := 0, near := 0, waiting := false, moved := false }

end Sys2Proof.Machine
end

