-- ==== Sys2Proof/Machine/Watch.lean ====
section
/-! DEFINITION. The first-NaN trap (R269 to R272), and the close of a step: watch records, the stillness rule and the ledger record (R275 to R278,
R340). -/

namespace Sys2Proof.Machine

/-! ### The trap latch -/

/-- Must report `j` reach the latch before report `i` (R271)? Writes 4 ck apart or more arrive in their order among tower reports, and 16 ck apart
or more between a tower report and a hub report; hub reports take one time, so they arrive in their order, those of one ck by hub and UNIT. -/
def nanBefore (j i : NanRep) : Bool :=
  if j.hub && i.hub then
    decide (j.wrote < i.wrote) || (j.wrote == i.wrote && (decide (j.src < i.src) || (j.src == i.src && decide (j.unit < i.unit))))
  else if !j.hub && !i.hub then decide (j.wrote + 4 * ckUnits ≤ i.wrote)
  else decide (j.wrote + 16 * ckUnits ≤ i.wrote)

/-- NAN_REPORT: a report on its way reaches the latch, when no report on its way must come before it (R270, R271). -/
def execNanReport (idx : Nat) (s : State) : Out :=
  match s.tower.nans[idx]? with
  | none => .next s
  | some r =>
    if s.tower.nans.any fun j => nanBefore j r then .next s else
    let s1 := onTower s fun w => { w with nans := w.nans.eraseIdx idx }
    if cfgNanArm s ∧ !s.watch.trapped then
      .next (sendEvent (onWatch s1 fun w => { w with trapped := true, trapRec := r.body }) stNanTrap 0x000A r.body)
    else .next (onWatch s1 fun w => { w with nanCnt := satAdd 32 w.nanCnt 1 })

/-! ### Steps (R275) -/

def stepOpen (s : State) (n : Nat) : Bool := s.watch.open_.any fun o => o.step == n

/-- Change an open step. -/
def onOpen (s : State) (n : Nat) (f : OpenStep → OpenStep) : State :=
  let g := fun (o : OpenStep) => if o.step = n then f o else o
  onWatch s fun w => { w with open_ := w.open_.map g }

/-- Insert an entry in ascending tensor and source. -/
def entryIns (e : WatchEntry) : List WatchEntry → List WatchEntry
  | [] => [e]
  | x :: xs => if e.tensor < x.tensor ∨ (e.tensor = x.tensor ∧ e.source < x.source) then e :: x :: xs else x :: entryIns e xs

/-- Is the zero share of an entry above the threshold (R277)? -/
def aboveShare (s : State) (e : WatchEntry) : Bool := decide (cfgZeroPct s * e.elements < e.zeros * 100)

/-- The run table after a record of an entry: the table, the run count, whether the alarm fires, and whether the entry could be tracked. -/
def runAfter (s : State) (e : WatchEntry) : List RunEntry × Nat × Bool × Bool :=
  let mine := fun (r : RunEntry) => r.tensor == e.tensor && r.source == e.source
  let have_ := s.watch.runs.find? mine
  if have_.isNone ∧ 16384 ≤ s.watch.runs.length then (s.watch.runs, 0, false, false)
  else
    let old := have_.getD ⟨e.tensor, e.source, 0, false⟩
    let run := if aboveShare s e then min 65535 (old.run + 1) else 0
    let fires := aboveShare s e && cfgStillEn s && !old.fired && decide (cfgStillSteps s ≤ run)
    let new : RunEntry := ⟨e.tensor, e.source, run, aboveShare s e && (old.fired || fires)⟩
    let upd := fun (r : RunEntry) => if mine r then new else r
    (if have_.isSome then s.watch.runs.map upd else s.watch.runs ++ [new], run, fires, true)

/-- Form one watch record (R276, R277, Table 10.5). -/
def watchRecord (s : State) (forced : Bool) (e : WatchEntry) : State :=
  let r := runAfter s e
  let body := leBytes 8 e.step ++ leBytes 4 e.tensor ++ leBytes 1 e.source ++
    leBytes 1 (b2n forced + 2 * b2n r.2.2.1 + 4 * b2n (aboveShare s e)) ++ leBytes 2 0 ++ leBytes 8 e.elements ++ leBytes 8 e.zeros ++
    leBytes 8 e.sats ++ leBytes 8 e.nonfinite ++ leBytes 2 r.2.1 ++ leBytes 2 0 ++ leBytes 4 s.tick.count ++ leBytes 4 0
  let s1 := onWatch s fun w =>
    { w with runs := r.1, entryDrop := if r.2.2.2 then w.entryDrop else satAdd 32 w.entryDrop 1,
             alarms := if r.2.2.1 then
                 w.alarms ++ [⟨e.tensor, e.source, r.2.1, e.step, 1000 * e.zeros / max 1 e.elements, cfgZeroPct s, s.tick.count⟩]
               else w.alarms }
  let log := cfgWatchLog s
  if log.1 = 0 ∨ log.2 = 0 then s1
  else
    let q := ringWrite s1 (log.1 + s.watch.logSeq % log.2 * 64) (body ++ leBytes 4 (crc32c body))
    onWatch q.1 fun w => { w with logSeq := (w.logSeq + 1) % 2 ^ 64, recDrop := if q.2 then w.recDrop else satAdd 32 w.recDrop 1 }

/-- Form the ledger record of a step (R340, Table 12.5). -/
def ledgerRecord (s : State) (o : OpenStep) (forced : Bool) : State :=
  let log := cfgLedgerLog s
  if log.1 = 0 ∨ log.2 = 0 then s
  else
    let fl := o.closing.getD 0 + 4 * b2n forced +
      8 * b2n (bit o.flags 0) + 16 * b2n (bit o.flags 1) + 32 * b2n (bit o.flags 3)
    let body := leBytes 8 o.step ++ leBytes 8 o.firstTick ++ leBytes 8 o.lastTick ++ leBytes 4 fl ++ leBytes 4 o.tasks ++
      ((List.range 10).flatMap fun i => leBytes 8 (smGet 0 o.phases i)) ++ leBytes 2 (min 65535 o.overruns) ++
      leBytes 2 (min 65535 o.carry) ++ leBytes 4 (o.tokens / 100000) ++ leBytes 4 0
    let q := ringWrite s (log.1 + s.watch.ledSeq % log.2 * 128) (body ++ leBytes 4 (crc32c body))
    onWatch q.1 fun w => { w with ledSeq := (w.ledSeq + 1) % 2 ^ 64, ledRecDrop := if q.2 then w.ledRecDrop else satAdd 32 w.ledRecDrop 1 }

/-- Close a step: its watch records in ascending tensor and source, then its ledger record (R275, R276, R340). -/
def closeStep (s : State) (o : OpenStep) (forced : Bool) : State :=
  let es := (s.watch.entries.filter fun e => e.step == o.step).foldl (fun l e => entryIns e l) []
  let s1 := es.foldl (fun s e => watchRecord s forced e) s
  let s2 := ledgerRecord s1 o forced
  let closed := if s2.watch.closed.contains o.step then s2.watch.closed else s2.watch.closed ++ [o.step]
  onWatch s2 fun w => { w with entries := w.entries.filter fun e => e.step != o.step, open_ := w.open_.filter fun x => x.step != o.step,
                               closed := closed }

/-- Close the steps whose fence has had its final reply (R275). -/
def closeDue (s : State) : State :=
  (s.watch.open_.filter fun o => o.closing.isSome).foldl (fun s o => closeStep s o false) s

/-- The oldest open step. -/
def oldestOpen (s : State) : Option OpenStep :=
  s.watch.open_.foldl (fun m o => match m with | none => some o | some x => if o.step < x.step then some o else some x) none

/-- Open a step at the admission of its first task; a fifth open step forces the oldest closed (R275). A step that has closed, or that is lower
than the oldest open one, is not opened: what is attributed to it is lost. One whose fence has had its final reply already closes at the next
boundary. -/
def openStep (s : State) (n : Nat) : State :=
  if stepOpen s n || s.watch.closed.contains n || (match oldestOpen s with | some o => decide (n < o.step) | none => false) then s
  else
    let s1 := if 4 ≤ s.watch.open_.length then (match oldestOpen s with | some o => closeStep s o true | none => s) else s
    let said := (s1.watch.fences.find? fun f => f.1 == n).bind (·.2.2)
    onWatch s1 fun w => { w with open_ := w.open_ ++ [{ step := n, closing := said }] }

/-- A STEP_FENCE with a step number is accepted; the first one that carries the number is to close the step (R275). -/
def fenceSeen (s : State) (x : Slot) : State :=
  if x.opcode = 0x0403 ∧ x.stepValid ∧ !(s.watch.fences.any fun f => f.1 == x.step) then
    onWatch s fun w => { w with fences := w.fences ++ [(x.step, x.sid, none)] }
  else s

/-- A STEP_FENCE has its final reply. If it is the first one that carries its step number, it closes the step at the next boundary, and says what became of
it, whatever the status (R275, R340). -/
def fenceCloses (s : State) (sid step outcome : Nat) : State :=
  if s.watch.fences.contains (step, sid, none) then
    let put := fun (f : Nat × Nat × Option Nat) => if f.1 = step then (step, sid, some outcome) else f
    onOpen (onWatch s fun w => { w with fences := w.fences.map put }) step fun o => { o with closing := some outcome }
  else s

/-- A STEP_FENCE is refused. -/
def fenceRefused (s : State) (x : Slot) : State := if x.opcode = 0x0403 ∧ x.stepValid then fenceCloses s x.sid x.step 0 else s

/-- STILL_ALARM: an alarm whose record has been formed fires (R277, Table 10.6). -/
def execStillAlarm (s : State) : Out :=
  match s.watch.alarms with
  | [] => .next s
  | a :: rest =>
    let s1 := onWatch s fun w => { w with alarms := rest, alarmCnt := satAdd 32 w.alarmCnt 1 }
    .next (sendEventOf s1 a.tick stStillAlarm 0x000B (leBytes 4 a.tensor ++ leBytes 1 a.source ++ leBytes 1 0 ++ leBytes 2 a.run ++ leBytes 8 a.step ++
      leBytes 2 a.permille ++ leBytes 2 a.pct ++ leBytes 4 0))

end Sys2Proof.Machine
end

