-- ==== Sys2Proof/Machine/Tasks.lean ====
section
/-! DEFINITION. Tick tasks from their arrival to their end: refusals and admission (R49 to R51, R110, R333), the begin of a task on its cores
(R127, R136), overrun (R52), carry-over and marks (R53, R54), the end (R111, R138), and cancellation (R84, R112, R139, R478, R480). -/

namespace Sys2Proof.Machine

/-! ### Tasks -/

def onTask (s : State) (sid : Nat) (f : Task → Task) : State :=
  let g := fun (k : Task) => if k.sid = sid then f k else k
  onTick s fun t => { t with tasks := t.tasks.map g }
def dropTask (s : State) (sid : Nat) : State := onTick s fun t => { t with tasks := t.tasks.filter fun k => k.sid != sid }
/-- Logical cores a task runs on. -/
def taskCores (k : Task) : List Nat := (maskTeams k.teams).flatMap fun t => natsFrom (8 * t) 8
/-- Does a core run the task? -/
def runsTask (s : State) (sid c : Nat) : Bool :=
  match (getCore s c).prog with
  | some p => p.taskSid == sid
  | none => false

/-- ORDERED is met when every earlier command of the channel has its final reply formed (Table 03.3). -/
def orderedMet (s : State) (mgmt : Bool) (sid : Nat) : Bool :=
  s.mp.slots.all fun x => x.mgmt != mgmt || decide (sid ≤ x.sid) || x.work == .done
/-- Condition 1 of R50: the low 32 bits of TICK.COUNT are at or past the tick named. -/
def tickReached (s : State) (tnb : Nat) : Bool := decide (0 ≤ sgn 32 (s.tick.count + 2 ^ 32 - tnb % 2 ^ 32))
def tnbMet (s : State) (tnb : Option Nat) : Bool := match tnb with | some t => tickReached s t | none => true

/-! ### Refusals (R109, R110) -/

/-- Does the task break the evaluation-slice rule? -/
def sliceBroken (s : State) (teams phase : Nat) : Bool :=
  if phase = 6 then teams &&& cfgEvalTeams s != teams else teams &&& cfgEvalTeams s != 0

/-- Checks 1 and 2 of R110, which also run at arrival (R49, R54). -/
def arrivalRefusal (s : State) (k : Task) : Option (Nat × Nat) :=
  match (maskTeams k.teams).find? (isQuarantined s) with
  | some t => some (stTeamQuarantined, t)
  | none => if usableInterval s < k.budget then some (stTaskTooLong, 0) else none

/-- Checks 1 to 5 of R110. -/
def boundaryRefusal (s : State) (k : Task) : Option (Nat × Nat) :=
  match arrivalRefusal s k with
  | some r => some r
  | none =>
    if sliceBroken s k.teams k.phase then some (stBadParam, 0)
    else if 512 < k.threads ∧ (maskTeams k.teams).any (teamDegraded s) then some (stBadParam, 44)
    else if k.epoch ≠ 0 ∧ k.epoch ≠ s.step.epochCur ∧ s.step.epochPrev ≠ some k.epoch then some (stEpochRetired, 0)
    else none

/-- SH words whose shadow differs from the active value. -/
def changedWords (s : State) : List ShWord := shWords.filter fun w => cfgGet s.cfg.shadow w.addr != cfgGet s.cfg.active w.addr

/-- Teams that a changed word governs, as a mask: a change of the evaluation slice governs every team of the old slice and of the new (R92,
Table 03.13). -/
def clsTeams (s : State) (w : ShWord) : Nat :=
  match w.cls with
  | .nm n => layerMask n
  | .eval => cfgEvalTeams s ||| cfgEvalTeams { s with cfg := { s.cfg with active := s.cfg.shadow } }
  | _ => 0

/-- Teams that the changed class Q fields govern, as a mask. -/
def governedTeams (s : State) : Nat := (changedWords s).foldl (fun m w => m ||| clsTeams s w) 0

/-- Teams that a commit waiting for class Q units keeps from admission (R92), as a mask. -/
def commitTeams (s : State) : Nat := match s.mp.commit with | some (_, some _) => governedTeams s | _ => 0

/-- Allowance of a team in ck in the tick that opens: the usable time, or the curb's part of it (R50, R508). -/
def teamAllowance (s : State) (t : Nat) : Nat := usableOf s s.tick.curLen * layerCurb s (t / 64) / 100

/-- Budgets admitted on a team in the tick that opens. -/
def admittedBudget (s : State) (t : Nat) : Nat :=
  ((s.tick.tasks.filter fun k => k.admitted && k.admitTick == s.tick.count && k.teams.testBit t).map (·.budget)).sum

/-- Check 6 of R110: must the task wait? -/
def mustWait (s : State) (k : Task) : Bool :=
  !tnbMet s k.tnb || (k.ordered && !orderedMet s false k.sid) ||
  (s.tick.tasks.any fun j => shareTeam j.teams k.teams &&
    ((j.admitted && j.admitTick != s.tick.count) || (!j.admitted && decide (j.sid < k.sid)))) ||
  ((maskTeams k.teams).any fun t => decide (teamAllowance s t < admittedBudget s t + k.budget)) ||
  shareTeam k.teams (commitTeams s) || (k.phase == 6 && (s.step.snapshot.isSome || s.step.evalResume))

/-- Bytes that a team's stack cannot promise to others: USED and the footprints of its tasks (R333). -/
def stackClaimed (s : State) (t : Nat) : Nat :=
  (getTeam s t).used + ((s.tick.tasks.filter fun k => k.admitted && k.teams.testBit t).map (·.footprint)).sum

/-- Check 7 of R110: the first team without room. -/
def footprintLack (s : State) (k : Task) : Option Nat :=
  (maskTeams k.teams).find? fun t => decide (stackCap s t < stackClaimed s t + k.footprint)

/-! ### Admission (R110) -/

/-- A waiting task ends with a refusal. -/
def refuseTask (s : State) (k : Task) (status detail : Nat) : State := finalReply (dropTask s k.sid) k.sid status detail []

/-- Take one waiting task. -/
def admitOne (s : State) (k : Task) : State :=
  match boundaryRefusal s k with
  | some (st, d) => refuseTask s k st d
  | none =>
    if mustWait s k then onAcc s fun a => { a with deferred := min 65535 (a.deferred + 1) }
    else
      match footprintLack s k with
      | some t => onMemCnt (refuseTask s k stStackExhausted t) fun c => { c with asRefuse := satAdd 32 c.asRefuse 1 }
      | none =>
        let e := if k.epoch = 0 then s.step.epochCur else k.epoch
        let s1 := onTask s k.sid fun k => { k with admitted := true, admitTick := s.tick.count, epochRes := e, margin := marginCk s }
        onTick s1 fun t => { t with curStep := k.step.getD t.curStep, acc := { t.acc with admitted := min 65535 (t.acc.admitted + 1) } }

/-- The tasks admitted at this boundary are attributed to their steps, which they open (R274, R275). -/
def attributeTasks (s : State) : State :=
  (s.tick.tasks.filter fun k => k.admitted && k.admitTick == s.tick.count).foldl (fun s k =>
    let n := k.step.getD s.tick.curStep
    openStep (onTask s k.sid fun k => { k with stepRes := n }) n) s

/-- Step 4 of R41: waiting tasks in order of arrival. -/
def admitTasks (s : State) : State :=
  attributeTasks ((s.tick.tasks.filter fun k => !k.admitted).foldl admitOne s)

/-! ### Begin (R51, R127, R136, R166) -/

/-- The registers at thread start (Table 05.1). -/
def startRegs (k : Task) (c i : Nat) : Vector W64 32 :=
  (((((Vector.replicate 32 (0 : W64)).set 1 (n64 i)).set 2 (n64 c)).set 3 (n64 k.arg)).set 4 (n64 k.epochRes)).set 5 (n64 k.tag)

/-- A task begins on a core. -/
def startSlot (k : Task) (p : Prog) (handle : Nat) (s : State) (c : Nat) : State :=
  let old := getCore s c
  let at_ := fun (k : Nat) => c * 2 ^ 20 + k * 65536
  let s1 := if p.scratch64k = old.scratch64k then s
    else undefSpadRange s (at_ (min p.scratch64k old.scratch64k)) (at_ (max p.scratch64k old.scratch64k))
  let prog : CoreProg := ⟨handle, p.image, p.image + p.codeOff, p.image + p.codeOff + p.codeLen, k.sid, k.tag, k.phase, k.stepRes⟩
  let ths := (List.range k.threads).map fun i => (i, (⟨.ready, p.image + k.entry, startRegs k c i, false, s.now⟩ : Thread))
  onCore s1 c fun x =>
    { x with prog := some prog, scratch64k := p.scratch64k, threads := ths, acc := [], accDraw := none, stat := {}, ctxs := [], l1 := [],
             mregs := [], ibuf := [] }

/-- A task begins on a slot. The team node keeps it until the next seal, so that a replay can begin it again; a slot that is stopped, or has tasks
of the tick still to replay, begins it after them (R474). -/
def startCore (k : Task) (p : Prog) (handle : Nat) (s : State) (c : Nat) : State :=
  let n := getNode s c
  let b : Begun := ⟨k, p, handle⟩
  let later := n.mode == 1 || n.mode == 2 || n.mode == 4 || !n.replayQ.isEmpty
  let s1 := onNode s c fun n => { n with begun := n.begun ++ [b], replayQ := if later then n.replayQ ++ [b] else [] }
  if later then s1 else startSlot k p handle s1 c

/-- May an admitted task begin now? -/
def canBegin (s : State) (k : Task) : Bool :=
  k.admitted && !k.running && (k.carried || !s.mp.inWindow) &&
  !(s.tick.tasks.any fun j => j.admitted && decide (j.sid < k.sid) && shareTeam j.teams k.teams)

/-- Begin a task on all its cores. -/
def beginTask (s : State) (k : Task) : State :=
  match smGet? s.progs k.handle with
  | none => s
  | some p =>
    let s1 := (taskCores k).foldl (startCore k p k.handle) s
    onTask s1 k.sid fun k => { k with running := true, startAt := s.now, excl := 0, exclFrom := none }

/-- Begin every task that may begin. -/
def startTasks (s : State) : State := settle ((s.tick.tasks.filter (canBegin s)).foldl beginTask s)

/-! ### Overrun (R52, R54) -/

def overrunDue (s : State) (k : Task) : Bool := k.running && !k.overrun && decide (k.budget + k.margin < countedCk s k)

/-- Record an overrun, with a mark for each of the task's teams. -/
def recordOverrun (s : State) (k : Task) : State :=
  let s1 := onTask s k.sid fun k => { k with overrun := true }
  let s2 := onTick s1 fun t => { t with overrunCnt := satAdd 32 t.overrunCnt 1, acc := { t.acc with overruns := min 65535 (t.acc.overruns + 1) } }
  let s3 := (maskTeams k.teams).foldl (fun s t => markTeam s t s.tick.count) s2
  onOpen s3 k.stepRes fun o => { o with overruns := o.overruns + 1 }

/-- Record the overruns that are due. -/
def checkOverruns (s : State) : State := (s.tick.tasks.filter (overrunDue s)).foldl recordOverrun s

/-! ### Carry-over at the closing boundary (R53, R54) -/

/-- Teams of the tasks that carry over. -/
def carryTeams (s : State) : Nat := ((s.tick.tasks.filter (·.admitted)).foldl (fun m k => m ||| k.teams) 0)

/-- One task carries over; one that has overrun in an earlier tick marks its teams for the tick that closes. -/
def carryOne (s : State) (k : Task) : State :=
  let s1 := onTick (onTask s k.sid fun k => { k with carried := true }) fun t => { t with carryCnt := satAdd 32 t.carryCnt 1 }
  let s2 := if k.overrun then (maskTeams k.teams).foldl (fun s t => markTeam s t s.tick.count) s1 else s1
  onOpen s2 k.stepRes fun o => { o with carry := o.carry + 1 }

def carryAll (s : State) : State := (s.tick.tasks.filter (·.admitted)).foldl carryOne s

/-! ### End (R52, R111, R138) -/

/-- Has the task ended on every core it runs on? A slot that replays has ended it when all that the replay begins again has ended: the replay may
complete fewer instructions than the failed tick, where a thread polls (R476). -/
def taskDone (s : State) (k : Task) : Bool :=
  k.running && (taskCores k).all fun c =>
    slotServed s c && (getNode s c).replayQ.isEmpty && runsTask s k.sid c && ((getCore s c).threads.all fun th => th.2.st == .ended) &&
    (s.tower.streams.all fun x => x.1 / 8 != c || x.2.run.isNone || x.2.taskSid != k.sid)

/-- An instruction that a task left behind in a queue belongs to none of the next task's threads; it keeps its task's program (R272). -/
def orphanEntry {α : Type} (p : Option CoreProg) (e : QEntry α) : QEntry α :=
  if 1024 ≤ e.thr then e else { e with thr := e.thr + 1024, task := p }

/-- A core has no task: its threads and their watches go, what its units' queues still hold has no thread any more, and the accumulators'
contents are undefined from now on (R138, R147, R166). -/
def leaveCore (s : State) (c : Nat) : State :=
  let p := (getCore s c).prog
  let s1 := onCore { s with draws := s.draws + 1 } c fun x =>
    { x with prog := none, threads := [], ctxs := [], acc := [], accDraw := some s.draws,
             matq := x.matq.map (orphanEntry p), rowq := x.rowq.map (orphanEntry p), convq := x.convq.map (orphanEntry p),
             packq := x.packq.map (orphanEntry p) }
  let s2 := onTeam s1 (teamOf c) fun x => { x with stkq := x.stkq.map fun e => if e.1 = c then (c, orphanEntry p e.2) else e }
  trimWatches s2 c
/-- Streams of a slot, by their INDEX, that run again in a replay and had posted: each completes with no second completion (R156). -/
def runsPosted (s : State) (c : Nat) : List Nat :=
  (List.range 8).filter fun i =>
    (getNode s c).suppress.posted.contains i && (match (getStream s (8 * c + i)).run with | some (.move _) => true | _ => false)
/-- The replay of a slot is over, since nothing is left to run: what its threads had done and did not do again is not left out of what follows. What
the units' queues still hold goes on being left out (R148, R301). -/
def replayOver (s : State) (c : Nat) : State :=
  let n := getNode s c
  let k := getCore s c
  let empty := k.matq.isEmpty && k.rowq.isEmpty && k.convq.isEmpty && k.packq.isEmpty && (getTeam s (teamOf c)).stkq.all fun e => e.1 != c
  let rest := { n.suppress with signals := [], posted := runsPosted s c, faults := 0, instrs := 0, entries := if empty then 0 else n.suppress.entries }
  let n1 := catchUp { n with suppress := rest }
  if n = n1 then s else onNode s c fun _ => n1
def clearCore (s : State) (sid c : Nat) : State := if runsTask s sid c then replayOver (leaveCore s c) c else s

/-! ### Seals (R472) -/

/-- The seal of a slot. Tasks that a replay has yet to begin again begin after it. -/
def sealSlot (s : State) (c : Nat) : State :=
  let lo := c * 2 ^ 20
  let hi := (c + 1) * 2 ^ 20
  let rec_ : SealRec :=
    { core := getCore s c,
      spad := s.mem.spad.filter fun x => decide (lo ≤ x.1) && decide (x.1 < hi),
      undef := s.mem.undefSpad.filter fun u => decide (lo ≤ u.lo) && decide (u.lo < hi),
      streams := (natsFrom (8 * c) 8).map fun i => (i, getStream s i),
      stkq := ((getTeam s (teamOf c)).stkq.filter fun e => e.1 == c).map (·.2),
      suppress := (getNode s c).suppress, parts := (getNode s c).parts }
  onNode s c fun n => { n with eff := {}, begun := n.replayQ, sealed := some rec_ }

/-- Every slot that holds anything, or did in the tick that ends, seals it. -/
def sealAll (s : State) : State := (s.tower.cores.map (·.1) ++ s.tower.slots.map (·.1)).foldl sealSlot s

/-- The final reply of a task that ran. -/
def taskReply (s : State) (k : Task) : State :=
  let n := countedCk s k
  let st := if k.overrun then stTickOverrun else stOk
  let excess := if k.overrun then min 65535 (ceilDiv (n - k.budget) 1500) else 0
  finalReply s k.sid st excess (leBytes 8 k.admitTick ++ leBytes 8 s.tick.count ++ leBytes 4 (min n (2 ^ 32 - 1)) ++ zeroBytes 4)

/-- End a task that is done: its reply, its place in the ledger (TASKS, Table 12.5), its cores, and what may begin after it; ballast is planned again (R66). -/
def endTask (s : State) (k : Task) : State :=
  let s1 := if overrunDue s k then recordOverrun s k else s
  let k1 := (s1.tick.tasks.find? fun j => j.sid == k.sid).getD k
  let s2 := onOpen (onAcc (dropTask (taskReply s1 k1) k.sid) fun a => { a with worked := a.worked ||| k1.teams }) k1.stepRes fun o => { o with tasks := satAdd 32 o.tasks 1 }
  settle (planBallast (startTasks ((taskCores k).foldl (fun s c => clearCore s k.sid c) s2)))

/-- TASK_END. -/
def execTaskEnd (tag : W32) (s : State) : Out :=
  match s.tick.tasks.find? fun k => k.tag == tag.toNat && k.running with
  | some k => .next (if taskDone s k then endTask s k else s)
  | none => .next s

/-- TICK_OVERRUN. -/
def execTickOverrun (tag : W32) (s : State) : Out :=
  match s.tick.tasks.find? fun k => k.tag == tag.toNat && k.running with
  | some k => .next (if overrunDue s k then recordOverrun s k else s)
  | none => .next s

/-! ### Cancellation -/

/-- Stop what a core runs for a task: its threads end, its queued instructions and contexts go, its streams post ST_CANCELLED (R154). Nothing of it is
replayed, so what a replay left out ends, but for a stream that had posted already and runs again; and the slot is sealed as it is now. -/
def stopCore (s : State) (sid c : Nat) : State :=
  let forced := fun (p : Nat × StreamSlot) =>
    if p.1 / 8 = c ∧ p.2.run.isSome ∧ p.2.taskSid = sid then (p.1, { p.2 with forced := some stCancelled, adopt := false }) else p
  let s1 := onTower s fun w => { w with streams := w.streams.map forced }
  if runsTask s1 sid c || (getNode s1 c).replayQ.any fun b => b.task.sid == sid then
    let s2 := onCore (leaveCore s1 c) c fun x => { x with matq := [], rowq := [], convq := [], packq := [], rowBusy := false, convBusy := false }
    let s3 := onTeam s2 (teamOf c) fun x => { x with stkq := x.stkq.filter fun e => e.1 != c }
    sealSlot (onNode s3 c fun n => { n with suppress := { posted := runsPosted s3 c }, parts := [], replayQ := [],
                                             mode := if n.mode = 2 then 0 else n.mode }) c
  else s1

/-- Stop a task, admitted or waiting, with ST_CANCELLED (R84, R139, R478, R480); an admitted one has ended (TASKS, Table 12.5). -/
def stopTask (s : State) (k : Task) : State :=
  let s0 := onAcc (dropTask s k.sid) fun a => { a with worked := if k.admitted then a.worked ||| k.teams else a.worked }
  let s1 := if k.admitted then onOpen s0 k.stepRes fun o => { o with tasks := satAdd 32 o.tasks 1 } else s0
  finalReply ((taskCores k).foldl (fun s c => stopCore s k.sid c) s1) k.sid stCancelled 0 []

/-- What else follows when tasks have been stopped. -/
def afterStops (s : State) : State := settle (planBallast (startTasks s))

/-! ### Rows of the tick that concern tasks and grants -/

/-- GRANT_EXHAUSTED (R57). -/
def execGrantExhausted (g : Grantee) (s : State) : Out :=
  match granteeId s g with
  | some i => .next (if s.tick.running then exhaustGrant s i else s)
  | none => .next s

/-- QUARANTINE: step 3 of R41 for one team, which only a boundary takes (R54). -/
def execQuarantine (team : BitVec 8) (s : State) : Out :=
  .next (if s.mp.inWindow && quarantineDue s team.toNat then quarantineTeam s team.toNat else s)

end Sys2Proof.Machine
end

