-- ==== Sys2Proof/Machine/Commit.lean ====
section
/-! DEFINITION. The commit cycle (R90 to R95): the agreement rules of Table 03.12, the refused combinations of Table 04.18, class Q, and what the
application of a commit does (R282, R330, R403). -/

namespace Sys2Proof.Machine

/-! ### Agreement rules (Table 03.12) -/

/-- Field of a word of a configuration. -/
def cF (c : List (Nat × Nat)) (a lo len : Nat) : Nat := fld (cfgGet c a) lo len

/-- A failed check: rule, row, and the lowest address among its fields (R93). -/
structure Disagree where
  rule : Nat
  row : Nat
  addr : Nat
deriving DecidableEq, Repr

def failIf (b : Bool) (rule row addr : Nat) : Option Disagree := if b then some ⟨rule, row, addr⟩ else none
/-- The first of some checks that fails. -/
def firstFail : List (Option Disagree) → Option Disagree
  | [] => none
  | some d :: _ => some d
  | none :: r => firstFail r

/-- Is a field's value in its range, alignment included? -/
def fieldOk (w : Nat) (f : ShField) : Bool :=
  let v := fld w f.lo f.len
  decide (f.min ≤ v ∧ v ≤ f.max ∧ v % f.align = 0)

def agree1 (c : List (Nat × Nat)) : Option Disagree :=
  (shWords.find? fun w => !(w.fields.all fun f => fieldOk (cfgGet c w.addr) f)).map fun w => ⟨1, 0, w.addr⟩

/-- The enabled rings and extents of row 2 of Table 04.18: lowest field address, base, length. -/
def cfgExtents (c : List (Nat × Nat)) : List (Nat × Nat × Nat) :=
  ([(baseTick + 0x30, cF c (baseTick + 0x30) 0 48, 64 * cF c (baseTick + 0x38) 0 16),
    (baseWatch + 8, cF c (baseWatch + 8) 0 48, 64 * cF c (baseWatch + 0x10) 0 24)].filter fun e => e.2.1 != 0 && e.2.2 != 0) ++
  (((List.range 4).map fun n =>
    (baseNm + 0x20 + 0x10 * n, cF c (baseNm + 0x20 + 0x10 * n) 0 48, cF c (baseNm + 0x28 + 0x10 * n) 0 32 * 2 ^ 20)).filter fun e => e.2.2 != 0) ++
  [(baseLedger, cF c baseLedger 0 48, 128 * cF c (baseLedger + 8) 0 16)].filter fun e => e.2.1 != 0 && e.2.2 != 0

/-- The firmware receive ring, where it is enabled. -/
def cfgNetExtent (c : List (Nat × Nat)) : List (Nat × Nat × Nat) :=
  [(baseFw + 0x18, cF c (baseFw + 0x18) 0 48, 4160 * cF c (baseFw + 0x20) 0 16)].filter fun e => e.2.1 != 0 && e.2.2 != 0

def rangesMeet (a la b lb : Nat) : Bool := decide (a < b + lb) && decide (b < a + la)

/-- Base of a hub's SRAM and end of its groom-reserved part in a configuration. -/
def reservedEnd (c : List (Nat × Nat)) (k : Nat) : Nat := sramBase + k * 2 ^ 32 + cF c (baseGroom + 8 * k) 0 11 * 2 ^ 20

/-- Rule 7: the TICK ring, when enabled, lies wholly in the variant's stack region or in the general part of one hub's SRAM. -/
def agree7 (s : State) (c : List (Nat × Nat)) : Bool :=
  let b := cF c (baseTick + 0x30) 0 48
  let l := 64 * cF c (baseTick + 0x38) 0 16
  b == 0 || l == 0 || decide (b + l ≤ stackEnd s) ||
    (List.range (hubCount s)).any fun k => decide (reservedEnd c k ≤ b) && decide (b + l ≤ sramBase + k * 2 ^ 32 + sramLen)

/-- Rule 8 for a layer: the sum, then the extent. -/
def agree8 (s : State) (c : List (Nat × Nat)) (n : Nat) : Option Disagree :=
  let w := cfgGet c (baseNm + 8 * n)
  let xb := cF c (baseNm + 0x20 + 0x10 * n) 0 48
  let xl := cF c (baseNm + 0x28 + 0x10 * n) 0 32 * 2 ^ 20
  firstFail [failIf (decide (fld w 0 16 + fld w 16 16 + fld w 32 16 + fld w 48 16 ≠ 2048)) 8 0 (baseNm + 8 * n),
    failIf (decide (xl ≠ 0) && decide (stackEnd s < xb + xl)) 8 0 (baseNm + 0x20 + 0x10 * n)]

/-- Rule 9 for a hub. -/
def agree9 (c : List (Nat × Nat)) (k : Nat) : Option Disagree :=
  let lo := sramBase + k * 2 ^ 32
  ((cfgExtents c ++ cfgNetExtent c).find? fun e => rangesMeet lo (reservedEnd c k - lo) e.2.1 e.2.2).map fun e =>
    ⟨9, 0, min e.1 (baseGroom + 8 * k)⟩

/-- Enabled lanes mapped to a port in a configuration, ascending (Table 04.16). -/
def cfgLanes (c : List (Nat × Nat)) (k p : Nat) : List Nat :=
  (List.range 16).filter fun j => bit (cF c (baseEth + 0x10 * k + 8) 32 16) j && cF c (baseEth + 0x10 * k) (4 * j) 4 == p
/-- Rule 10 for one port: 1, 2, 4 or 8 lanes, contiguous and aligned. -/
def lanesOk (l : List Nat) : Bool :=
  let n := l.length
  let a := l.head?.getD 0
  n == 0 || ((n == 1 || n == 2 || n == 4 || n == 8) && a % n == 0 && l == natsFrom a n)
def agree10 (c : List (Nat × Nat)) (k : Nat) : Bool := (List.range 16).all fun p => lanesOk (cfgLanes c k p)

/-- Rule 11: a training team is left in each layer. -/
def agree11 (c : List (Nat × Nat)) : Bool := (List.range 4).all fun n => cfgGet c (baseEval + 8 * n) != 2 ^ 64 - 1

/-- First pair of extents that overlap, in ascending order of their fields: its lower address is the one reported (DESIGN CHOICE, log entry 160). -/
def overlapPair : List (Nat × Nat × Nat) → Option Nat
  | [] => none
  | e :: es => if es.any fun f => rangesMeet e.2.1 e.2.2 f.2.1 f.2.2 then some e.1 else overlapPair es

/-- Row 6 of Table 04.18: does a lane group of 8 hold ports of both modes? -/
def mixedModes (c : List (Nat × Nat)) (k : Nat) : Bool :=
  let kr := cF c (baseEth + 0x10 * k + 8) 0 16
  [0, 1].any fun g =>
    let ps := (List.range 16).filter fun p => (cfgLanes c k p).any fun j => j / 8 == g
    (ps.any fun p => bit kr p) && ps.any fun p => !bit kr p

/-- Rule 12: the first matching row of Table 04.18. -/
def agree12 (s : State) (c : List (Nat × Nat)) : Option Disagree :=
  let hubs := List.range (hubCount s)
  firstFail (
    [failIf (cF c baseTick 24 2 == 1 && hubs.all fun k => cF c (baseEth + 0x10 * k + 8) 16 16 == 0) 12 1 baseTick,
     (overlapPair (cfgExtents c)).map fun a => ⟨12, 2, a⟩] ++
    ((List.range 4).map fun n =>
      failIf (cF c (baseNm + 8 * n) 16 16 == 0 && cF c (baseNm + 0x28 + 0x10 * n) 0 32 != 0) 12 3 (baseNm + 8 * n)) ++
    [failIf (decide (cF c basePack 0 32 < 2 * cF c baseTick 0 13)) 12 4 baseTick,
     failIf (cF c baseWatch 7 1 == 1 && cF c baseWatch 0 7 == 100) 12 5 baseWatch] ++
    hubs.map fun k => failIf (mixedModes c k) 12 6 (baseEth + 0x10 * k))

/-- The first agreement rule that the shadow breaks (R94). -/
def agreeFail (s : State) : Option Disagree :=
  let c := s.cfg.shadow
  let iv := cF c baseTick 0 13
  let hubs := List.range (hubCount s)
  firstFail (
    [agree1 c,
     failIf (cF c baseTick 24 2 == 3) 2 0 baseTick,
     failIf (decide (iv * 1000 ≤ cF c (baseTick + 8) 0 23)) 3 0 baseTick,
     failIf (cF c baseTick 24 2 == 2 && decide (1000000 % iv ≠ 0)) 4 0 baseTick,
     failIf (decide (iv * cF c baseTick 16 5 < 2000)) 5 0 baseTick,
     failIf (decide (cF c baseRation 0 12 < cF c baseRation 16 12)) 6 0 baseRation,
     failIf (!agree7 s c) 7 0 (baseTick + 0x30)] ++
    ((List.range 4).map (agree8 s c)) ++ (hubs.map (agree9 c)) ++
    (hubs.map fun k => failIf (!agree10 c k) 10 0 (baseEth + 0x10 * k)) ++
    [failIf (!agree11 c) 11 0 baseEval, agree12 s c])

/-! ### Class Q (R92, Table 03.13) -/

/-- Hub that a word governs. -/
def clsHub (w : ShWord) : Option Nat := match w.cls with | .groom k => some k | .eth k => some k | _ => none

/-- Are the units idle that the changed class Q fields govern? -/
def governedIdle (s : State) : Bool :=
  let ws := changedWords s
  let teams := governedTeams s
  !(s.tick.tasks.any fun k => k.admitted && shareTeam k.teams teams) && !((maskTeams teams).any (teamReplaying s)) &&
  !((runningUpdates s).any fun r => ws.any fun w => clsHub w == some (hubOfUpdate s r.2.2))

/-- Does the shadow change a class Q field? -/
def changesQ (s : State) : Bool := (changedWords s).any fun w => w.cls != .t

/-! ### Application (R91) -/

/-- The contents of a layer's activation-stack extents become undefined (R330). -/
def dropExtents (xbase xmib : Nat) (s : State) : State := if xmib = 0 then s else undefStackRange s xbase (xbase + xmib * 2 ^ 20)

/-- A changed near-memory configuration of a layer, with the scratch size before it (R282, R330): the layer cache is already written back and
dropped. -/
def repartition (old : Nat) (s : State) (n : Nat) : State :=
  let new := cfgScratchMib s n
  let at_ := fun (m : Nat) => nearBase + n * layerLen + m * 2 ^ 20
  let s1 := if old < new then undefDevRange s (at_ old) (at_ new) else s
  let s2 := if new < old then onMem s1 fun m =>
      { m with dev := m.dev.filter fun c => decide (c.1 < at_ new) || decide (at_ old ≤ c.1), undefDev := carveUndef m.undefDev (at_ new) (at_ old) }
    else s1
  let s3 := onLayer s2 n fun L => { L with emptying := true }
  (natsFrom (64 * n) 64).foldl (fun s t => onTeam (emptyStack s t) t fun x => { x with ovf := [] }) s3

/-- Bytes of a hub's SRAM that a smaller groom-reserved part gives back to the general part: what the engines left there (R25, R391). -/
def shrinkReserve (old : Nat) (s : State) (k : Nat) : State :=
  let at_ := fun (m : Nat) => sramBase + k * 2 ^ 32 + m * 2 ^ 20
  if cfgReserveMib s k < old then undefDevRange s (at_ (cfgReserveMib s k)) (at_ old) else s

/-- Copy the shadow into the active configuration, with what that does to the units it governs. -/
def applyConfig (s : State) : State :=
  let ws := changedWords s
  let layers := (List.range 4).filter fun n => ws.any fun w => w.cls == .nm n
  let hubs := (List.range 6).filter fun k => hubFitted s k && ws.any fun w => w.cls == .eth k
  let olds := layers.map fun n => (n, cfgScratchMib s n)
  let s1 := layers.foldl (fun s n => dropExtents (cfgXbase s n) (cfgXmib s n) (flushLayer s n)) s
  let s2 := { s1 with cfg := { s1.cfg with active := s1.cfg.shadow } }
  let s3 := olds.foldl (fun s o => repartition o.2 (dropExtents (cfgXbase s o.1) (cfgXmib s o.1) s) o.1) s2
  let s4 := ((List.range 6).filter (hubFitted s)).foldl (fun t k => shrinkReserve (cfgReserveMib s k) t k) s3
  hubs.foldl portsRetrain s4

/-- Steps 4 to 7 of R91. -/
def applyCommit (s : State) (sid : Nat) : State :=
  let s1 := setFlag (applyConfig s) 7
  let s2 := onMp s1 fun m => { m with commit := none, commitExpired := false, lastCommitTick := s1.tick.count, commitCnt := satAdd 32 m.commitCnt 1 }
  finalReply s2 sid stOk 0 []

/-- Step 2 of R91. -/
def refuseCommit (s : State) (sid : Nat) (d : Disagree) : State :=
  let det := d.rule % 256 * 256 + min 255 d.row
  finalReply (onMp s fun m => { m with commit := none, lastRefuse := det }) sid stConfigDisagree det
    (leBytes 2 d.rule ++ leBytes 2 d.row ++ leBytes 4 0 ++ leBytes 8 d.addr)

/-- The refusal at the 64th boundary (R92). -/
def timeoutCommit (s : State) (sid : Nat) : State :=
  finalReply (onMp s fun m => { m with commit := none, commitExpired := false }) sid stCommitTimeout 0 []

/-- TICK_NOT_BEFORE of the pending commit. -/
def commitTnb (s : State) (sid : Nat) : Option Nat := (findSlot s sid).bind fun x => match x.work with | .commit t => t | _ => none

/-- Step 2 of R41. -/
def commitStep (s : State) : State :=
  match s.mp.commit with
  | none => s
  | some (sid, none) =>
    if !tnbMet s (commitTnb s sid) then s
    else
      match agreeFail s with
      | some d => refuseCommit s sid d
      | none =>
        if changesQ s && !governedIdle s then onMp s fun m => { m with commit := some (sid, some 1) } else applyCommit s sid
  | some (sid, some n) =>
    if s.mp.commitExpired then timeoutCommit s sid
    else if governedIdle s then applyCommit s sid
    else onMp s fun m => { m with commit := some (sid, some (n + 1)), commitExpired := decide (64 ≤ n + 1) }

/-- COMMIT_TIMEOUT: a commit whose governed units are busy at its 64th boundary is refused there. -/
def execCommitTimeout (s : State) : Out :=
  match s.mp.commit with
  | some (sid, some _) => .next (if s.mp.commitExpired then timeoutCommit s sid else s)
  | _ => .next s

/-- CS_DISCARD's work (R90). -/
def discardShadow (s : State) : State := { s with cfg := { s.cfg with shadow := s.cfg.active } }

end Sys2Proof.Machine
end

