-- ==== Sys2Proof/Machine/Hash.lean ====
section
/-! DEFINITION. SHA-512 (FIPS 180-4) and the verification of ECDSA signatures on P-521 (FIPS 186-4), which chapter 20 names and does not define
(log entry 6). -/

namespace Sys2Proof.Machine

/-! ### SHA-512 -/

def shaK0 : List Nat :=
  [0x428a2f98d728ae22, 0x7137449123ef65cd, 0xb5c0fbcfec4d3b2f, 0xe9b5dba58189dbbc, 0x3956c25bf348b538,
   0x59f111f1b605d019, 0x923f82a4af194f9b, 0xab1c5ed5da6d8118, 0xd807aa98a3030242, 0x12835b0145706fbe]
def shaK1 : List Nat :=
  [0x243185be4ee4b28c, 0x550c7dc3d5ffb4e2, 0x72be5d74f27b896f, 0x80deb1fe3b1696b1, 0x9bdc06a725c71235,
   0xc19bf174cf692694, 0xe49b69c19ef14ad2, 0xefbe4786384f25e3, 0x0fc19dc68b8cd5b5, 0x240ca1cc77ac9c65]
def shaK2 : List Nat :=
  [0x2de92c6f592b0275, 0x4a7484aa6ea6e483, 0x5cb0a9dcbd41fbd4, 0x76f988da831153b5, 0x983e5152ee66dfab,
   0xa831c66d2db43210, 0xb00327c898fb213f, 0xbf597fc7beef0ee4, 0xc6e00bf33da88fc2, 0xd5a79147930aa725]
def shaK3 : List Nat :=
  [0x06ca6351e003826f, 0x142929670a0e6e70, 0x27b70a8546d22ffc, 0x2e1b21385c26c926, 0x4d2c6dfc5ac42aed,
   0x53380d139d95b3df, 0x650a73548baf63de, 0x766a0abb3c77b2a8, 0x81c2c92e47edaee6, 0x92722c851482353b]
def shaK4 : List Nat :=
  [0xa2bfe8a14cf10364, 0xa81a664bbc423001, 0xc24b8b70d0f89791, 0xc76c51a30654be30, 0xd192e819d6ef5218,
   0xd69906245565a910, 0xf40e35855771202a, 0x106aa07032bbd1b8, 0x19a4c116b8d2d0c8, 0x1e376c085141ab53]
def shaK5 : List Nat :=
  [0x2748774cdf8eeb99, 0x34b0bcb5e19b48a8, 0x391c0cb3c5c95a63, 0x4ed8aa4ae3418acb, 0x5b9cca4f7763e373,
   0x682e6ff3d6b2b8a3, 0x748f82ee5defb2fc, 0x78a5636f43172f60, 0x84c87814a1f0ab72, 0x8cc702081a6439ec]
def shaK6 : List Nat :=
  [0x90befffa23631e28, 0xa4506cebde82bde9, 0xbef9a3f7b2c67915, 0xc67178f2e372532b, 0xca273eceea26619c,
   0xd186b8c721c0c207, 0xeada7dd6cde0eb1e, 0xf57d4f7fee6ed178, 0x06f067aa72176fba, 0x0a637dc5a2c898a6]
def shaK7 : List Nat :=
  [0x113f9804bef90dae, 0x1b710b35131c471b, 0x28db77f523047d84, 0x32caab7b40c72493, 0x3c9ebe0a15c9bebc,
   0x431d67c49c100d4c, 0x4cc5d4becb3e42b6, 0x597f299cfc657e2a, 0x5fcb6fab3ad6faec, 0x6c44198c4a475817]
def shaK : List Nat := shaK0 ++ shaK1 ++ shaK2 ++ shaK3 ++ shaK4 ++ shaK5 ++ shaK6 ++ shaK7

def shaInit : List Nat :=
  [0x6a09e667f3bcc908, 0xbb67ae8584caa73b, 0x3c6ef372fe94f82b, 0xa54ff53a5f1d36f1,
   0x510e527fade682d1, 0x9b05688c2b3e6c1f, 0x1f83d9abfb41bd6b, 0x5be0cd19137e2179]

def shaMod (n : Nat) : Nat := n % 2 ^ 64
def rotr64 (x n : Nat) : Nat := x / 2 ^ n + x % 2 ^ n * 2 ^ (64 - n)

/-- A big-endian number. -/
def beNat (bs : List Byte) : Nat := bs.foldl (fun n b => n * 256 + b.toNat) 0

/-- The message padded to blocks of 128 bytes. -/
def shaPad (m : List Byte) : List Byte :=
  m ++ [BitVec.ofNat 8 0x80] ++ zeroBytes ((239 - m.length % 128) % 128) ++ zeroBytes 8 ++ (leBytes 8 (8 * m.length)).reverse

/-- The next word of the schedule from the sixteen before it, oldest first. -/
def shaNext (w : List Nat) : Nat :=
  let a := w.getD 14 0
  let b := w.getD 1 0
  let s1 := rotr64 a 19 ^^^ rotr64 a 61 ^^^ (a / 2 ^ 6)
  let s0 := rotr64 b 1 ^^^ rotr64 b 8 ^^^ (b / 2 ^ 7)
  shaMod (s1 + w.getD 9 0 + s0 + w.getD 0 0)

/-- One round: the eight working variables and the window of the schedule. -/
def shaRound (s : List Nat × List Nat) (k : Nat) : List Nat × List Nat :=
  let v := fun (i : Nat) => s.1.getD i 0
  let e := v 4
  let a := v 0
  let t1 := v 7 + (rotr64 e 14 ^^^ rotr64 e 18 ^^^ rotr64 e 41) + ((e &&& v 5) ^^^ ((2 ^ 64 - 1 - e) &&& v 6)) + k + s.2.getD 0 0
  let t2 := (rotr64 a 28 ^^^ rotr64 a 34 ^^^ rotr64 a 39) + ((a &&& v 1) ^^^ (a &&& v 2) ^^^ (v 1 &&& v 2))
  ([shaMod (t1 + t2), a, v 1, v 2, shaMod (v 3 + t1), e, v 5, v 6], s.2.drop 1 ++ [shaNext s.2])

/-- One block. -/
def shaBlock (h : List Nat) (b : List Byte) : List Nat :=
  let w := (List.range 16).map fun i => beNat ((b.drop (8 * i)).take 8)
  let r := (shaK.foldl shaRound (h, w)).1
  List.zipWith (fun x y => shaMod (x + y)) h r

def shaBlocks : Nat → List Nat → List Byte → List Nat
  | 0, h, _ => h
  | k + 1, h, m => shaBlocks k (shaBlock h (m.take 128)) (m.drop 128)

/-- SHA-512 of a byte string: 64 bytes. -/
def sha512 (m : List Byte) : List Byte :=
  let p := shaPad m
  (shaBlocks (p.length / 128) shaInit p).flatMap fun x => (leBytes 8 x).reverse

/-! ### P-521 -/

def ecP : Nat := 2 ^ 521 - 1
def ecN : Nat := 0x01fffffffffffffffffffffffffffffffffffffffffffffffffffffffffffffffffa51868783bf2f966b7fcc0148f709a5d03bb5c9b8899c47aebb6fb71e91386409
def ecB : Nat := 0x0051953eb9618e1c9a1f929a21a0b68540eea2da725b99b315f3b8b489918ef109e156193951ec7e937b1652c0bd3bb1bf073573df883d2c34f1ef451fd46b503f00
def ecG : Nat × Nat :=
  (0x00c6858e06b70404e9cd9e3ecb662395b4429c648139053fb521f828af606b4d3dbaa14b5e77efe75928fe1dc127a2ffa8de3348b3c1856a429bf97e7e31c2e5bd66,
   0x011839296a789a3bc0045c8a5fb42c7d1bd998f54449579b446817afbd17273e662c97ee72995ef42640c550b9013fad0761353c7086a272c24088be94769fd16650)

/-- Power modulo `m`, by the low `k` bits of the exponent. -/
def powMod (m : Nat) : Nat → Nat → Nat → Nat
  | 0, _, _ => 1 % m
  | k + 1, b, e => (if e % 2 = 1 then b else 1) * powMod m k (b * b % m) (e / 2) % m
/-- Inverse modulo a prime. -/
def invMod (m a : Nat) : Nat := powMod m 521 (a % m) (m - 2)

/-- Sum of points; `none` is the point at infinity. -/
def ecAdd : Option (Nat × Nat) → Option (Nat × Nat) → Option (Nat × Nat)
  | none, q => q
  | p, none => p
  | some p, some q =>
    if p.1 = q.1 ∧ (p.2 + q.2) % ecP = 0 then none
    else
      let l :=
        if p.1 = q.1 then (3 * p.1 * p.1 + ecP - 3) * invMod ecP (2 * p.2) % ecP
        else (q.2 + ecP - p.2) * invMod ecP (q.1 + ecP - p.1) % ecP
      let x := (l * l + 2 * ecP - p.1 - q.1) % ecP
      some (x, (l * (p.1 + ecP - x) + ecP - p.2) % ecP)
/-- Multiple of a point, by the low `k` bits of the factor. -/
def ecMul : Nat → Nat → Option (Nat × Nat) → Option (Nat × Nat)
  | 0, _, _ => none
  | k + 1, n, p => ecAdd (if n % 2 = 1 then p else none) (ecMul k (n / 2) (ecAdd p p))

def ecOn (p : Nat × Nat) : Bool :=
  decide (p.1 < ecP) && decide (p.2 < ecP) && p.2 * p.2 % ecP == (p.1 * p.1 * p.1 + ecP * 3 - 3 * p.1 + ecB) % ecP

/-- ECDSA verification of `r` and `s` over a SHA-512 digest under a public point: the digest is shorter than the order, so all of it counts. -/
def ecdsaOk (pub : Nat × Nat) (digest : List Byte) (r s : Nat) : Bool :=
  if r = 0 ∨ ecN ≤ r ∨ s = 0 ∨ ecN ≤ s ∨ !ecOn pub then false
  else
    let w := invMod ecN s
    match ecAdd (ecMul 521 (beNat digest * w % ecN) (some ecG)) (ecMul 521 (r * w % ecN) (some pub)) with
    | none => false
    | some p => p.1 % ecN == r

end Sys2Proof.Machine
end

