-- ==== Sys2Proof/Machine/Firmware.lean ====
section
/-! DEFINITION. Firmware: the image and its checks (R521, R522), staging (R523 to R526), the receive ring (R527, R528), the next-boot check and the
bank flip (R519, R529), the temperature window's waits (R533), and the identity (R534, R535). -/

namespace Sys2Proof.Machine

def onFw (s : State) (f : FwSt → FwSt) : State := { s with fw := f s.fw }

/-! ### The image (Table 20.2) -/

def imgSect (img : List Byte) (i : Nat) : List Byte := (img.drop (32 + 80 * i)).take 80
def imgNsect (img : List Byte) : Nat := getB img 11
def imgVersion (img : List Byte) : Nat := getLe img 12 4
def imgSec (img : List Byte) : Nat := getLe img 16 4
def imgLen (img : List Byte) : Nat := getLe img 20 4
def sectKind (e : List Byte) : Nat := getB e 0
def sectOff (e : List Byte) : Nat := getLe e 4 4
def sectLen (e : List Byte) : Nat := getLe e 8 4

/-- Is a range of bytes 0? -/
def zeroAt (bs : List Byte) (off len : Nat) : Bool := allZero ((bs.drop off).take len)

/-- Do two sections overlap? -/
def sectsMeet (a b : List Byte) : Bool :=
  decide (sectOff a < sectOff b + sectLen b) && decide (sectOff b < sectOff a + sectLen a)

/-- Check 1 of Table 20.3. -/
def imgFormOk (img : List Byte) : Bool :=
  let es := (List.range (imgNsect img)).map (imgSect img)
  getLe img 0 4 == 0x5A444659 && getLe img 4 2 == 1 && decide (5 ≤ imgNsect img ∧ imgNsect img ≤ 8) &&
  decide (8192 ≤ imgLen img ∧ imgLen img ≤ 41943040 ∧ imgLen img ≤ img.length) && decide (getB img 10 ≤ 1) &&
  (getB img 10 == 1 || zeroAt img 24 8) && decide (imgSec img ≤ 255) &&
  ([1, 2, 3, 4, 5].all fun k => (es.filter fun e => sectKind e == k).length == 1) &&
  (es.all fun e => decide (4096 ≤ sectOff e) && decide (sectOff e + sectLen e ≤ imgLen img) && zeroAt e 1 3 && zeroAt e 12 4) &&
  ((List.range es.length).all fun i => (List.range i).all fun j => !sectsMeet (es.getD i []) (es.getD j [])) &&
  ((List.range (8 - imgNsect img)).all fun i => allZero (imgSect img (imgNsect img + i))) &&
  zeroAt img 805 3 && zeroAt img 940 3156

/-- The checks of an image in order: ST_OK, or the status of the first that fails (R522). -/
def imgCheck (s : State) (img : List Byte) : Nat :=
  let pub := (img.drop 672).take 133
  if !imgFormOk img then stFwSignature
  else if sha512 pub ≠ s.dev.fuses.rootHash then stFwSignature
  else if getB pub 0 ≠ 4 ∨
      !ecdsaOk (beNat ((pub.drop 1).take 66), beNat (pub.drop 67)) (sha512 (img.take 808)) (beNat ((img.drop 808).take 66))
        (beNat ((img.drop 874).take 66)) then stFwSignature
  else if !((List.range (imgNsect img)).all fun i =>
      let e := imgSect img i
      sha512 ((img.drop (sectOff e)).take (sectLen e)) == (e.drop 16).take 64) then stFwSignature
  else if getLe img 6 2 ≠ 0x5A44 ∨ !bit (getLe img 8 2) s.dev.fuses.stepping ∨ (getB img 10 = 1 ∧ getLe img 24 8 ≠ s.dev.fuses.uid) then stFwBinding
  else if imgSec img < s.dev.fuses.rollback then stFwRollback
  else stOk

/-- The section of a kind in the image buffer. -/
def sectOf (s : State) (kind : Nat) : List Byte :=
  match ((List.range (imgNsect s.fw.image)).map (imgSect s.fw.image)).find? fun e => sectKind e == kind with
  | some e => (s.fw.image.drop (sectOff e)).take (sectLen e)
  | none => []

/-- The core-firmware section of the active image. -/
def coreSect (s : State) : List Byte := sectOf s 2

/-- The section kind of each processor (R521). -/
def procKind : Proc → Nat
  | .mp => 1
  | .cores => 2
  | .hubMcu => 3
  | .groom => 4
  | .ethSerdes => 5
  | .bxlSerdes => 5

/-- Load a processor from the image buffer (R529, R532). -/
def loadProc (s : State) (q : Proc) : State :=
  onFw s fun f => { f with loaded := (f.loaded.filter fun x => x.1 != q) ++ [(q, sectOf s (procKind q))] }

/-! ### The bank selector (R519) -/

/-- SEQ and ACTIVE of a valid copy. -/
def selOf (b : List Byte) : Option (Nat × Nat) :=
  if b.length = 16 ∧ getLe b 0 4 = 0x5A444253 ∧ getB b 8 ≤ 1 ∧ getLe b 12 4 = crc32c (b.take 12) then some (getLe b 4 4, getB b 8) else none
/-- A selector copy. -/
def selBytes (seq bank : Nat) : List Byte :=
  let b := leBytes 4 0x5A444253 ++ leBytes 4 seq ++ leBytes 1 bank ++ zeroBytes 3
  b ++ leBytes 4 (crc32c b)
/-- The copy in force: is it A, its SEQ, its bank. -/
def selCurrent (s : State) : Option (Bool × Nat × Nat) :=
  match selOf s.fw.selA, selOf s.fw.selB with
  | some a, some b => if b.1 ≤ a.1 then some (true, a) else some (false, b)
  | some a, none => some (true, a)
  | none, some b => some (false, b)
  | none, none => none
def activeBank (s : State) : Nat := match selCurrent s with | some c => c.2.2 | none => 0
/-- Make a bank active: the other copy is written with SEQ + 1. -/
def flipBank (s : State) (bank : Nat) : State :=
  match selCurrent s with
  | some (true, seq, _) => onFw s fun f => { f with selB := selBytes (seq + 1) bank }
  | some (false, seq, _) => onFw s fun f => { f with selA := selBytes (seq + 1) bank }
  | none => onFw s fun f => { f with selA := selBytes 1 bank }
def bankImage (s : State) (i : Nat) : List Byte := if i = 0 then s.fw.bank0 else s.fw.bank1
/-- The staged image. -/
def stagedImage (s : State) : List Byte := (List.range s.fw.total).flatMap fun i => (smGet? s.fw.chunks i).getD (List.replicate 4096 0xFF#8)

/-! ### The boot flash (R518, Table 20.1) -/

/-- Base and length of each region. The rest of the flash the device neither reads nor writes. -/
def flashMap : List (FlashRegion × Nat × Nat) :=
  [(.selectorA, 0x0, 0x1000), (.selectorB, 0x1000, 0x1000), (.bootRecord, 0x10000, 0x10000), (.fieldRecord, 0x20000, 0x10000),
   (.stagingHeader, 0x30000, 0x10000), (.bank0, 0x400000, 0x2800000), (.bank1, 0x2C00000, 0x2800000), (.stagingArea, 0x5400000, 0x2800000)]

/-- Bytes written over a region's from an offset; what lies between was never written and reads 0xFF. -/
def bytesPut (c : List Byte) (o : Nat) (bs : List Byte) : List Byte :=
  (c ++ List.replicate (o - c.length) 0xFF#8).take o ++ bs ++ c.drop (o + bs.length)

/-- The staging header and the chunk bitmap (R523). -/
def stageBytes (s : State) : List Byte :=
  let h := leBytes 4 s.fw.total ++ leBytes 1 (b2n s.fw.armed)
  h ++ zeroBytes 3 ++ leBytes 4 (crc32c h) ++ zeroBytes 52 ++
    (List.range 1280).map fun i => BitVec.ofNat 8 ((List.range 8).foldl (fun n j => n + b2n (s.fw.bitmap.contains (8 * i + j)) * 2 ^ j) 0)

/-- What the device finds in a staging header and bitmap; a header whose CRC is wrong counts as none (log entry 150). -/
def takeStage (s : State) (bs : List Byte) : State :=
  let ok := crc32c (bs.take 5) == getLe bs 8 4
  onFw s fun f => { f with total := if ok then getLe bs 0 4 else 0, armed := ok && getB bs 4 == 1
                           bitmap := if ok then (List.range 10240).filter fun i => bit (getB bs (64 + i / 8)) (i % 8) else [] }

/-- Byte strings of 16 bytes each, as many as a run of bytes holds. -/
def entriesOf16 (bs : List Byte) : List (List Byte) := (List.range (bs.length / 16)).map fun i => (bs.drop (16 * i)).take 16

/-- The bytes of a region that a board programmer may write in several runs: as its runs so far leave them, or as the device last wrote them. -/
def rawOr (raw dev : List Byte) : List Byte := if raw.isEmpty then dev else raw

/-- The entries that the bytes of a field fault record hold: those up to the first that was never written (R481). -/
def recordEntries (bs : List Byte) : List (List Byte) :=
  ((entriesOf16 (bs ++ List.replicate 15 0xFF#8)).takeWhile fun e => e.any (· != 0xFF#8)).take 1024

/-- Write bytes of a region from an offset in it. What the staging header and the field fault record hold is read from all their bytes as the runs so far
leave them, so that a header or an entry may come in parts and in any order. -/
def programRegion (s : State) (r : FlashRegion) (o : Nat) (bs : List Byte) : State :=
  match r with
  | .selectorA => onFw s fun f => { f with selA := (bytesPut f.selA o bs).take 16 }
  | .selectorB => onFw s fun f => { f with selB := (bytesPut f.selB o bs).take 16 }
  | .bootRecord => onFw s fun f => { f with bootRec := (bytesPut f.bootRec o bs).take 64 }
  | .fieldRecord =>
    let raw := bytesPut (rawOr s.bring.rawRecord s.rel.ffr.flatten) o bs
    { s with bring := { s.bring with rawRecord := raw }, rel := { s.rel with ffr := recordEntries raw } }
  | .stagingHeader =>
    let raw := bytesPut (rawOr s.bring.rawStage (stageBytes s)) o bs
    takeStage { s with bring := { s.bring with rawStage := raw } } raw
  | .bank0 => onFw s fun f => { f with bank0 := bytesPut f.bank0 o bs }
  | .bank1 => onFw s fun f => { f with bank1 := bytesPut f.bank1 o bs }
  | .stagingArea =>
    onFw s fun f => { f with chunks := (List.range ((o + bs.length + 4095) / 4096 - o / 4096)).foldl (fun cs j =>
      let i := o / 4096 + j
      let old := (smGet? cs i).getD (List.replicate 4096 0xFF#8)
      smIns cs i (bytesPut old (o - 4096 * i) ((bs.drop (4096 * i - o)).take (4096 * (i + 1) - max o (4096 * i))))) f.chunks }

/-- A board programmer's write at a flash address, each region taking its part (R518, R551). -/
def writeFlash (s : State) (w : Nat × List Byte) : State :=
  flashMap.foldl (fun s r =>
    let lo := max w.1 r.2.1
    let hi := min (w.1 + w.2.length) (r.2.1 + r.2.2)
    if lo < hi then programRegion s r.1 (lo - r.2.1) ((w.2.drop (lo - w.1)).take (hi - lo)) else s) s

/-- A board programmer provisions the flash; no next-boot check has run since (R526). -/
def programFlash (s : State) (ws : List (Nat × List Byte)) : State :=
  if ws.isEmpty then s else onFw (ws.foldl writeFlash s) fun f => { f with lastCheck := stOk }

/-! ### The window's waits (R513, R533) -/

def windowOpenNow (s : State) : Bool := s.therm.window == some true

def tempWaitEvent (s : State) (status what : Nat) : State :=
  sendEvent s status 0x000F (leBytes 1 what ++ leBytes 1 0 ++ leBytes 2 (wrapN 16 (regionTemp s 0)) ++ leBytes 4 0)
/-- A write of kind `i` waits on the window: announced once while it is closed. Before the first bridle readings it is neither open nor closed, and the
write waits with no event (log entry 177). -/
def announceWait (s : State) (i : Nat) : State :=
  if s.fw.waiting.testBit i || s.therm.window != some false then s
  else
    let s1 := onFw s fun f => { f with waiting := f.waiting + 2 ^ i }
    tempWaitEvent s1 stTempWindow s1.fw.waiting

/-! ### The next-boot check (R529, R530) -/

/-- Take a bank as active: its image goes into the image buffer. -/
def takeBank (s : State) (i : Nat) : State := onFw s fun f => { f with bank := i, image := bankImage s i }

/-- Orders 1 to 3: the active bank, or the other one if only that passes, which is a repair (R447). Nothing when the write of the selector waits on the
window (R530). -/
def loadActive (s : State) : Option (State × Bool) :=
  let b := activeBank s
  if imgCheck s (bankImage s b) = stOk then some (takeBank s b, true)
  else if imgCheck s (bankImage s (1 - b)) = stOk then
    if windowOpenNow s then some (onFw (takeBank (flipBank s (1 - b)) (1 - b)) fun f => { f with fellBack := true }, true) else none
  else some (takeBank s b, false)

/-- What CLOCK_AND_MP_BOOT comes to: a write waits, a copy runs, or an image is chosen, and does it pass? -/
inductive BootStep where
  | waits
  | copies (s : State)
  | chosen (s : State) (ok : Bool)
deriving DecidableEq, Repr

/-- A copy of an image as the flash holds it. -/
def copyHeld (img : List Byte) (damage : List (Nat × List Byte)) : List Byte :=
  (damage.foldl (fun c d => if d.1 < img.length then bytesPut c d.1 (d.2.take (img.length - d.1)) else c) img)
/-- Does the SHA-512 of a copy equal that of the staged image? -/
def copyGood (img c : List Byte) : Bool := sha512 c == sha512 img
def setBank (s : State) (i : Nat) (bs : List Byte) : State := onFw s fun f => if i = 0 then { f with bank0 := bs } else { f with bank1 := bs }

/-- Order 4 begins for an armed image that passes: a copy into the inactive bank, unless the image is active already. An armed image that passes is
taken even if neither bank passes (R452; log entry 13). -/
def beginCopy (s : State) (ok : Bool) : BootStep :=
  let img := stagedImage s
  let r := imgCheck s img
  let s1 := onFw s fun f => { f with lastCheck := r }
  let off := onFw s1 fun f => { f with armed := false }
  if r ≠ stOk then .chosen off ok
  else if ok && sha512 (img.take 4096) == sha512 (s.fw.image.take 4096) then .chosen off ok
  else if windowOpenNow s then .copies (onFw s1 fun f => { f with copyBusy := true }) else .waits

/-- The copy ends: the second attempt follows a first one that differs. A good copy flips the banks, and the new bank is loaded; a copy that fails twice
leaves the selector as it is. -/
def endCopy (s : State) (f : Stage2Finding) : BootStep :=
  let ok := imgCheck s s.fw.image == stOk
  let img := stagedImage s
  let i := 1 - activeBank s
  let c := if copyGood img (copyHeld img f.copy1) then copyHeld img f.copy1 else copyHeld img f.copy2
  let s1 := onFw (setBank s i c) fun f => { f with armed := false, copyBusy := false }
  if !windowOpenNow s then .waits
  else if !copyGood img c then .chosen (onFw s1 fun f => { f with lastCheck := stFwSignature }) ok
  else
    match loadActive (flipBank s1 i) with
    | none => .waits
    | some r => .chosen (onFw r.1 fun f => { f with fellBack := f.fellBack || (r.2 && !ok) }) r.2

/-- Stage 2's choice of image (R447, R529). The copy takes a CLOCK_AND_MP_BOOT of its own, so that chunks can arrive while it runs (log entry 176). -/
def bootStep (s : State) (f : Stage2Finding) : BootStep :=
  if s.fw.copyBusy then endCopy s f
  else
    match loadActive (onFw s fun f => { f with fellBack := false }) with
    | none => .waits
    | some (s1, ok) => if s1.fw.armed then beginCopy s1 ok else .chosen s1 ok

/-- Stage 2 has chosen its image: the MP reloads itself from section 1, and the BXL serdes controllers are loaded (R529, R532). -/
def bootChosen (s : State) (ok : Bool) : State :=
  let s1 := onDev s fun d => { d with fwVersion := if ok then imgVersion s.fw.image else 0 }
  if ok then loadProc (loadProc s1 .mp) .bxlSerdes else s1

/-! ### Chunks (R118, R523 to R525) -/

/-- What becomes of a chunk: a reply at once, or a write with its DETAIL. -/
inductive ChunkFate where
  | reply (status detail : Nat)
  | write (detail : Nat)
deriving DecidableEq, Repr

def chunkFate (s : State) (index total crc : Nat) (data : List Byte) : ChunkFate :=
  if crc32c data ≠ crc then .reply stChunkCrc 0
  else if s.fw.bitmap.isEmpty then .write 0
  else if total ≠ s.fw.total then .write 2
  else if s.fw.bitmap.contains index then .reply stOk 1
  else .write 0

/-- Does the cap of R525 leave room for one more chunk in the last second? -/
def capOk (s : State) : Bool :=
  decide (((s.fw.written.filter fun t => decide (s.now < t + secUnits)).length + 1) * 32768 ≤ cfgTrickle s * 1000000)

/-- Store a chunk (R524): it is written, read back, rewritten once where it differs, and marked, unless it differs again. Whether the flash gives back what
was written no command brings: a free value (log entry 178). -/
def storeChunk (s : State) (index total detail : Nat) (data : List Byte) : State × Bool :=
  let d := drawFree s
  let bad := bit d.2 0 && bit d.2 1
  (onFw d.1 fun f =>
    let old := if detail = 2 then [] else f.bitmap
    let chunks := if detail = 2 then [] else f.chunks
    { f with chunks := if bad then smDel chunks index else smIns chunks index data, bitmap := if bad then old else old ++ [index], total := total,
             armed := false,
             written := (f.written.filter fun t => decide (s.now < t + secUnits)) ++ if bad then [] else [s.now] }, !bad)

/-- Process one chunk if it need not wait: its status and DETAIL. While a copy reads the staging area, every chunk waits (R525). -/
def tryChunk (s : State) (index total crc : Nat) (data : List Byte) : State × Option (Nat × Nat) :=
  if s.fw.copyBusy then (s, none)
  else
    match chunkFate s index total crc data with
    | .reply st d => (s, some (st, d))
    | .write d =>
      if !capOk s then (s, none)
      else if !windowOpenNow s then (announceWait s 0, none)
      else
        let r := storeChunk s index total d data
        (r.1, some (if r.2 then (stOk, d) else (stChunkCrc, 0)))

/-! ### Payloads -/

/-- FW_STATUS payload (R119). -/
def fwStatusPayload (s : State) : List Byte :=
  leBytes 4 s.fw.bitmap.length ++ leBytes 4 s.fw.total ++ leBytes 1 (b2n s.fw.armed) ++ zeroBytes 7

/-- A list made `n` bytes long. -/
def fitBytes (n : Nat) (bs : List Byte) : List Byte := (bs ++ zeroBytes n).take n

/-- ID_PUBKEY payload (R534). -/
def pubkeyPayload : List Byte := leBytes 1 4 ++ fitBytes 132 Config.identityKey ++ zeroBytes 3 ++ fitBytes 132 Config.identityEndorsement ++ zeroBytes 4

/-- Is the boot configuration record present (R520)? -/
def bootRecOk (b : List Byte) : Bool :=
  b.length == 64 && getLe b 0 4 == 0x5A444243 && getLe b 60 4 == crc32c (b.take 60)

/-- The attestation report (Table 20.6). -/
def attestReport (s : State) (nonce : List Byte) : List Byte :=
  let f := s.dev.fuses
  let body :=
    leBytes 4 0x5A444154 ++ leBytes 2 1 ++ leBytes 2 f.variant ++ leBytes 2 f.stepping ++ leBytes 1 s.dev.state ++ leBytes 1 s.fw.bank ++
    leBytes 4 (imgVersion s.fw.image) ++ leBytes 4 (imgSec s.fw.image) ++ leBytes 4 f.rollback ++ leBytes 8 f.uid ++
    leBytes 8 (if s.tick.running then s.tick.count else 0) ++ zeroBytes 8 ++ fitBytes 64 nonce ++ fitBytes 64 Config.romMeasurement ++
    sha512 (fitBytes 4096 s.fw.image) ++ sha512 (if bootRecOk s.fw.bootRec then s.fw.bootRec else zeroBytes 64) ++ fitBytes 64 s.fw.measTopo
  body ++ fitBytes 132 (Config.identitySign (sha512 body)) ++ zeroBytes 12

/-! ### The receive ring (R527, R528, Table 20.4) -/

/-- Length of the ring. -/
def ringLen (s : State) : Nat := (cfgNetRing s).2 * 4160
/-- Does the ring lie wholly in the mapped stack region, or wholly in the general part of one hub's SRAM? -/
def ringPlaced (s : State) : Bool :=
  let a := (cfgNetRing s).1
  (unmappedAt s a (ringLen s)).isNone &&
  (match regionOf s a with
    | some (.stack _) => true
    | some (.sram k) => decide (sramBase + k * 2 ^ 32 + cfgReserveMib s k * 2 ^ 20 ≤ a)
    | _ => false)

/-- Write the outcome of a slot, and then clear its MAGIC. -/
def ringDone (s : State) (a status detail : Nat) : State :=
  let s1 := (memWrite s (a + 4108) (leBytes 2 status ++ leBytes 2 detail)).1
  let s2 := (memWrite s1 (a + 4156) (leBytes 4 0)).1
  onFw s2 fun f => if status = stOk then { f with netOk := satAdd 32 f.netOk 1 } else { f with netBad := satAdd 32 f.netBad 1 }

/-- Is slot `i` one of the ring that the last scan saw, and does that ring still stand there (R527, R528)? -/
def ringHolds (s : State) (i : Nat) : Bool :=
  s.fw.ring == cfgNetRing s && (cfgNetRing s).1 != 0 && decide (i < (cfgNetRing s).2) && ringPlaced s

/-- Process a ring slot as an FW_CHUNK; a torn one is checked again at the next scan. A slot that waits while a commit moves, shortens or disables the ring
is no slot of it any more and is not read. `false` when the chunk must wait (R525). -/
def ringSlot (s : State) (i : Nat) : State × Bool :=
  let a := (cfgNetRing s).1 + 4160 * i
  let torn := fun (s : State) (on : Bool) => onFw s fun f => { f with torn := (f.torn.filter fun t => t != i) ++ if on then [i] else [] }
  if !ringHolds s i then (s, true)
  else
    match memRead s a 4160 with
    | (s1, .error _) => (s1, true)
    | (s1, .ok b) =>
      let data := b.take 4096
      let index := getLe b 4096 4
      let total := getLe b 4100 4
      if getLe b 4156 4 ≠ 0x5A444643 then (torn s1 false, true)
      else if crc32c data ≠ getLe b 4104 4 then
        if s1.fw.torn.contains i then (ringDone (torn s1 false) a stChunkCrc 0, true) else (torn s1 true, true)
      else
        let s2 := torn s1 false
        if total ≤ index then (ringDone s2 a stBadParam 0, true)
        else if 10240 < total then (ringDone s2 a stBadParam 4, true)
        else
          match tryChunk s2 index total (getLe b 4104 4) data with
          | (s3, some r) => (ringDone s3 a r.1 r.2, true)
          | (s3, none) => (s3, false)

/-! ### Chunks of both paths, in arrival order (R525) -/

/-- The chunk of an FW_CHUNK that has arrived whole. -/
def wholeChunk (s : State) (sid : Nat) : Option (Nat × Nat × Nat × List Byte) :=
  (findSlot s sid).bind fun x =>
    match x.work with
    | .fwChunk i t c (some d) => if d.length = 4096 then some (i, t, c, d) else none
    | _ => none

/-- The bulk flits of a chunk that is written or discarded give their credits back (R442). -/
def chunkCredit (s : State) (sid : Nat) : State :=
  match findSlot s sid with
  | some x => returnCredit (modSlot s sid fun y => { y with bulk := [] }) 2 (x.bulk.map (·.1)).sum
  | none => s

/-- A chunk has arrived. -/
def enqueueChunk (s : State) (q : ChunkSrc) : State := onFw s fun f => if f.queue.contains q then f else { f with queue := f.queue ++ [q] }

/-- Process one chunk. `false` when it must wait. -/
def runChunk (s : State) (q : ChunkSrc) : State × Bool :=
  match q with
  | .ring i => ringSlot s i
  | .cmd sid =>
    match wholeChunk s sid with
    | none => (s, true)
    | some (i, t, c, d) =>
      match tryChunk s i t c d with
      | (s1, none) => (s1, false)
      | (s1, some r) => (chunkCredit (finalReply s1 sid r.1 r.2 []) sid, true)

/-- Process the chunks that have arrived, in order, up to the first that must wait. -/
def fwPumpN : Nat → State → State
  | 0, s => s
  | k + 1, s =>
    match s.fw.queue with
    | [] => s
    | q :: _ =>
      match runChunk s q with
      | (s1, false) => s1
      | (s1, true) => fwPumpN k (onFw s1 fun f => { f with queue := f.queue.drop 1 })
def fwPump (s : State) : State := fwPumpN s.fw.queue.length s

/-! ### Rows -/

/-- TRICKLE_CAP_RELEASE: chunks held by the cap of R525 that fit now are written. -/
def execTrickleCapRelease (s : State) : Out := .next (fwPump s)

/-- ROLLBACK_FUSE_PROGRAM (R531). -/
def execRollbackFuseProgram (s : State) : Out :=
  if !s.fw.fusePending ∨ s.dev.state ≠ 2 then .next s
  else if !windowOpenNow s then .next (announceWait s 1)
  else
    .next (onFw (onDev s fun d => { d with fuses := { d.fuses with rollback := imgSec s.fw.image } }) fun f => { f with fusePending := false })

/-- FFR_WRITE: an entry of the field fault record is written, or waits on the window; a full record takes none (R481). -/
def execFfrWrite (s : State) : Out :=
  match s.rel.ffrPending with
  | [] => .next s
  | e :: rest =>
    if !windowOpenNow s then .next (announceWait s 2)
    else .next (onRelSt s fun r => { r with ffr := if r.ffr.length < 1024 then r.ffr ++ [e] else r.ffr, ffrPending := rest })

/-- WINDOW_REOPEN: the temperature has stayed within 12 to 78 °C for 1 s; the writes that waited resume (R513, R533). -/
def execWindowReopen (s : State) : Out :=
  match s.therm.window, s.therm.winOkSince with
  | some false, some t =>
    if t + secUnits ≤ s.now then
      let s1 := onTherm s fun x => { x with window := some true }
      let what := s1.fw.waiting
      let s2 := onFw s1 fun f => { f with waiting := 0 }
      .next (fwPump (if what = 0 then s2 else tempWaitEvent s2 stOk what))
    else .next s
  | _, _ => .next s

/-- The ring's slots whose MAGIC is set, in ascending order. -/
def ringSet (s : State) : State × List Nat :=
  (List.range (cfgNetRing s).2).foldl (fun (r : State × List Nat) i =>
    match memRead r.1 ((cfgNetRing s).1 + 4160 * i + 4156) 4 with
    | (s1, .ok b) => (s1, if getLe b 0 4 = 0x5A444643 then r.2 ++ [i] else r.2)
    | (s1, .error _) => (s1, r.2)) (s, [])

/-- A ring that has moved since the last scan has no chunk that waits and no slot that was torn. -/
def ringMoved (s : State) : State :=
  if s.fw.ring = cfgNetRing s then s
  else onFw s fun f => { f with ring := cfgNetRing s, torn := [], queue := f.queue.filter fun q => match q with | .cmd _ => true | .ring _ => false }

/-- NET_RING_SCAN: every millisecond, once READY: the slots whose MAGIC is set take their place behind the chunks that have arrived before (R525, R528). -/
def execNetRingScan (s : State) : Out :=
  if s.dev.state ≠ 2 ∨ (cfgNetRing s).1 = 0 ∨ (cfgNetRing s).2 = 0 then .next s
  else if !ringPlaced s then .next (onFw s fun f => { f with netOff := true })
  else
    let r := ringSet (ringMoved (onFw s fun f => { f with netOff := false }))
    let s1 := onFw r.1 fun f => { f with torn := f.torn.filter r.2.contains }
    .next (fwPump (r.2.foldl (fun s i => enqueueChunk s (.ring i)) s1))

end Sys2Proof.Machine
end

