-- ==== Sys2Proof/Machine/Bringup.lean ====
section
/-! DEFINITION. Bring-up (chapter 17): the stages and their reports, fencing, the mapping of logical teams, the topology report, HOLD and
READY; and the resets that restart it (R448, R512, R516, R550). -/

namespace Sys2Proof.Machine

def onBring (s : State) (f : BringSt → BringSt) : State := { s with bring := f s.bring }

/-! ### Resets -/

/-- What every device reset does (R84, R439, R448): everything but the fuses, the boot flash, the sensors' estimates, a trip, ALERT_N (Table 21.9),
the rails and the test port takes its reset value, the sensor readings and the sideband registers too (R13, Tables 19.11 and 21.8); the link goes DOWN.
The part is in stage 1. -/
def resetDevice (s : State) (cause : Nat) : State :=
  { State.reset with
    pending := s.pending, now := s.now, draws := s.draws, dev := { fuses := s.dev.fuses, stage := 1 },
    therm := { est := s.therm.est, tripped := s.therm.tripped, coldSince := s.therm.coldSince },
    rel := { ffr := s.rel.ffr, alert := s.rel.alert },
    bring := { t0 := s.bring.t0, stageAt := s.now, resetCause := cause, rstLow := s.bring.rstLow, rails := s.bring.rails,
               flashOpen := s.bring.flashOpen, rawStage := s.bring.rawStage, rawRecord := s.bring.rawRecord },
    fw := { selA := s.fw.selA, selB := s.fw.selB, bank0 := s.fw.bank0, bank1 := s.fw.bank1, bootRec := s.fw.bootRec, chunks := s.fw.chunks,
            bitmap := s.fw.bitmap, total := s.fw.total, armed := s.fw.armed, lastCheck := s.fw.lastCheck },
    pin := { s.pin with side := sideReset } }

def setAlert (s : State) : State := onRelSt s fun r => { r with alert := true }

/-! ### Stage reports (R447, R451, Table 17.2) -/

def resPass : Nat := 0
def resRepaired : Nat := 1
def resHalt : Nat := 2
def resHold : Nat := 3
def resAccepted : Nat := 4
/-- PASS, or PASS_REPAIRED. -/
def resOf (repaired : Bool) : Nat := if repaired then resRepaired else resPass

/-- STATUS of a STAGE_REPORT event. -/
def stageStatus (result : Nat) : Nat :=
  if result = resHalt then stNotReady else if result = resHold then stTopologyHold else stOk

/-- Form the report of a stage: it is kept for BRING_STATUS and sent as an event. -/
def stageReport (s : State) (n result cause : Nat) (words : List Nat) : State :=
  let body := leBytes 1 n ++ leBytes 1 result ++ leBytes 2 cause ++ leBytes 4 ((s.now - s.bring.stageAt) / usUnits) ++
    leBytes 8 ((s.now - s.bring.t0) / usUnits) ++ (List.range 12).flatMap fun i => leBytes 4 (words.getD i 0)
  sendEvent (onBring s fun b => { b with reports := smIns b.reports n body }) (stageStatus result) 0x0001 body

/-- A stage halts (R447). -/
def haltStage (s : State) (n cause : Nat) (words : List Nat) : State :=
  setAlert (onBring (stageReport s n resHalt cause words) fun b => { b with halted := cause })

/-- A stage passes, and the next one begins. -/
def passStage (s : State) (n : Nat) (repaired : Bool) (words : List Nat) : State :=
  let s1 := stageReport s n (resOf repaired) 0 words
  onBring (onDev s1 fun d => { d with stage := n + 1 }) fun b => { b with stageAt := s.now }

/-- Does stage `n` run? -/
def inStage (s : State) (n : Nat) : Bool := s.dev.state == 0 && s.dev.stage == n && s.bring.halted == 0

/-- Stage 1 has passed: the MP starts from ROM in stage 2, forms the stage-1 report, and the link enters DETECT (R439, R449). -/
def startMp (s : State) : State :=
  let s1 := passStage s 1 false [s.bring.resetCause, s.bring.rails]
  onBxl (bxlState s1 1) fun b => { b with txOn := true }

/-- A reset with the supplies up: stage 1 passes at once (R448). -/
def restartDevice (s : State) (cause : Nat) : State := startMp (resetDevice s cause)

/-- The rails that must be in their windows: those of fitted parts (R515, Table 19.10). -/
def railsNeeded (s : State) : Nat := 2 ^ (7 + hubCount s) - 1

/-- The boot flash as a board programmer has left it, if RST_N has been low since the part last passed stage 1 (R551). -/
def takeFlash (s : State) (f : Stage1Finding) : State := if s.bring.flashOpen then programFlash s f.flash else s

/-- VAUX and VIO are in their windows: the test port works, and the sideband controller from 1 ms later on (R552, R553). -/
def auxIn (rails : Nat) : Bool := rails.testBit 0 && rails.testBit 1

/-- The rails as stage 1 finds them. -/
def setRails (s : State) (rails : Nat) : State :=
  let s1 := if auxIn rails && !auxIn s.bring.rails then { s with pin := { s.pin with auxSince := s.now } } else s
  onBring s1 fun b => { b with rails := rails % 2 ^ 13 }

/-- SUPPLIES_AND_RESET: stage 1 passes 10 ms after every rail is in its window; a missing rail holds the part in reset, with ALERT_N. While RST_N is low or a
trip holds the part, the rails are seen and the part stays in stage 1 (R512, R550). -/
def execSuppliesAndReset (f : Stage1Finding) (s : State) : Out :=
  if s.dev.state ≠ 0 ∨ 1 < s.dev.stage then .next s
  else
    let s1 := setRails (onDev (takeFlash s f) fun d => { d with stage := 1 }) f.rails
    if s.bring.rstLow ∨ s.therm.tripped then .next s1
    else if f.rails &&& railsNeeded s = railsNeeded s then .next (startMp (onBring s1 fun b =>
      { b with t0 := s.now, flashOpen := false, rawStage := [], rawRecord := [] }))
    else .next (setAlert s1)

/-- RAIL_FAULT: a rail of a fitted part leaves its window for more than 10 µs (R516). -/
def execRailFault (rail : Nat) (s : State) : Out :=
  if rail < 7 + hubCount s ∧ s.bring.rails.testBit rail then
    let s1 := setAlert (onBring (resetDevice s 0) fun b => { b with rails := b.rails - 2 ^ rail })
    -- without VAUX or VIO the test port loses its instruction (R553)
    .next (if rail ≤ 1 then { s1 with pin := { s1.pin with jtag := .idcode, dr := 0x25A4416F } } else s1)
  else .next s

/-- RST_N_FALL: all work stops; the part is held in stage 1, with ALERT_N released (R550, Table 21.9). -/
def execRstNFall (s : State) : Out :=
  .next (onRelSt (onBring (resetDevice s 0) fun b => { b with rstLow := true, flashOpen := true }) fun r => { r with alert := false })

/-- RST_N_RISE: bring-up starts at stage 1 with RESET_CAUSE 0 (R550). -/
def execRstNRise (s : State) : Out :=
  if s.bring.rstLow then .next (onBring s fun b => { b with rstLow := false, resetCause := 0, stageAt := s.now }) else .next s

/-- MP_WATCHDOG: an internal reset of a part whose MP runs (R448, Table 18.1). -/
def execMpWatchdog (s : State) : Out := .next (if s.dev.stage < 2 then s else restartDevice s 3)

/-- THERMAL_TRIP: the clocks stop, THERMTRIP_N is asserted, and the part stays in reset (R512). -/
def execThermalTrip (s : State) : Out :=
  if tripDue s && !s.therm.tripped then .next (onTherm (resetDevice s 2) fun t => { t with tripped := true, coldSince := none }) else .next s

/-- TRIP_RELEASE: every sensor has been cool for 1 s (R512). The part restarts, unless RST_N or a rail holds it in stage 1, or RST_N has been low meanwhile:
then stage 1 begins with RST_N's rise (R550). -/
def execTripRelease (s : State) : Out :=
  match s.therm.coldSince with
  | some t =>
    if s.therm.tripped && decide (t + secUnits ≤ s.now) then
      let s1 := onTherm s fun x => { x with tripped := false }
      .next (if s.bring.rstLow ∨ s.bring.flashOpen ∨ s.bring.rails &&& railsNeeded s ≠ railsNeeded s then s1 else restartDevice s1 2)
    else .next s
  | none => .next s

/-! ### Stage 2 (R529, R452) -/

/-- CLOCK_AND_MP_BOOT. A write that waits on the window, and a copy that runs, leave stage 2 running (R530). -/
def execClockAndMpBoot (f : Stage2Finding) (s : State) : Out :=
  if !inStage s 2 then .next s
  else if !f.clockLocks then .next (haltStage s 2 1 [activeBank s, 0, s.fw.lastCheck, s.dev.fuses.rollback])
  else
    match bootStep s f with
    | .waits => .next s
    | .copies s1 => .next s1
    | .chosen s1 ok =>
      let s2 := bootChosen s1 ok
      let words := [s2.fw.bank, s2.dev.fwVersion, s2.fw.lastCheck, s2.dev.fuses.rollback]
      .next (if ok then passStage s2 2 s2.fw.fellBack words else haltStage s2 2 2 words)

/-! ### Fencing (R453, R457, R459) -/

/-- Set bits of a mask of up to 32. -/
def popCount (m : Nat) : Nat := ((List.range 32).filter m.testBit).length
def orBit (m i : Nat) : Nat := if m.testBit i then m else m + 2 ^ i
def validCore (p : Nat × Nat) : Bool := decide (p.1 < 264) && decide (p.2 < 9)
/-- Is a physical core fenced? -/
def isFenced (s : State) (x c : Nat) : Bool := (smGet 0 s.bring.fenced x).testBit c
/-- Fence a physical core for a cause (FENCE_CAUSE bit of Table 17.6). -/
def fenceCore (cause : Nat) (s : State) (p : Nat × Nat) : State :=
  if !validCore p || isFenced s p.1 p.2 then s
  else onBring s fun b => { b with fenced := smMod 0 b.fenced p.1 (orBit · p.2), cause := smMod 0 b.cause p.1 (orBit · cause) }
def fenceCores (s : State) (cause : Nat) (ps : List (Nat × Nat)) : State := ps.foldl (fenceCore cause) s
/-- Physical cores fenced. -/
def fencedCount (s : State) : Nat := (s.bring.fenced.map fun p => popCount p.2).sum

/-- Cores that the field fault record names (R481, R482). -/
def ffrCores (s : State) : List (Nat × Nat) :=
  s.rel.ffr.flatMap fun e =>
    let x := getB e 0 * 66 + getB e 1
    if getLe e 12 4 ≠ crc32c (e.take 12) ∨ 3 < getB e 0 ∨ 65 < getB e 1 then []
    else if getB e 2 = 0xFF then (List.range 9).map fun c => (x, c)
    else if getB e 2 < 9 then [(x, getB e 2)] else []

/-! ### Stages 3 to 5 -/

/-- Bundles at half width. -/
def halfCount (s : State) : Nat := (s.rel.bundles.filter (·.half)).length

/-- A bundle after stage 3: its failed lanes, up to four of them repaired by spares; with more it runs at half width (R485, R486). -/
def bundleFound (fs : List (BundleRef × Nat)) (b : BundleRef) : BundleRel :=
  let lanes := ((fs.filter fun x => x.1 == b && decide (x.2 < 132)).map (·.2)).eraseDups
  { ref := b, failed := lanes, half := decide (4 < lanes.length) }

/-- BOND_SELF_TEST. Bundles and triples are named by the logical owners that the mapping will give them. -/
def execBondSelfTest (f : Stage3Finding) (s : State) : Out :=
  if !inStage s 3 then .next s
  else
    let bad := f.fenced.filter validCore
    let found := (f.failed.map (·.1)).eraseDups.map (bundleFound f.failed)
    let s1 := onRelSt s fun r =>
      { r with bundles := found, bonds := f.oneBond.map fun t => (t, 1) }
    let s2 := onBring s1 fun b => { b with clockBad := bad }
    let words := [(found.map fun x => min 4 x.failed.length).sum, (found.filter (·.half)).length, f.oneBond.length, bad.length]
    .next (if f.halt then haltStage s2 3 1 words
           else passStage s2 3 (!found.isEmpty || !f.oneBond.isEmpty || !bad.isEmpty) words)

/-- NEAR_MEMORY_TEST. -/
def execNearMemoryTest (f : Stage4Finding) (s : State) : Out :=
  if !inStage s 4 then .next s
  else
    let rows := (List.range 4).map fun i => f.rows.getD i 0
    let top := rows.foldl max 0
    let words := rows.map (min 4096) ++ [4096 - top]
    .next (if 4096 < top then haltStage s 4 1 words else passStage s 4 (top != 0) words)

/-- Pin rate requested (R303). -/
def requestedRate (s : State) : Nat :=
  let r := getB s.fw.bootRec 6
  if bootRecOk s.fw.bootRec ∧ [80, 84, 88, 92, 96, 100].contains r then r else 80

/-- Stacks of the hubs present. -/
def presentStacks (s : State) : List Nat :=
  (List.range (hubCount s * stacksPerHub s)).filter fun i => s.dev.hubsPresent.contains (i / stacksPerHub s)

/-- Stacks that fail to train at a rate. -/
def failsAt (f : Stage5Finding) (rate : Nat) (stks : List Nat) : List Nat :=
  stks.filter fun i => f.fails.any fun p => p.1 == rate && p.2.contains i

/-- The rate reached: 0.4 Gb/s lower each time that a stack fails, down to 8.0. -/
def rateReached (f : Stage5Finding) (stks : List Nat) : Nat → Nat → Nat
  | 0, r => r
  | k + 1, r => if 80 < r ∧ !(failsAt f r stks).isEmpty then rateReached f stks k (r - 4) else r

/-- Harness modules of each hub (R27). -/
def modulesPerHub (s : State) : Nat := 192 / hubCount s
/-- Stacks all of whose modules are down, and that are not lost (R489). Hub-SRAM granules and working-copy pushes of the class stay served, R489 naming
the stack's granules alone (DESIGN CHOICE, log entry 84). -/
def cutStacks (s : State) : List Nat :=
  (List.range (hubCount s * stacksPerHub s)).filter fun i =>
    !s.mem.lost.contains i && (List.range (modulesPerHub s)).all fun m =>
      m % stacksPerHub s != i % stacksPerHub s || s.rel.modules.contains (i / stacksPerHub s, m)
def recutStacks (s : State) : State := onMem s fun m => { m with cut := cutStacks s }

/-- Does the inlet read within 20 to 40 °C (R454)? -/
def inletOk (s : State) : Bool :=
  match smGet? s.therm.temp 392 with
  | some t => decide (16 * 20 ≤ t) && decide (t ≤ 16 * 40)
  | none => false

/-- Stage 6 begins, unless it waits on the inlet: cores of R453 are fenced before the waves. -/
def beginWaves (s : State) : State :=
  if !inletOk s then onBring s fun b => { b with coolantWait := true }
  else
    let s1 := onBring s fun b => { b with coolantWait := false, stageAt := s.now, waveAt := s.now }
    fenceCores (fenceCores s1 0 (ffrCores s)) 1 s.bring.clockBad

/-- Look at the inlet again while stage 6 waits. -/
def inletCheck (s : State) : State := if inStage s 6 && s.bring.coolantWait then beginWaves s else s

/-- HUB_BRINGUP (R303): it never halts; what is absent, lost or down is carried to stage 8. -/
def execHubBringup (f : Stage5Finding) (s : State) : Out :=
  if !inStage s 5 then .next s
  else
    let hubs := (List.range (hubCount s)).filter fun k => f.hubs.testBit k
    let sick := hubs.filter f.sramBad.testBit
    let s1 := onDev s fun d => { d with hubsPresent := hubs, sramBad := sick }
    let st := presentStacks s1
    let req := requestedRate s
    let rate := rateReached f st 5 req
    let lost := failsAt f rate st
    let mods := f.modules.filter fun p => hubs.contains p.1 && decide (p.2 < modulesPerHub s)
    let s2 := onMem (onDev s1 fun d => { d with pinRate := rate }) fun m => { m with lost := lost }
    let s3 := recutStacks (onRelSt s2 fun r => { r with modules := mods, credits := mods.map fun m => (m, 0, 0) })
    let s4 := onBring s3 fun b => { b with stackRepair := f.lanes }
    let words := [maskOfList hubs, maskOfList lost, rate, mods.length, f.sramRows]
    let found := decide (rate < req) || !lost.isEmpty || !mods.isEmpty || f.sramRows != 0 || decide (hubs.length < hubCount s) || !sick.isEmpty ||
      f.lanes.any fun p => p.2 != 0
    .next (beginWaves (passStage (loadProc (loadProc (loadProc s4 .hubMcu) .groom) .ethSerdes) 5 found words))

/-! ### Stage 6 (R454 to R457) -/

/-- Core number `i` of the waves, in the order of R455: physical team, core, and its time in µs from the start of the waves. -/
def waveCore (i : Nat) : (Nat × Nat) × Nat :=
  let l := i / 594
  let g := i % 594 / 54
  let c := i % 54 / 6
  ((l * 66 + 6 * g + i % 6, c), 240 * l + 20 * g + c)

/-- COMPUTE_WAVE_RELEASE: the next core of the waves at its time, a team's row engine together with core 0; a fenced core keeps its place and is not
powered. -/
def execComputeWaveRelease (core : Nat) (s : State) : Out :=
  let s := inletCheck s
  if !inStage s 6 ∨ s.bring.coolantWait ∨ core ≠ s.bring.released ∨ 2376 ≤ core ∨ s.now < s.bring.waveAt + (waveCore core).2 * usUnits then .next s
  else
    let p := (waveCore core).1
    .next (onBring s fun b => { b with released := core + 1, powered := b.powered + b2n (!isFenced s p.1 p.2), rowsOn := if p.2 = 0 then b.rowsOn ++ [p.1] else b.rowsOn })

/-- COMPUTE_POWERUP: the self-test after the waves, or the HALT of a VIN_T below its window during them. -/
def execComputePowerup (f : Stage6Finding) (s : State) : Out :=
  let s := inletCheck s
  let ffr := ((fenceCores (onBring s fun b => { b with fenced := [] }) 0 (ffrCores s)))
  if !inStage s 6 ∨ s.bring.coolantWait ∨ (s.bring.released < 2376 ∧ !f.vinLow) then .next s
  else if f.vinLow then
    .next (haltStage s 6 1 [0, fencedCount ffr, f.peak, (s.now - s.bring.waveAt) / usUnits, 0])
  else
    let bad := f.rowBad.filter fun x => decide (x < 264)
    let s1 := onBring (fenceCores s 2 f.fenced) fun b => { b with rowBad := bad }
    let words := [fencedCount s1 - fencedCount s, fencedCount ffr, f.peak, 928, bad.length]
    .next (passStage s1 6 (decide (0 < fencedCount s1) || !bad.isEmpty) words)

/-! ### Stage 7 (R458, R459) -/

/-- Packets of 4 KiB that the core firmware is sent in. -/
def fwPackets (s : State) : Nat := ((coreSect s).length + 4095) / 4096
/-- A packet's bytes. -/
def fwPacket (s : State) (n : Nat) : List Byte := ((coreSect s).drop (4096 * n)).take 4096
/-- SHA-512 of the core firmware, which the image signature covers. -/
def coreDigest (s : State) : List Byte :=
  match ((List.range (imgNsect s.fw.image)).map (imgSect s.fw.image)).find? fun e => sectKind e == 2 with
  | some e => (e.drop 16).take 64
  | none => []

/-- What a core holds in its staging area when it lacks no packet. -/
def copyBytes (s : State) (c : FwCopy) : List Byte :=
  (List.range (fwPackets s)).flatMap fun n => (smGet? c.damage n).getD (fwPacket s n)
/-- Is the copy complete: every packet held, and the SHA-512 of the copy equal to the signed digest? An undamaged copy is the section, whose digest stage 2
has checked (R522). -/
def copyComplete (s : State) (c : FwCopy) : Bool := c.missing.isEmpty && (c.damage.isEmpty || sha512 (copyBytes s c) == coreDigest s)

/-- Packets of a list that the finding names for a core. -/
def lostPackets (f : Stage7Finding) (core : Nat × Nat) (ns : List Nat) : List Nat :=
  ns.filter fun n => f.undelivered.any fun x => x.1 == core && x.2.contains n
/-- What a core's staging area holds in place of some packets that reached it. -/
def hurtPackets (f : Stage7Finding) (core : Nat × Nat) (ns : List Nat) : List (Nat × List Byte) :=
  ((f.damaged.filter fun x => x.1 == core && ns.contains x.2.1).map (·.2)).map fun x => (x.1, x.2.take 4096)

/-- A core's copy after packets `ns` were sent to it, over what it held before. -/
def sendPackets (f : Stage7Finding) (c : FwCopy) (ns : List Nat) : FwCopy :=
  let lost := lostPackets f c.core ns
  let got := ns.filter fun n => !lost.contains n
  { c with missing := c.missing.filter (fun n => !ns.contains n) ++ lost
           damage := (hurtPackets f c.core got).foldl (fun m x => smIns m x.1 x.2) (c.damage.filter fun x => !ns.contains x.1) }

/-- Packets that a repair round sends to a core: those its bitmap lacks, or all of them where its digest differs. -/
def packetsOwed (s : State) (c : FwCopy) : List Nat :=
  if copyComplete s c then [] else if c.missing.isEmpty then List.range (fwPackets s) else c.missing

/-- Cores that are short: their copy is not complete, or they have not reported in time. -/
def shortCores (s : State) (f : Stage7Finding) (cs : List FwCopy) : List (Nat × Nat) :=
  (cs.filter fun c => !copyComplete s c || f.late.contains c.core).map (·.core)

/-- Unfenced cores that a finding names. -/
def namedCores (s : State) (f : Stage7Finding) : List (Nat × Nat) :=
  ((f.undelivered.map (·.1) ++ f.damaged.map (·.1) ++ f.late).filter fun p => validCore p && !isFenced s p.1 p.2).eraseDups

/-- Stage 7 ends: cores still short are fenced. -/
def endBroadcast (s : State) : State :=
  let s1 := fenceCores s 3 s.bring.short
  let w := (s.bring.shortWords ++ [0, 0, 0]).take 5
  onBring (passStage (loadProc s1 .cores) 7 (decide (0 < w.getD 1 0)) (w ++ [s.bring.short.length])) fun b => { b with short := [], copies := [] }

/-- FIRMWARE_BROADCAST: every packet goes to every unfenced core; a core that the finding does not name holds them all. -/
def execFirmwareBroadcast (f : Stage7Finding) (s : State) : Out :=
  if !inStage s 7 ∨ s.bring.round ≠ 0 then .next s
  else
    let all := List.range (fwPackets s)
    let cs := (namedCores s f).map fun p => sendPackets f ⟨p, all, []⟩ all
    let sh := shortCores s f cs
    let s1 := onBring s fun b => { b with copies := cs, short := sh, shortWords := [(coreSect s).length, sh.length], round := 1 }
    .next (if sh.isEmpty then endBroadcast s1 else s1)

/-- REPAIR_ROUND: each short core gets its missing packets by unicast; after round 3 the cores still short are fenced. -/
def execRepairRound (f : Stage7Finding) (s : State) : Out :=
  if !inStage s 7 ∨ s.bring.round = 0 then .next s
  else
    let cs := (s.bring.copies.filter fun c => s.bring.short.contains c.core).map fun c => sendPackets f c (packetsOwed s c)
    let rest := shortCores s f cs
    let s1 := onBring s fun b =>
      { b with copies := cs, short := rest, shortWords := b.shortWords ++ [b.short.length - rest.length], round := b.round + 1 }
    .next (if rest.isEmpty ∨ 3 ≤ s.bring.round then endBroadcast s1 else s1)

/-! ### Stage 8: mapping (R460, R461) -/

/-- Class of a physical team: 0 full, 1 degradable, 2 unusable. -/
def teamClass (s : State) (x : Nat) : Nat :=
  let f := popCount (smGet 0 s.bring.fenced x)
  if s.bring.rowBad.contains x then 2 else if f ≤ 1 then 0 else if f = 2 then 1 else 2

/-- Assign a physical team of a layer to logical team `t`, with the spare teams still free. -/
def pickTeam (s : State) (layer t : Nat) (free : List Nat) : Option Nat :=
  let cls := fun p => teamClass s (layer * 66 + p)
  if cls t = 0 then some t
  else
    match free.find? fun p => cls p == 0 with
    | some p => some p
    | none => if cls t = 1 then some t else free.find? fun p => cls p == 1

/-- The assignment of a layer, team by team: logical team and physical team. -/
def mapLayer (s : State) (layer : Nat) : List (Nat × Option Nat) :=
  ((List.range 64).foldl (fun (r : List (Nat × Option Nat) × List Nat) t =>
    let p := pickTeam s layer t r.2
    (r.1 ++ [(layer * 64 + t, p)], match p with | some q => r.2.filter (· != q) | none => r.2)) ([], [64, 65])).1

def slotList : List Nat := List.range 8
/-- Slot whose core serves a slot that has none of its own: the lowest-numbered one that is not fenced. -/
def hostSlot (mask : Nat) : Nat := (slotList.find? fun i => !mask.testBit i).getD 0

/-- The hardware of a logical team on a physical team (R461). -/
def teamOn (phys mask t : Nat) : TeamRel :=
  let fs := slotList.filter mask.testBit
  let spare := if mask.testBit 8 then none else fs.head?
  let rest := if mask.testBit 8 then fs else fs.tail
  { moved := if phys = t % 64 then none else some phys, onSpare := spare, shared := rest.head?.map fun i => (i, hostSlot mask),
    fenced := mask, degraded := !rest.isEmpty }

/-- Map every logical team. -/
def mapTeams (s : State) : State :=
  let all := (List.range 4).flatMap (mapLayer s)
  let teams := all.foldl (fun m p =>
    match p.2 with
    | some q => smSet {} m p.1 (teamOn q (smGet 0 s.bring.fenced (p.1 / 64 * 66 + q)) p.1)
    | none => m) []
  let lack := all.filterMap fun p => if p.2.isNone then some p.1 else none
  onBring (onRelSt s fun r => { r with teams := teams }) fun b => { b with unmapped := lack }

/-! ### Stage 8: agreement (R463, Table 17.7) -/

def degradedCount (s : State) : Nat := (s.rel.teams.filter fun p => p.2.degraded).length

/-- The MISMATCH mask. -/
def mismatchMask (s : State) : Nat :=
  let f := s.dev.fuses
  let hubsBad := (List.range 8).any fun k => f.expHubs.testBit k && (!s.dev.hubsPresent.contains k || s.dev.sramBad.contains k)
  let stacksBad := !s.mem.lost.isEmpty || (List.range 24).any fun i => f.expStacks.testBit i && !(presentStacks s).contains i
  b2n hubsBad + 2 * b2n (!s.bring.unmapped.isEmpty) + 4 * b2n stacksBad + 8 * b2n (decide (f.maxDegraded < degradedCount s)) +
    16 * b2n (!s.rel.modules.isEmpty) + 32 * b2n (decide (f.maxHalf < halfCount s)) + 64 * b2n (decide (s.dev.pinRate < f.pinMin))

/-! ### The topology report (R462, Table 17.6) -/

/-- Logical team on a physical team, 0xFF if none. -/
def logicalOn (s : State) (layer p : Nat) : Nat :=
  match (List.range 64).find? fun t =>
      ((getRel s (layer * 64 + t)).moved.getD t == p) && !s.bring.unmapped.contains (layer * 64 + t) with
  | some t => t
  | none => 0xFF

def topoHub (s : State) (h : Nat) : List Byte :=
  let fit := decide (h < hubCount s)
  leBytes 1 (b2n (s.dev.fuses.expHubs.testBit h)) ++ leBytes 1 (b2n (s.dev.hubsPresent.contains h)) ++ leBytes 1 0 ++
    leBytes 1 (if fit then modulesPerHub s else 0) ++
    leBytes 12 (maskOfList ((s.rel.modules.filter fun p => p.1 == h).map (·.2))) ++ zeroBytes 16

def topoStack (s : State) (i : Nat) : List Byte :=
  let st := if s.mem.lost.contains i then 2 else if s.dev.pinRate ≠ 0 ∧ (presentStacks s).contains i then 1 else 0
  leBytes 1 (b2n (s.dev.fuses.expStacks.testBit i)) ++ leBytes 1 st ++ leBytes 2 (if st = 0 then 0 else smGet 0 s.bring.stackRepair i) ++ zeroBytes 4

def topoTeam (s : State) (part : Bool) (x : Nat) : List Byte :=
  leBytes 1 (x / 66) ++ leBytes 1 (x % 66) ++ leBytes 1 (if part then 0xFF else logicalOn s (x / 66) (x % 66)) ++
    leBytes 1 (if part then 0 else teamClass s x) ++ leBytes 2 (smGet 0 s.bring.fenced x) ++ leBytes 1 (smGet 0 s.bring.cause x) ++ leBytes 1 0

def topoBytes (s : State) (part : Bool) : List Byte :=
  let mm := if part then 0 else mismatchMask s
  leBytes 4 0x5A445450 ++ leBytes 2 1 ++ leBytes 2 s.dev.fuses.variant ++ leBytes 1 (b2n (!part && mm == 0)) ++ leBytes 1 (b2n part) ++
    leBytes 2 mm ++ leBytes 1 s.dev.hubsPresent.length ++ leBytes 1 s.mem.lost.length ++ leBytes 1 (degradedCount s) ++
    leBytes 1 s.bring.unmapped.length ++ leBytes 2 (fencedCount s) ++ leBytes 2 (halfCount s) ++ leBytes 1 s.dev.pinRate ++
    leBytes 1 (b2n (!part && mm != 0 && mm % 4 == 0)) ++ zeroBytes 2 ++ leBytes 8 s.dev.fuses.uid ++ zeroBytes 32 ++
    (List.range 6).flatMap (topoHub s) ++ (List.range 24).flatMap (topoStack s) ++ (List.range 264).flatMap (topoTeam s part)

/-- What TOPO_READ sends: the report as stage 8 formed it, a partial one before. -/
def topoReport (s : State) : List Byte :=
  match s.bring.topo with
  | some b => b
  | none => topoBytes s true

/-! ### READY (R467) -/

/-- READY: the boundary of tick 0 opens at the next TICK_BOUNDARY, with T(−1) the metered draw; ports begin training; fuse programming is due (R531). -/
def enterReady (s : State) (drawW : Nat) : State :=
  let s1 := onDev s fun d => { d with state := 2, stage := 8 }
  let s2 := { s1 with tick := { readyAt := s.now, targetU := drawW * wUnits } }
  let s3 := onMp s2 fun m => { m with inWindow := true }
  portsStart (onFw s3 fun f => { f with fusePending := decide (s.dev.fuses.rollback < imgSec s.fw.image) })

/-- Words of the stage-8 report. -/
def stage8Words (s : State) : List Nat :=
  let spares := (s.rel.teams.filter fun p => match p.2.moved with | some _ => true | none => false).length
  [256 - degradedCount s - s.bring.unmapped.length, degradedCount s, s.bring.unmapped.length, spares, mismatchMask s]

/-- TOPOLOGY_AGREEMENT. -/
def execTopologyAgreement (f : Stage8Finding) (s : State) : Out :=
  if !inStage s 8 then .next s
  else
    let s1 := mapTeams s
    let mm := mismatchMask s1
    let bytes := topoBytes s1 false
    let s2 := onFw (onBring s1 fun b => { b with mismatch := mm, topo := some bytes }) fun w => { w with measTopo := sha512 bytes }
    let moved := s2.rel.teams.any fun p => p.2.moved.isSome || p.2.degraded
    if mm = 0 then .next (enterReady (stageReport s2 8 (resOf (decide (0 < fencedCount s2) || moved)) 0 (stage8Words s2)) f.drawW)
    else .next (stageReport (onBring (onDev s2 fun d => { d with state := 1 }) fun b => { b with meterW := f.drawW }) 8 resHold mm (stage8Words s2))

/-- TOPO_ACCEPT's work in TOPOLOGY_HOLD when only acceptable checks failed (R465): READY, with T(−1) the draw metered over the last millisecond of the
hold (R467); the final reply follows tick 0. -/
def acceptTopology (s : State) (sid : Nat) : State :=
  let s1 := onBring s fun b => { b with acceptSid := some sid }
  let s2 := enterReady s1 s.bring.meterW
  stageReport s2 8 resAccepted s.bring.mismatch (stage8Words s)

/-- TOPO_ABANDON's acceptance (R466): the power-down of the compute layers begins. -/
def abandonTopology (s : State) : State := onBring (onDev s fun d => { d with state := 3 }) fun b => { b with downAt := s.now }
/-- Has the power-down begun, and its TOPO_ABANDON no final reply yet? -/
def abandonRuns (s : State) : Bool := s.dev.state == 3 && s.mp.slots.any fun x => x.work == .abandon

/-- The cores whose turn to be powered down has come, last released first; core 0 takes its row engine with it. The reverse of R455's order has its
times mirrored (log entry 181). -/
def powerDownN : Nat → State → State
  | 0, s => s
  | k + 1, s =>
    let i := s.bring.released - 1
    if s.bring.released = 0 ∨ s.now < s.bring.downAt + ((waveCore 2375).2 - (waveCore i).2) * usUnits then s
    else
      let q := (waveCore i).1
      powerDownN k (onBring s fun b => { b with released := i, powered := b.powered - b2n (!isFenced s q.1 q.2)
                                                rowsOn := if q.2 = 0 then b.rowsOn.filter (· != q.1) else b.rowsOn })

/-- The power-down of an abandoned part goes on (R466). -/
def powerDown (s : State) : State := if abandonRuns s then powerDownN s.bring.released s else s

/-- COMPUTE_POWER_DOWN_DONE: every core is powered down (R466). -/
def execComputePowerDownDone (s : State) : Out :=
  let s := powerDown s
  let subs := s.mp.slots.filter fun x => x.work == .abandon
  if s.dev.state = 3 ∧ !subs.isEmpty ∧ s.bring.released = 0 then .next (subs.foldl (fun s x => finalReply s x.sid stOk 0 []) s)
  else .next s

/-- BRING_STATUS payload (R468, Table 17.10). -/
def bringPayload (s : State) : List Byte :=
  let b := s.bring
  let flags := b2n b.coolantWait + 2 * b2n (s.dev.stage == 2 && b.halted == 2) + 4 * b2n (b.halted != 0)
  leBytes 1 s.dev.stage ++ leBytes 1 s.dev.state ++ leBytes 1 flags ++ leBytes 1 0 ++ leBytes 2 (wrapN 16 (sensorTemp s 392)) ++ leBytes 2 0 ++
    leBytes 8 ((s.now - b.t0) / usUnits) ++ (natsFrom 1 8).flatMap fun n => fitBytes 64 ((smGet? b.reports n).getD [])

end Sys2Proof.Machine
end

