-- ==== Sys2Proof/Machine/Roce.lean ====
section
/-! DEFINITION. RoCEv2: NWRITE, connections, the responder's writes and reads, acknowledgements, retries and rates (R411 to R415). The transport's
packet numbers follow the InfiniBand specification that R411 names (PRESUMED, log entry 11). -/

namespace Sys2Proof.Machine

/-! ### Connections -/

def findConn (s : State) (qpn : Nat) : Option RcConn := s.eth.conns.find? fun c => c.qpn == qpn
def onConn (s : State) (qpn : Nat) (f : RcConn → RcConn) : State :=
  let g := fun (c : RcConn) => if c.qpn = qpn then f c else c
  onEth s fun e => { e with conns := e.conns.map g }

/-- A connection that is being closed goes, with the final reply of every RC_CLOSE that names it, once nothing is in flight (R413, log entry 106). -/
def closeCheck (s : State) (qpn : Nat) : State :=
  match findConn s qpn with
  | some c =>
    match c.closing with
    | some _ =>
      if c.flights.isEmpty then
        (s.mp.slots.filter fun x => match x.work with | .rcClose _ q => q == qpn | _ => false).foldl
          (fun s x => finalReply s x.sid stOk (b2n c.error) [])
          (onEth s fun e => { e with conns := e.conns.filter fun x => x.qpn != qpn })
      else s
    | none => s
  | none => s

/-- Send a packet of a connection: nothing leaves a port that is not UP or has no next hop (R408). -/
def rcEmit (s : State) (c : RcConn) (t : RcTx) : State :=
  if portUp s c.hub c.port && portGw s c.hub c.port != 0 then emit s c.hub c.port (.roce c.hub c.port c.v6 c.remoteAddr t) else s

/-- The first connection number from `n` on that is not in use. -/
def freshQpn (s : State) : Nat → Nat → Nat
  | 0, n => n % 2 ^ 24
  | f + 1, n => if (findConn s (n % 2 ^ 24)).isSome then freshQpn s f (n + 1) else n % 2 ^ 24

/-- Open a connection; number, first packet number and key are free values (R413). -/
def openConn (s : State) (hub port : Nat) (v6 : Bool) (rqpn raddr rpsn : Nat) : State × RcConn :=
  let a := drawFree s
  let b := drawFree a.1
  let k := drawFree b.1
  let c : RcConn := { qpn := freshQpn s (s.eth.conns.length + 1) a.2, hub := hub, port := port, v6 := v6, remoteQpn := rqpn, remoteAddr := raddr,
                      rkey := k.2 % 2 ^ 32, recvPsn := rpsn, sendPsn := b.2 % 2 ^ 24 }
  (onEth k.1 fun e => { e with conns := e.conns ++ [c] }, c)

/-! ### NWRITE (R414, Table 15.5) -/

structure NwDesc where
  src : Nat
  va : Nat
  len : Nat
  qpn : Nat
  rkey : Nat
  imm : Nat
  syncId : Nat
  signalN : Nat
  flags : Nat
  rsvZero : Bool
deriving DecidableEq, Repr

def nwDesc (b : List Byte) : NwDesc :=
  ⟨getLe b 0 8, getLe b 8 8, getLe b 16 4, getLe b 20 4, getLe b 24 4, getLe b 28 4, getLe b 32 2, getLe b 34 2, getB b 36, allZero (b.drop 37)⟩

def nwDescOk (d : NwDesc) (spad : Nat) : Bool :=
  decide (d.len % 64 = 0 ∧ 64 ≤ d.len ∧ d.len ≤ 2 ^ 28) && decide (d.flags < 4) && (!bit d.flags 1 || decide (1 ≤ d.signalN)) && d.rsvZero &&
  (bit d.flags 0 || decide (d.src + d.len ≤ spad))

/-- Packets of an NWRITE: 4,096 B each (Table 15.4). -/
def nwPackets (c : RcConn) (d : NwDesc) (bs : List Byte) : List RcTx :=
  (List.range (ceilDiv d.len 4096)).map fun (i : Nat) =>
    .write c.remoteQpn ((c.sendPsn + i) % 2 ^ 24) d.va d.rkey d.len d.imm (i == 0) (i + 1 == ceilDiv d.len 4096) ((bs.drop (4096 * i)).take 4096)

/-- Start an NWRITE in its slot: sent, or posting a status with nothing sent. -/
def nwStart (s : State) (core id : Nat) (d : NwDesc) : State :=
  let run := fun (hub last : Nat) => StreamRun.nwrite hub d.qpn last d.syncId d.signalN (bit d.flags 1)
  let sid := ((getCore s core).prog.map (·.taskSid)).getD 0
  let start := fun (s : State) (r : StreamRun) (f : Option Nat) =>
    onNode (onStream s id fun x => { x with run := some r, last := some r, forced := f, taskSid := sid, adopt := false }) core fun n =>
      { n with eff := { n.eff with started := n.eff.started ++ [id % 8] } }
  match findConn s d.qpn with
  | none => start s (run 0 0) (some stCancelled)
  | some c =>
    if c.error ∨ c.closing.isSome then start s (run c.hub 0) (some stCancelled)
    else
      match (if bit d.flags 0 then devAccessFault s false d.src d.len else none) with
      | some f => start s (run c.hub 0) (some f.1)
      | none =>
        let rd : MRes (List Byte) := if bit d.flags 0 then coreRead s core d.src d.len else (s, .ok (spadRead s core d.src d.len))
        match rd with
        | (s1, .error _) => start s1 (run c.hub 0) (some stAddrUnmapped)
        | (s1, .ok bs) =>
          let pk := nwPackets c d bs
          let last := c.sendPsn + pk.length - 1
          let s2 := onConn s1 c.qpn fun x =>
            { x with sendPsn := x.sendPsn + pk.length, since := if x.flights.isEmpty then s.now else x.since,
                     flights := x.flights ++ [⟨id, c.sendPsn, last, pk⟩] }
          pk.foldl (fun s t => rcEmit s c t) (start s2 (run c.hub last) none)

/-- NWRITE: waits for its slot; a replayed one that had posted is not sent again, and one in flight takes over its transfer (R415). -/
def execNwrite (r : NArgs) (s : State) : Out :=
  let c := r.core.toNat
  let t := r.thr.toNat
  let idx := r.idx.toNat
  issueRaw c t (r.func.toNat + r.rsv.toNat) s fun th =>
    let id := c * 8 + idx
    let off := gReg th r.g.toNat
    let x := getStream s id
    if (x.adopt || x.run.isNone) && (getNode s c).suppress.posted.contains idx then
      nextPc (onNode s c fun n => { n with suppress := { n.suppress with posted := n.suppress.posted.erase idx } }) c t
    else if x.adopt then nextPc (onStream s id fun x => { x with adopt := false }) c t
    else if x.run.isSome then blockThread s c t (.room (.stream idx))
    else
      let d := nwDesc (spadRead s c off 64)
      if decide (off + 64 ≤ scratchLen s c) && nwDescOk d (scratchLen s c) then nextPc (nwStart s c id d) c t
      else stopThread s c t stAddrUnmapped (spadFault off)

/-- Post an NWRITE's completion. -/
def nwPost (s : State) (id status : Nat) : State :=
  match (getStream s id).run with
  | some (.nwrite _ _ _ obj n en) => streamPost s id status (if en then some (obj, n) else none)
  | _ => s

/-- STREAM_COMPLETION: the stream of a slot completes, or an NWRITE that could not be sent posts its status (R154, R155, R414). -/
def execStreamCompletion (slot : BitVec 14) (s : State) : Out :=
  let x := getStream s slot.toNat
  match x.run, x.forced with
  | some (.nwrite _ _ _ _ _ _), some st => .next (nwPost s slot.toNat st)
  | _, _ => .next (streamComplete s slot.toNat)

/-! ### The responder (R411, R412) -/

/-- NAK codes: packet number out of sequence, invalid request, remote access error. -/
def nakSeq : Nat := 0
def nakInvalid : Nat := 1
def nakAccess : Nat := 2

/-- A frame of the transport for the device: one for a connection of the hub that has no error has its congestion mark answered, and goes on. -/
def rcFrame (m : RocePkt) (s : State) (k : State → RcConn → State) : Out :=
  rxTaken m.toNetFrame s fun s =>
    match findConn s m.qpn with
    | none => s
    | some c =>
      if c.error ∨ c.hub ≠ m.hub then s
      else k (if m.ce then rcEmit s c (.cnp c.remoteQpn) else s) c

/-- A request arrives on a connection: a congestion mark is answered, a repeated request gets what `again` answers, one out of order is refused. -/
def rcRequestWith (again : State → RcConn → State) (m : RocePkt) (s : State) (k : State → RcConn → State) : Out :=
  rcFrame m s fun s c =>
    let d := sgn 24 (m.psn + 2 ^ 24 - c.recvPsn % 2 ^ 24)
    if d < 0 then again s c
    else if 0 < d then rcEmit s c (.nak c.remoteQpn (c.recvPsn % 2 ^ 24) nakSeq)
    else k s c

/-- The same for a request other than a READ: a repeated one is acknowledged again. -/
def rcRequest (m : RocePkt) : State → (State → RcConn → State) → Out :=
  rcRequestWith (fun s c => rcEmit s c (.ack c.remoteQpn (m.psn % 2 ^ 24))) m

def rcNakNow (s : State) (c : RcConn) (m : RocePkt) (code : Nat) : State :=
  rcEmit (onConn s c.qpn fun x => { x with write := none }) c (.nak c.remoteQpn (m.psn % 2 ^ 24) code)

/-- Is a request refused with "remote access error"? Its key is not the connection's, or its range fails a check of MEM_WRITE or MEM_READ (R103,
R412). -/
def rcDenied (s : State) (c : RcConn) (write : Bool) (m : RocePkt) : Bool :=
  m.rkey != c.rkey || !memAddrOk m.va || !memLenOk m.len || (devAccessFault s write m.va m.len).isSome

/-- Has a WRITE packet a payload that the path MTU forbids (Table 15.4)? Every packet but the last of its message carries 4,096 B (log entry 11). -/
def rcMtuBad (m : RocePkt) : Bool := decide (4096 < m.data.length) || (!m.last && m.data.length != 4096)

/-- RDMA_WRITE: the request is checked with its first packet; the immediate's signal is a release once the last packet is visible. -/
def execRdmaWrite (m : RocePkt) (s : State) : Out :=
  rcRequest m s fun s c =>
    let cur : Except Nat (Nat × Nat) :=
      if m.first then
        (if rcDenied s c true m then .error nakAccess else .ok (m.va, m.len))
      else match c.write with
        | some w => .ok w
        | none => .error nakInvalid
    match cur with
    | .error e => rcNakNow s c m e
    | .ok (a, left) =>
      if rcMtuBad m ∨ left < m.data.length ∨ (m.last ∧ m.data.length ≠ left) then rcNakNow s c m nakInvalid
      else
        match memWrite s a m.data with
        | (s1, .error _) => rcNakNow s1 c m nakAccess
        | (s1, .ok _) =>
          let s2 := onConn s1 c.qpn fun x =>
            { x with recvPsn := (x.recvPsn + 1) % 2 ^ 24, write := if m.last then none else some (a + m.data.length, left - m.data.length) }
          if m.last then
            let s3 := rcEmit s2 c (.ack c.remoteQpn (m.psn % 2 ^ 24))
            match m.imm with
            | some w => if w.toNat % 65536 = 0 then s3 else syncAdd s3 (w.toNat / 65536) (w.toNat % 65536)
            | none => s3
          else s2

/-- Packets of the answer to a read: 4,096 B each, with packet numbers of their own (Table 15.4). -/
def readPackets (c : RcConn) (psn : Nat) (bs : List Byte) : List RcTx :=
  (List.range (ceilDiv bs.length 4096)).map fun (i : Nat) =>
    .readResp c.remoteQpn ((psn + i) % 2 ^ 24) (i == 0) (i + 1 == ceilDiv bs.length 4096) ((bs.drop (4096 * i)).take 4096)

/-- READs of a connection that are outstanding: those whose answers still wait at the port. -/
def readsOut (s : State) (c : RcConn) : Nat :=
  ((getPort s (portNo c.hub c.port)).txHeld.filter fun t => match t with
    | .roce _ _ _ dst (.readResp q _ _ last _) => last && q == c.remoteQpn && dst == c.remoteAddr
    | _ => false).length

/-- Answer a READ with its data (R412); `fresh` tells a new one, which moves the packet number on. The 17th outstanding one is an invalid request
(Table 15.4, log entry 11). -/
def readAnswer (fresh : Bool) (m : RocePkt) (s : State) (c : RcConn) : State :=
  if rcDenied s c false m then rcNakNow s c m nakAccess
  else if 16 ≤ readsOut s c then rcNakNow s c m nakInvalid
  else
    match memRead s m.va m.len with
    | (s1, .error _) => rcNakNow s1 c m nakAccess
    | (s1, .ok bs) =>
      (readPackets c m.psn bs).foldl (fun s t => rcEmit s c t)
        (if fresh then onConn s1 c.qpn fun x => { x with recvPsn := (x.recvPsn + ceilDiv m.len 4096) % 2 ^ 24 } else s1)

/-- RDMA_READ: a repeated one gets its data again. -/
def execRdmaRead (m : RocePkt) (s : State) : Out := rcRequestWith (readAnswer false m) m s (readAnswer true m)

/-- RC_INVALID_REQUEST: SEND, atomics and every other opcode. -/
def execRcInvalidRequest (m : RocePkt) (s : State) : Out := rcRequest m s fun s c => rcNakNow s c m nakInvalid

/-! ### The requester (R414, R415) -/

/-- RC_ACK: NWRITEs whose last packet it covers post ST_OK. -/
def execRcAck (m : RocePkt) (s : State) : Out :=
  rcFrame m s fun s c =>
    let covers := fun (f : Flight) => decide (0 ≤ sgn 24 (m.psn + 2 ^ 24 - f.lastPsn % 2 ^ 24))
    let done := c.flights.takeWhile covers
    let s1 := onConn s c.qpn fun x => { x with flights := x.flights.drop done.length, retries := 0, since := s.now }
    closeCheck (done.foldl (fun s f => nwPost s f.slot stOk) s1) c.qpn

/-- RC_RETRY: the 1 ms timeout; after 7 retries the connection enters ERROR. -/
def execRcRetry (hub qpn : Nat) (s : State) : Out :=
  match findConn s qpn with
  | none => .next s
  | some c =>
    if c.hub ≠ hub ∨ c.error ∨ c.flights.isEmpty ∨ s.now < c.since + 1000 * usUnits then .next s
    else if c.retries < 7 then
      let s1 := onConn s qpn fun x => { x with retries := x.retries + 1, since := s.now }
      .next ((c.flights.flatMap (·.pkts)).foldl (fun s t => rcEmit s c t) s1)
    else
      let s1 := onHubEth (onConn s qpn fun x => { x with error := true, flights := [] }) hub fun e => { e with rcErr := inc32 e.rcErr }
      .next (closeCheck (c.flights.foldl (fun s f => nwPost s f.slot stCancelled) s1) qpn)

/-- CNP_RECEIVED: the send rate is halved. -/
def execCnpReceived (m : RocePkt) (s : State) : Out :=
  rxTaken m.toNetFrame s fun s =>
    match findConn s m.qpn with
    | none => s
    | some c => if c.hub = m.hub then onConn s m.qpn fun x => { x with rate := x.rate / 2, rateAt := s.now } else s

/-- RATE_RECOVERY: by 1/16 of the port rate each 50 µs. -/
def execRateRecovery (hub qpn : Nat) (s : State) : Out :=
  match findConn s qpn with
  | none => .next s
  | some c =>
    if c.hub = hub ∧ c.rate < 4294967296 ∧ c.rateAt + 50 * usUnits ≤ s.now then
      .next (onConn s qpn fun x => { x with rate := min 4294967296 (x.rate + 268435456), rateAt := s.now })
    else .next s

end Sys2Proof.Machine
end

