-- ==== Sys2Proof/Machine/VecAlu.lean ====
section
/-! DEFINITION. The element arithmetic of the vector engine: one element of one operation, element-program operations and the
folds of the reduction unit (R197 to R207). -/

namespace Sys2Proof.Machine

/-- An element type at its width (Table 07.1). -/
inductive VTy where
  | int (w : Nat) (signed : Bool)
  | flt (f : FpFmt)
deriving DecidableEq, Repr

/-- Bits of an element of EW code `ew`. -/
def ewBits (ew : Nat) : Nat := 8 * 2 ^ ew

/-- Elements per register at an EW code (Table 07.1). -/
def vlMax (ew : Nat) : Nat := 4096 / ewBits ew

/-- The type that EW and T select (R195); `none` where Table 07.1 does not allow it. -/
def vTy (ew t : Nat) : Option VTy :=
  if t = 0 then some (.int (ewBits ew) true)
  else if t = 1 then some (.int (ewBits ew) false)
  else if t = 2 then (if ew = 1 then some (.flt f16) else if ew = 2 then some (.flt f32) else none)
  else if ew = 1 then some (.flt bf16) else none

def vTyBits : VTy → Nat
  | .int w _ => w
  | .flt f => f.width

/-- The integer an element of an integer type holds. -/
def vInt (w : Nat) (signed : Bool) (a : Nat) : Int := if signed then sgn w a else (a % 2 ^ w : Nat)

/-- Two-operand and one-operand element operations of Table 07.2. -/
inductive VOp where
  | add | sub | mul | fma | min | max | abs | neg | div | sqrt | rcp | rsqrt | exp2 | log2
  | and | or | xor | shl | shr | cmpeq | cmplt | cmple | sel
deriving DecidableEq, Repr

/-- Is the operation allowed for the type? Logic and shifts are for integers, division and the functions for floats. -/
def vOpOk : VOp → VTy → Bool
  | .div, .flt _ => true | .sqrt, .flt _ => true | .rcp, .flt _ => true | .rsqrt, .flt _ => true
  | .exp2, .flt _ => true | .log2, .flt _ => true
  | .div, _ => false | .sqrt, _ => false | .rcp, _ => false | .rsqrt, _ => false | .exp2, _ => false | .log2, _ => false
  | .and, .flt _ => false | .or, .flt _ => false | .xor, .flt _ => false | .shl, .flt _ => false | .shr, .flt _ => false
  | _, _ => true

/-- Does the operation compute a float result (so that a NaN in it is written by this instruction, R211)? Sign operations and
selects pass their operand on (R163, R269). -/
def vOpProduces : VOp → Bool
  | .abs => false | .neg => false | .sel => false | .cmpeq => false | .cmplt => false | .cmple => false
  | _ => true

/-- The value 1 of a float format. -/
def fpOne (f : FpFmt) : Nat := (fpOfVal f (.fin false 1 0)).bits

/-- True as VSEL has it: non-zero, and for floats neither ±0 nor NaN. -/
def vTrue : VTy → Nat → Bool
  | .int w _, a => a % 2 ^ w != 0
  | .flt f, a => !fpIsZero f a && !fpIsNan f a

/-- One element of an integer operation: wraps modulo `2 ^ w` (R200). -/
def vIntOp (w : Nat) (s : Bool) (op : VOp) (a b d : Nat) : Nat :=
  let x := vInt w s a
  let y := vInt w s b
  let tr := fun (c : Bool) => if c then 2 ^ w - 1 else 0
  match op with
  | .add => wrapN w (x + y)
  | .sub => wrapN w (x - y)
  | .mul => wrapN w (x * y)
  | .fma => wrapN w (x * y + vInt w s d)
  | .min => wrapN w (if x ≤ y then x else y)
  | .max => wrapN w (if x ≤ y then y else x)
  | .abs => wrapN w (x.natAbs : Int)
  | .neg => wrapN w (-x)
  | .and => (a &&& b) % 2 ^ w
  | .or => (a ||| b) % 2 ^ w
  | .xor => (a ^^^ b) % 2 ^ w
  | .shl => (a <<< (b % w)) % 2 ^ w
  | .shr => if s then wrapN w (x / ((2 ^ (b % w) : Nat) : Int)) else (a % 2 ^ w) >>> (b % w)
  | .cmpeq => tr (decide (x = y))
  | .cmplt => tr (decide (x < y))
  | .cmple => tr (decide (x ≤ y))
  | .sel => if d % 2 ^ w = 0 then b % 2 ^ w else a % 2 ^ w
  | _ => 0

/-- One element of a float operation (R200, R201). -/
def vFltOp (f : FpFmt) (strict : Bool) (op : VOp) (a b d : Nat) : FpRes :=
  let cmp := fun (k : Nat) => let r := fpCmp f k a b; (⟨if r.1 then fpOne f else 0, r.2⟩ : FpRes)
  fpKeep strict <| match op with
  | .add => fpAdd f strict a b
  | .sub => fpSub f strict a b
  | .mul => fpMul f strict a b
  | .fma => fpFma f strict a b d
  | .min => fpMinMax f strict false a b
  | .max => fpMinMax f strict true a b
  | .abs => ⟨fpMag f a, 0⟩
  | .neg => ⟨if fpNeg? f a then fpMag f a else fpSign f true (fpMag f a), 0⟩
  | .div => fpDiv f strict a b
  | .sqrt => fpSqrt f strict a
  | .rcp => fpRcp f strict a
  | .rsqrt => fpRsqrt f strict a
  | .exp2 => fpExp2 f strict a
  | .log2 => fpLog2 f strict a
  | .cmpeq => cmp 0
  | .cmplt => cmp 1
  | .cmple => cmp 2
  | .sel => ⟨if vTrue (.flt f) d then a else b, 0⟩
  | _ => ⟨0, 0⟩

/-- One element of an operation. -/
def vElem (ty : VTy) (strict : Bool) (op : VOp) (a b d : Nat) : FpRes :=
  match ty with
  | .int w s => ⟨vIntOp w s op a b d, 0⟩
  | .flt f => vFltOp f strict op (a % 2 ^ f.width) (b % 2 ^ f.width) (d % 2 ^ f.width)

/-- Convert an element between types (R200). From integer to integer the value wraps, as integer operations do (DEDUCED, log entry 174). -/
def vConvert (src dst : VTy) (strict : Bool) (a : Nat) : FpRes :=
  fpKeep strict <| match src, dst with
  | .int w s, .int v _ => ⟨wrapN v (vInt w s a), 0⟩
  | .int w s, .flt f => fpOfInt f (vInt w s a)
  | .flt f, .int v s => fpToInt f v s (a % 2 ^ f.width)
  | .flt f, .flt g => fpCvt f g strict (a % 2 ^ f.width)

def vTyIsNan : VTy → Nat → Bool
  | .flt f, a => fpIsNan f a
  | _, _ => false

def vTyIsInf : VTy → Nat → Bool
  | .flt f, a => fpIsInf f a
  | _, _ => false

/-! ### Reductions (R203, R204) -/

/-- Widen a float element to FP32 exactly, keeping NaN payloads in strict mode; a signalling NaN raises INVALID there (R201). -/
def widenRes (f : FpFmt) (strict : Bool) (a : Nat) : FpRes := if f = f32 then ⟨a, 0⟩ else fpCvt f f32 strict a
def widen32 (f : FpFmt) (strict : Bool) (a : Nat) : Nat := (widenRes f strict a).bits

/-- Fold FP32 elements (already widened, in element order) into a float q register. -/
def redFloat (strict : Bool) (op q : Nat) (xs : List Nat) : FpRes :=
  match op with
  | 0 =>
    if strict then xs.foldl (fun (r : FpRes) x => let a := fpAdd f32 true r.bits x; ⟨a.bits, r.flags ||| a.flags⟩) ⟨q, 0⟩
    else ⟨sumBlocks q ((chunk32 (xs.length + 1) xs).map fun b => b.map (fpVal f32)), 0⟩
  | 1 =>
    if strict then xs.foldl (fun (r : FpRes) x => let a := fpFma f32 true x x r.bits; ⟨a.bits, r.flags ||| a.flags⟩) ⟨q, 0⟩
    else ⟨sumBlocks q ((chunk32 (xs.length + 1) xs).map fun b => b.map fun x => fvMul (fpVal f32 x) (fpVal f32 x)), 0⟩
  | _ =>
    fpKeep strict <| xs.foldl (fun (r : FpRes) x =>
      let a := if op = 2 then fpMinMax f32 strict true r.bits x
        else if op = 3 then fpMinMax f32 strict false r.bits x
        else if fpIsNan f32 r.bits || fpIsNan f32 x then fpMinMax f32 strict true r.bits x
        else fpMinMax f32 strict true (fpMag f32 r.bits) (fpMag f32 x)
      ⟨a.bits, r.flags ||| a.flags⟩) ⟨q, 0⟩

/-- Fold integer elements into a 64-bit q register. -/
def redInt (w : Nat) (s : Bool) (op q : Nat) (xs : List Nat) : Nat :=
  xs.foldl (fun q x =>
    let v := vInt w s x
    let c := vInt 64 s q
    wrapN 64 (match op with
      | 0 => c + v
      | 1 => c + v * v
      | 2 => if c ≤ v then v else c
      | 3 => if c ≤ v then c else v
      | _ => if c.natAbs ≤ v.natAbs then (v.natAbs : Int) else (c.natAbs : Int))) q

/-! ### Element programs (R205 to R207) -/

/-- Result of one element-program operation in FP32 (Table 07.6, PTYPE 0). -/
def vepFloat (strict : Bool) (op a b c : Nat) : FpRes :=
  let f := fun (o : VOp) => vFltOp f32 strict o a b c
  match op with
  | 0 => ⟨a, 0⟩
  | 1 => f .add | 2 => f .sub | 3 => f .mul | 4 => f .fma | 5 => f .min | 6 => f .max | 7 => f .abs | 8 => f .neg
  | 9 => f .div | 10 => f .rcp | 11 => f .sqrt | 12 => f .rsqrt | 13 => f .exp2 | 14 => f .log2
  | 15 => f .cmpeq | 16 => f .cmplt | 17 => f .cmple
  | 18 => ⟨if vTrue (.flt f32) a then b else c, 0⟩
  | _ => ⟨0, 0⟩

/-- Result of one element-program operation in SINT32 (PTYPE 1): compares give 1 and 0. -/
def vepInt (op a b c : Nat) : Nat :=
  let f := fun (o : VOp) => vIntOp 32 true o a b c
  match op with
  | 0 => a
  | 1 => f .add | 2 => f .sub | 3 => f .mul | 4 => f .fma | 5 => f .min | 6 => f .max | 7 => f .abs | 8 => f .neg
  | 15 => b2n (f .cmpeq != 0) | 16 => b2n (f .cmplt != 0) | 17 => b2n (f .cmple != 0)
  | 18 => if a % 2 ^ 32 = 0 then c else b
  | 19 => f .and | 20 => f .or | 21 => f .xor | 22 => f .shl | 23 => f .shr
  | _ => 0

/-- Is the operation allowed for PTYPE (Table 07.6)? -/
def vepOpOk (ptype op : Nat) : Bool :=
  if op ≤ 8 then true
  else if op ≤ 14 then ptype == 0
  else if op ≤ 18 then true
  else if op ≤ 23 then ptype == 1
  else false

/-- Element type of an element-program format code (Table 07.5). -/
def vepFmt (ptype c : Nat) : Option VTy :=
  if ptype = 0 then
    (if c = 0 then some (.flt f32) else if c = 1 then some (.flt bf16) else if c = 2 then some (.flt f16) else none)
  else if c = 0x80 then some (.int 8 true) else if c = 0x81 then some (.int 16 true)
  else if c = 0x82 then some (.int 32 true) else none

end Sys2Proof.Machine
end

