-- ==== Sys2Proof/Machine/RowMath.lean ====
section
/-! DEFINITION. One row of each row-engine operation, over FP32 codes (R212 to R222). -/

namespace Sys2Proof.Machine

def one32 : Nat := 0x3F800000
def nan32 : Nat := 0x7FC00000
def inf32 : Nat := 0x7F800000
def ninf32 : Nat := 0xFF800000

/-- The row engine writes every NaN as the canonical NaN in both modes (R214). -/
def canon32 (a : Nat) : Nat := if fpIsNan f32 a then nan32 else a

def rAdd (a b : Nat) : Nat := (fpAdd f32 false a b).bits
def rSub (a b : Nat) : Nat := (fpSub f32 false a b).bits
def rMul (a b : Nat) : Nat := (fpMul f32 false a b).bits
def rFma (a b c : Nat) : Nat := (fpFma f32 false a b c).bits
def rNeg (a : Nat) : Nat := if fpNeg? f32 a then fpMag f32 a else fpSign f32 true (fpMag f32 a)
def rDiv (strict : Bool) (a b : Nat) : Nat := canon32 (fpDiv f32 strict a b).bits
def rRsqrt (strict : Bool) (a : Nat) : Nat := canon32 (fpRsqrt f32 strict a).bits

/-- exp(d) of R214: fast, EXP2 of rne(d × L) with L = 0x3FB8_AA3B; strict, correctly rounded. -/
def rExp (strict : Bool) (d : Nat) : Nat :=
  if strict then canon32 (fpExpStrict f32 d) else canon32 (fpExp2 f32 false (rMul d 0x3FB8AA3B)).bits

/-- FP32 of a natural number up to 65,536 (exact). -/
def rNat (n : Nat) : Nat := (fpOfInt f32 n).bits

/-- Sum of the present elements in the order of R214: fast, exact blocks of 32 by element index; strict, sequential. -/
def rSum (strict : Bool) (xs : List (Option Nat)) : Nat :=
  if strict then xs.foldl (fun a x => match x with | some v => rAdd a v | none => a) 0
  else sumBlocks 0 ((chunk32 (xs.length + 1) xs).map fun b => b.filterMap fun x => x.map (fpVal f32))

/-- Sum of squares, squares exact inside each block; strict, fused multiply-adds in order (R204, R219). -/
def rSumSq (strict : Bool) (xs : List Nat) : Nat :=
  if strict then xs.foldl (fun a x => rFma x x a) 0
  else sumBlocks 0 ((chunk32 (xs.length + 1) xs).map fun b => b.map fun x => fvMul (fpVal f32 x) (fpVal f32 x))

/-- Statistics of a row record: STAT0, STAT1, the flags of Table 08.6 above KIND, and N_INF_M1. -/
structure RowStat where
  stat0 : Nat
  stat1 : Nat
  empty : Bool := false
  inf : Bool := false
  nanrow : Bool := false
  nInfM1 : Nat := 0
deriving DecidableEq, Repr

/-- The statistics of a soft-maximum row of scaled, masked elements `zs` (R215, R216); `none` marks a masked element. 1 / N_INF is rounded once,
as Table 08.2 writes it, in either mode. -/
def smaxStat (strict : Bool) (zs : List (Option Nat)) : RowStat :=
  let un := zs.filterMap id
  if un.any (fpIsNan f32) then ⟨nan32, nan32, false, false, true, 0⟩
  else if un.all (· == ninf32) then ⟨ninf32, 0, true, false, false, 0⟩
  else
    let nInf := (un.filter (· == inf32)).length
    if nInf ≠ 0 then ⟨inf32, rDiv true one32 (rNat nInf), false, true, false, nInf - 1⟩
    else
      let m := un.foldl (fun a x => (fpMinMax f32 false true a x).bits) ninf32
      let s := rSum strict (zs.map fun z => z.map fun v => rExp strict (rSub v m))
      ⟨m, rDiv strict one32 s, false, false, false, 0⟩

/-- The FP32 outputs y(j) before narrowing, from the row's statistics (R215 to R217). -/
def smaxOut (strict : Bool) (st : RowStat) (zs : List (Option Nat)) : List Nat :=
  if st.nanrow then zs.map fun _ => nan32
  else if st.empty then zs.map fun _ => 0
  else zs.map fun z =>
    match z with
    | none => 0
    | some v =>
      if st.inf then (if v = inf32 then st.stat1 else 0)
      else if v = ninf32 then 0
      else rMul (rExp strict (rSub v st.stat0)) st.stat1

/-- FP32 gradient of a soft-maximum row before narrowing (R218); `nar` narrows an output to OUT_FMT and widens it again, since y is as R217. -/
def smaxBack (strict : Bool) (nar : Nat → Nat) (sigma : Nat) (st : RowStat) (zs : List (Option Nat)) (dys : List Nat) : List Nat :=
  if st.empty then zs.map fun _ => 0
  else if st.nanrow then zs.map fun _ => nan32
  else
    let ys := (smaxOut strict st zs).map nar
    let prods := (zs.zip (ys.zip dys)).map fun p => p.1.map fun _ => rMul p.2.1 p.2.2
    let g := rSum strict prods
    (zs.zip (ys.zip dys)).map fun p =>
      match p.1 with
      | none => 0
      | some _ => rMul (rMul p.2.1 (rSub p.2.2 g)) sigma

def rowHasNonfinite (xs : List Nat) : Bool := xs.any fun x => fpIsNan f32 x || fpIsInf f32 x

/-- Statistics of a LNORM row (R219). -/
def lnormStat (strict : Bool) (eps : Nat) (xs : List Nat) : RowStat :=
  if rowHasNonfinite xs then ⟨nan32, nan32, false, false, true, 0⟩
  else
    let n := rNat xs.length
    let mu := rDiv strict (rSum strict (xs.map some)) n
    let var := rDiv strict (rSumSq strict (xs.map fun x => rSub x mu)) n
    ⟨mu, rRsqrt strict (rAdd var eps), false, false, false, 0⟩

/-- Statistics of an RMS row (R219). -/
def rmsStat (strict : Bool) (eps : Nat) (xs : List Nat) : RowStat :=
  if rowHasNonfinite xs then ⟨nan32, nan32, false, false, true, 0⟩
  else
    let ms := rDiv strict (rSumSq strict xs) (rNat xs.length)
    ⟨0, rRsqrt strict (rAdd ms eps), false, false, false, 0⟩

/-- n(j) of a row: (x − μ) × rstd for LNORM, x × rstd for RMS (R219). -/
def normN (ln : Bool) (st : RowStat) (x : Nat) : Nat :=
  if ln then rMul (rSub x st.stat0) st.stat1 else rMul x st.stat1

/-- FP32 outputs of a norm row before narrowing (R219). -/
def normOut (ln : Bool) (st : RowStat) (xs gam bet : List Nat) : List Nat :=
  if st.nanrow then xs.map fun _ => nan32
  else (xs.zip (gam.zip bet)).map fun p =>
    let n := normN ln st p.1
    if ln then rFma n p.2.1 p.2.2 else rMul n p.2.1

/-- FP32 gradient of a norm row before narrowing, with the dγ and dβ contributions of its elements (R220, R221). -/
def normBack (strict ln : Bool) (st : RowStat) (xs dys gam : List Nat) : List Nat × List Nat × List Nat :=
  if st.nanrow then (xs.map fun _ => nan32, xs.map fun _ => nan32, xs.map fun _ => nan32)
  else
    let nlen := rNat xs.length
    let ns := xs.map (normN ln st)
    let gs := (dys.zip gam).map fun p => rMul p.1 p.2
    let a := if ln then rDiv strict (rSum strict (gs.map some)) nlen else 0
    let b := rDiv strict (rSum strict ((gs.zip ns).map fun p => some (rMul p.1 p.2))) nlen
    ((gs.zip ns).map fun p => rMul (rFma (rNeg p.2) b (rSub p.1 a)) st.stat1,
     (dys.zip ns).map fun p => rMul p.1 p.2,
     dys)

/-- The value a norm row's backward pass contributes to dβ, NaNs canonical (R214, R221). -/
def canonAll (xs : List Nat) : List Nat := xs.map canon32

end Sys2Proof.Machine
end

