-- ==== Sys2Proof/Machine/Row.lean ====
section
/-! DEFINITION. The row engine (chapter 08): its instructions, descriptors and checks (R233), records (R228 to R230) and the six operations. -/

namespace Sys2Proof.Machine

/-! ### Issue (Table 08.3) -/

def inRowq (s : State) (c t : Nat) : Bool := (getCore s c).rowq.any fun e => e.thr == t

def execRrow (r : EArgs) (s : State) : Out :=
  let c := r.core.toNat
  let t := r.thr.toNat
  issueRaw c t (b2n r.c + r.rsv.toNat) s fun th =>
    if 4 ≤ (getCore s c).rowq.length then blockThread s c t (.room .row)
    else nextPc (onCore s c fun k => { k with rowq := k.rowq ++ [{ thr := t, pc := th.pc, op := gReg th r.g.toNat }] }) c t

def execRfence (r : EArgs) (s : State) : Out :=
  let c := r.core.toNat
  let t := r.thr.toNat
  issueRaw c t (r.g.toNat + b2n r.c + r.rsv.toNat) s fun _ => issueFence c t s .row (inRowq s c t)

def execRstat (r : EArgs) (s : State) : Out :=
  let c := r.core.toNat
  let t := r.thr.toNat
  issueRaw c t r.rsv.toNat s fun _ =>
    let w := (getCore s c).stat.rstat
    putNext (if r.c then onCore s c fun k => { k with stat := { k.stat with rstat := 0 } } else s) c t r.g.toNat w

/-! ### Descriptors (Table 08.4) -/

structure RowDesc where
  x : Nat
  y : Nat
  dy : Nat
  gamma : Nat
  betaDg : Nat
  maskDb : Nat
  ld : Nat
  maskLd : Nat
  param : Nat
  recBase : Nat
  rows : Nat
  n : Nat
  op : Nat
  mode : Nat
  inFmt : Nat
  outFmt : Nat
  maskMode : Nat
  flags : Nat
  causal : Int
  row0 : Nat
  tensor : Nat
  rsv : Nat
deriving DecidableEq, Repr

def rowDesc (b : List Byte) : RowDesc :=
  { x := getLe b 0 8, y := getLe b 8 8, dy := getLe b 16 8, gamma := getLe b 24 8, betaDg := getLe b 32 8, maskDb := getLe b 40 8,
    ld := getLe b 48 4, maskLd := getLe b 52 4, param := getLe b 56 4, recBase := getLe b 60 4, rows := getLe b 64 4,
    n := getLe b 68 2 + 1, op := getB b 70, mode := getB b 71, inFmt := getB b 72, outFmt := getB b 73, maskMode := getB b 74,
    flags := getB b 75, causal := sgn 32 (getLe b 76 4), row0 := getLe b 80 8, tensor := getLe b 88 4, rsv := getLe b 92 4 }

def rowFmt (c : Nat) : FpFmt := if c = 0 then f32 else if c = 1 then bf16 else f16
def rowFmtBytes (c : Nat) : Nat := if c = 0 then 4 else 2
def RowDesc.dev (d : RowDesc) : Bool := bit d.flags 0
def isSmax (d : RowDesc) : Bool := decide (d.op ≤ 1)
def isBack (d : RowDesc) : Bool := d.op % 2 == 1
def isLnorm (d : RowDesc) : Bool := d.op == 2 || d.op == 3
/-- KIND that an operation writes and reads (R228). -/
def rowKind (d : RowDesc) : Nat := d.op / 2 + 1

/-- Field ranges and reserved fields of a descriptor (Table 08.4, R222, R221). -/
def rowDescOk (s : State) (d : RowDesc) : Bool :=
  let finite := decide (fpMag f32 d.param < f32.infBits)
  let target := fun a => a == 0 || (decide (a % 64 = 0) && decide (a < stackEnd s))
  decide (d.op ≤ 5) && decide (d.mode ≤ if isBack d then 0 else 2) && decide (d.inFmt ≤ 2) && decide (d.outFmt ≤ 2) &&
  decide (d.maskMode ≤ if isSmax d then 2 else 0) && decide (d.flags ≤ 1) && d.rsv == 0 &&
  decide (1 ≤ d.rows ∧ d.rows ≤ 65536) && decide (d.ld % 64 = 0) &&
  decide (d.n * max (rowFmtBytes d.inFmt) (rowFmtBytes d.outFmt) ≤ d.ld) &&
  (if d.maskMode = 1 then decide (d.maskLd % 8 = 0) && decide (ceilDiv d.n 8 ≤ d.maskLd) else d.maskLd == 0) &&
  (if isSmax d then finite && fpMag f32 d.param != 0 else finite && decide (d.param < 2 ^ 31) && d.param != 0) &&
  (isBack d || d.dy == 0) && (!isSmax d || d.gamma == 0) &&
  (match d.op with | 2 => true | 3 => target d.betaDg | 5 => target d.betaDg | _ => d.betaDg == 0) &&
  (match d.op with | 3 => target d.maskDb | _ => (isSmax d && d.maskMode == 1) || d.maskDb == 0)

/-- Ranges read and written (R233). -/
def rowRows (d : RowDesc) (base bytes ld : Nat) : List URange := (List.range d.rows).map fun r => ⟨d.dev, base + r * ld, bytes⟩
def rowReads (d : RowDesc) : List URange :=
  rowRows d d.x (d.n * rowFmtBytes d.inFmt) d.ld ++
  (if isBack d then rowRows d d.dy (d.n * rowFmtBytes d.inFmt) d.ld else []) ++
  (if d.gamma = 0 then [] else [⟨d.dev, d.gamma, 4 * d.n⟩]) ++
  (if d.op = 2 ∧ d.betaDg ≠ 0 then [⟨d.dev, d.betaDg, 4 * d.n⟩] else []) ++
  (if d.maskMode = 1 then rowRows d d.maskDb (ceilDiv d.n 8) d.maskLd else [])
def rowWrites (d : RowDesc) : List URange :=
  rowRows d d.y (d.n * rowFmtBytes d.outFmt) d.ld ++
  (if (d.op = 3 ∨ d.op = 5) ∧ d.betaDg ≠ 0 then [⟨true, d.betaDg, 4 * d.n⟩] else []) ++
  (if d.op = 3 ∧ d.maskDb ≠ 0 then [⟨true, d.maskDb, 4 * d.n⟩] else [])

/-- Why a descriptor fails at the head (Table 08.8). -/
def rowDescFault (s : State) (c off : Nat) (d : RowDesc) : Option (Nat × Nat) :=
  if off % 32 ≠ 0 ∨ scratchLen s c < off + 96 ∨ !rowDescOk s d ∨ !rangesSpadOk s c (rowReads d ++ rowWrites d) then
    some (stAddrUnmapped, spadFault off)
  else
    match rangesFault s false (rowReads d) with
    | some f => some f
    | none => rangesFault s true (rowWrites d)

/-! ### Records (R228 to R230) -/

/-- Records a logical team has: side memory and its share of the overflow partition. -/
def recCapacity (s : State) (team : Nat) : Nat := 16384 + cfgRowovfMib s (team / 64) * 1024

/-- Device address of an overflow record's place in its layer (R230, R281). -/
def recPlace (s : State) (team i : Nat) : Nat :=
  let n := team / 64
  nearBase + n * layerLen + (2048 - cfgRowovfMib s n) * 2 ^ 20 + team % 64 * (cfgRowovfMib s n * 16384) + (i - 16384) * 16

def emptyRec : RowRec := ⟨0, 0, 0, 0, 0⟩
def recGet (s : State) (team i : Nat) : RowRec :=
  if i < 16384 then smGet emptyRec (getTeam s team).side i else smGet emptyRec (getTeam s team).ovf (i - 16384)
def recPut (s : State) (team i : Nat) (r : RowRec) : State :=
  onTeam s team fun t =>
    if i < 16384 then { t with side := smSet emptyRec t.side i r } else { t with ovf := smSet emptyRec t.ovf (i - 16384) r }

def recStat (r : RowRec) : RowStat := ⟨r.stat0, r.stat1, bit r.flags 3, bit r.flags 4, bit r.flags 5, r.nInf⟩
def statRec (d : RowDesc) (st : RowStat) : RowRec :=
  ⟨st.stat0, st.stat1, d.tensor, rowKind d + 8 * b2n st.empty + 16 * b2n st.inf + 32 * b2n st.nanrow, st.nInfM1⟩

/-! ### One row -/

/-- Is element `j` of row `r` masked (R222)? `bits` holds the row's bitmap. -/
def rowMasked (d : RowDesc) (bits : List Byte) (r j : Nat) : Bool :=
  if d.maskMode = 1 then bit (getB bits (j / 8)) (j % 8)
  else if d.maskMode = 2 then decide (sgn 64 (wrapN 64 ((d.row0 : Int) + r + d.causal)) < j)
  else false

/-- FP32 values of a vector of `n` elements. -/
def rowVals (fmt : Nat) (bs : List Byte) (n : Nat) : List Nat :=
  let w := rowFmtBytes fmt
  (List.range n).map fun j => widen32 (rowFmt fmt) false (getLe bs (j * w) w)

/-- FP32 result row, dγ and dβ contributions and statistics of one row (R215 to R221). -/
structure RowOut where
  outs : List Nat
  dgamma : List Nat
  dbeta : List Nat
  stat : RowStat
deriving DecidableEq, Repr

def rowCompute (d : RowDesc) (strict : Bool) (recd : RowStat) (xs dys gam bet : List Nat) (mask : Nat → Bool) : RowOut :=
  let zs := (List.range xs.length).map fun j => if mask j then none else some (rMul d.param (xs.getD j 0))
  match d.op with
  | 0 =>
    let st := if d.mode = 1 then recd else smaxStat strict zs
    ⟨smaxOut strict st zs, [], [], st⟩
  | 1 =>
    let f := rowFmt d.outFmt
    ⟨smaxBack strict (fun v => if d.outFmt = 0 then canon32 v else widen32 f false (fpCvt f32 f false v).bits) d.param recd zs dys, [], [], recd⟩
  | 2 =>
    let st := if d.mode = 1 then recd else lnormStat strict d.param xs
    ⟨normOut true st xs gam bet, [], [], st⟩
  | 4 =>
    let st := if d.mode = 1 then recd else rmsStat strict d.param xs
    ⟨normOut false st xs gam bet, [], [], st⟩
  | _ =>
    let r := normBack strict (isLnorm d) recd xs dys gam
    ⟨r.1, r.2.1, r.2.2, recd⟩

/-- One accumulate-to-line addition of a slot: one that is applied counts for a replay, and the replay leaves that many out (R301). -/
def rowAdd (s : State) (c a v : Nat) : MRes Unit :=
  if 0 < (getNode s c).suppress.tadds then
    (onNode s c fun n => { n with suppress := { n.suppress with tadds := n.suppress.tadds - 1 } }, .ok ())
  else
    match memTadd s c a v with
    | (s1, .error e) => (s1, .error e)
    | (s1, .ok _) => (onNode s1 c fun n => { n with eff := { n.eff with tadds := n.eff.tadds + 1 } }, .ok ())
def rowAdds (c base : Nat) : List Nat → Nat → State → MRes Unit
  | [], _, s => (s, .ok ())
  | v :: vs, j, s =>
    match rowAdd s c (base + 4 * j) v with
    | (s1, .error e) => (s1, .error e)
    | (s1, .ok _) => rowAdds c base vs (j + 1) s1

/-- The row's inputs as bytes: X, dY, γ, β, bitmap. -/
def rowInputs (s : State) (c : Nat) (d : RowDesc) (r : Nat) : MRes (List (List Byte)) :=
  let w := d.n * rowFmtBytes d.inFmt
  unitReads c false
    [⟨d.dev, d.x + r * d.ld, w⟩, ⟨d.dev, d.dy + r * d.ld, if isBack d then w else 0⟩,
     ⟨d.dev, d.gamma, if d.gamma = 0 then 0 else 4 * d.n⟩,
     ⟨d.dev, d.betaDg, if d.op = 2 ∧ d.betaDg ≠ 0 then 4 * d.n else 0⟩,
     ⟨d.dev, d.maskDb + r * d.maskLd, if d.maskMode = 1 then ceilDiv d.n 8 else 0⟩] s

/-- Process one row; the error carries the status and the FAULT_ADDR. The Bool is the RROW's first report made already. -/
def rowStep (s : State) (team c : Nat) (e : QEntry Nat) (d : RowDesc) (strict : Bool) (r : Nat) (seen : Bool) : State × Except Nat Bool :=
  let i := d.recBase + r
  let uses := isBack d || d.mode != 2
  let reads := isBack d || d.mode == 1
  let old := recGet s team i
  if uses ∧ recCapacity s team ≤ i then (s, .error (0xFE00000000000000 + i))
  else
    let s0 := if uses ∧ 16384 ≤ i then rstatOn s c false false false true 0 0 else s
    if uses ∧ 16384 ≤ i ∧ s.mem.badNm.contains (recPlace s team i / 32) then nmUeAt s0 (recPlace s team i)
    else if reads ∧ (old.flags % 8 ≠ rowKind d ∨ old.tensor ≠ d.tensor) then (s0, .error (0xFE00000000000000 + i))
    else
      mBind (rowInputs s0 c d r) fun s1 bss =>
        let xs := rowVals d.inFmt (bss.getD 0 []) d.n
        let dys := if isBack d then rowVals d.inFmt (bss.getD 1 []) d.n else []
        let gam := if d.gamma = 0 then List.replicate d.n one32 else rowVals 0 (bss.getD 2 []) d.n
        let bet := if d.op = 2 ∧ d.betaDg ≠ 0 then rowVals 0 (bss.getD 3 []) d.n else List.replicate d.n 0
        let o := rowCompute d strict (recStat old) xs dys gam bet (rowMasked d (bss.getD 4 []) r)
        let f := rowFmt d.outFmt
        let ys := o.outs.map fun v => if d.outFmt = 0 then canon32 v else (fpCvt f32 f false v).bits
        let w := rowFmtBytes d.outFmt
        let nan := ys.findIdx? (fpIsNan f)
        mBind (unitWrite s1 c ⟨d.dev, d.y + r * d.ld, d.n * w⟩ (ys.flatMap (leBytes w))) fun s2 _ =>
          let s3 := if !isBack d ∧ d.mode = 0 then recPut s2 team i (statRec d o.stat) else s2
          let counts := d.op == 0 && d.mode != 1 && o.stat.empty
          let s4 := rstatOn s3 c nan.isSome (ys.any (fpIsInf f)) counts false (b2n counts) (b2n (ys.all (fpIsNan f)))
          let s5 := match nan with
            | some j => if seen then s4 else nanEntry s4 c e 3 (some d.tensor) (r * 2 ^ 32 + j)
            | none => s4
          mBind (if (d.op = 3 ∨ d.op = 5) ∧ d.betaDg ≠ 0 then rowAdds c d.betaDg o.dgamma 0 s5 else (s5, .ok ())) fun s6 _ =>
            mBind (if d.op = 3 ∧ d.maskDb ≠ 0 then rowAdds c d.maskDb o.dbeta 0 s6 else (s6, .ok ())) fun s7 _ =>
              (s7, .ok (seen || nan.isSome))

/-- Rows in ascending order until one fails. -/
def rowLoop (team c : Nat) (e : QEntry Nat) (d : RowDesc) (strict : Bool) : List Nat → Bool → State → State × Option Nat
  | [], _, s => (s, none)
  | r :: rs, seen, s =>
    match rowStep s team c e d strict r seen with
    | (s1, .error x) => (s1, some x)
    | (s1, .ok b) => rowLoop team c e d strict rs b s1

/-! ### The engine (R225) -/

/-- Slot whose descriptor is taken next: from the slot after the one served last. -/
def rowNext (s : State) (team : Nat) : Option Nat :=
  ((List.range 8).map fun i => ((getTeam s team).rotor + 1 + i) % 8).find? fun k =>
    !(getCore s (team * 8 + k)).rowq.isEmpty && unitServed s (team * 8 + k)

/-- The head of a slot's row queue completes. -/
def rowFinish (s : State) (c : Nat) : State :=
  let s1 := onCore s c fun x => { x with rowq := x.rowq.tail, rowBusy := false }
  unitAdvance s1 c .row (inRowq s1 c)

/-- The head of a slot's row queue fails: its thread stops, and that thread's entries behind it are discarded (R233). -/
def rowFail (s : State) (c : Nat) (f : Nat × Nat) : State :=
  match (getCore s c).rowq with
  | [] => s
  | e :: rest =>
    let s1 := stopQueued s c e.thr f.1 e.pc f.2
    let s2 := onCore s1 c fun x => { x with rowq := rest.filter fun q => q.thr != e.thr, rowBusy := false }
    unitAdvance s2 c .row (inRowq s2 c)

/-- Run the descriptor whose turn it is, when its OP is the row's; a descriptor with an OP that does not exist fails under any row. An RROW
whose accumulate requests wait for a layer that empties (R282) keeps the engine until they are applied (R226). -/
def rowExec (s : State) (team op : Nat) : State :=
  if (List.range 8).any fun k => (getCore s (team * 8 + k)).rowBusy then s
  else
  match rowNext s team with
  | none => s
  | some k =>
    let c := team * 8 + k
    match (getCore s c).rowq with
    | [] => s
    | e :: _ =>
      let off := e.op
      let d := rowDesc (spadRead s c off 96)
      let readable := decide (off % 32 = 0 ∧ off + 96 ≤ scratchLen s c)
      if readable ∧ d.op ≤ 5 ∧ d.op ≠ op then s
      else
        let s0 := onTeam s team fun x => { x with rotor := k }
        match rowDescFault s0 c off d with
        | some f => rowFail s0 c f
        | none =>
          match rowLoop team c e d (slotStrict s c 2) (List.range d.rows) false s0 with
          | (s1, some x) => rowFail s1 c (stAddrUnmapped, x)
          | (s1, none) => if accWaits s1 c false then onCore s1 c fun x => { x with rowBusy := true } else rowFinish s1 c

/-- Accumulate requests of row work that a layer has released: one that failed fails its RROW, and an RROW with none left completes (R226,
R282, R300). A request that was not applied is not counted (R301). -/
def rowReleased (fs : List (TaddReq × Nat)) (s : State) (c : Nat) : State :=
  if !(getCore s c).rowBusy then s
  else
    let lost := (fs.filter fun f => f.1.core == c && !f.1.fmax).length
    let s1 := onNode s c fun n => { n with eff := { n.eff with tadds := n.eff.tadds - lost } }
    match accFailed fs c false with
    | some x => rowFail (accEnded s1 c false (some x)) c (stAddrUnmapped, x)
    | none => if accWaits s1 c false then s1 else rowFinish (accEnded s1 c false none) c

def execSmaxFwd (team : BitVec 8) (s : State) : Out := .next (rowExec s team.toNat 0)
def execSmaxBwd (team : BitVec 8) (s : State) : Out := .next (rowExec s team.toNat 1)
def execLnormFwd (team : BitVec 8) (s : State) : Out := .next (rowExec s team.toNat 2)
def execLnormBwd (team : BitVec 8) (s : State) : Out := .next (rowExec s team.toNat 3)
def execRmsFwd (team : BitVec 8) (s : State) : Out := .next (rowExec s team.toNat 4)
def execRmsBwd (team : BitVec 8) (s : State) : Out := .next (rowExec s team.toNat 5)

end Sys2Proof.Machine
end

