-- ==== Sys2Proof/Machine/Reliab.lean ====
section
/-! DEFINITION. Reliability (chapter 18): core faults with substitution and replay, degraded and lost teams, the field fault record, bond
lanes and the farrier engine, and the spare state. -/

namespace Sys2Proof.Machine

/-! ### The field fault record (R481, Table 18.5) -/

/-- Physical team of a logical team, within its layer. -/
def physOf (s : State) (t : Nat) : Nat := (getRel s t).moved.getD (t % 64)

/-- Record a fenced core, or a LOST team, by layer and physical team, with the tick of the fault: the entry waits for its write. A full record takes
none. -/
def ffrEntry (s : State) (layer phys core cause tick : Nat) : State :=
  let b := leBytes 1 layer ++ leBytes 1 phys ++ leBytes 1 core ++ leBytes 1 cause ++ leBytes 8 tick
  onRelSt s fun r =>
    if r.ffr.length + r.ffrPending.length < 1024 then { r with ffrPending := r.ffrPending ++ [b ++ leBytes 4 (crc32c b)] } else r
/-- The same for a logical team. -/
def ffrRecord (s : State) (t core cause tick : Nat) : State := ffrEntry s (t / 64) (physOf s t) core cause tick

/-! ### Replay (R472 to R475) -/

def addSignals (a b : List (Nat × Nat)) : List (Nat × Nat) := b.foldl (fun m p => smMod 0 m p.1 (· + p.2)) a

/-- What a replay suppresses: what was still suppressed at the seal, and what has been delivered since. -/
def plusEff (a b : EffectCount) : EffectCount :=
  { signals := addSignals a.signals b.signals, nans := a.nans + b.nans, tadds := a.tadds + b.tadds, stackOps := a.stackOps + b.stackOps,
    stackRes := a.stackRes ++ b.stackRes, psends := a.psends + b.psends, nwrites := a.nwrites + b.nwrites, posted := a.posted ++ b.posted,
    started := [], faults := a.faults + b.faults, instrs := a.instrs + b.instrs, entries := a.entries + b.entries, drops := a.drops + b.drops }

/-- Put back one stream slot for a replay (R156, R415). A move that ran at the seal runs again; one started since starts again with its SSTART. An
NWRITE in flight goes on, and its replayed instruction takes it over, where that is still to come; one that had posted is not sent again. The completions
that the replay leaves out are those of the slot's streams in their order: a run whose instruction is not replayed takes its own with it. -/
def restoreStream (s : State) (p : Nat × StreamSlot) : State :=
  let now := getStream s p.1
  let c := p.1 / 8
  let drop := fun (s : State) => onNode s c fun n => { n with suppress := { n.suppress with posted := n.suppress.posted.erase (p.1 % 8) } }
  let started := (getNode s c).eff.started.contains (p.1 % 8)
  match now.run, p.2.run with
  | some (.nwrite _ _ _ _ _ _), some (.move d) => drop (streamRun (onStream s p.1 fun x => { x with adopt := true }) c d none).1
  | some (.nwrite _ _ _ _ _ _), some (.nwrite _ _ _ _ _ _) =>
    if started then
      let s1 := onStream s p.1 fun x => { x with adopt := true }
      if p.2.adopt then s1 else drop s1
    else onStream s p.1 fun x => { x with adopt := p.2.adopt }
  | some (.nwrite _ _ _ _ _ _), none => onStream s p.1 fun x => { x with adopt := true }
  | _, some (.move _) =>
    onStream s p.1 fun x => { x with run := p.2.run, last := p.2.last, forced := p.2.forced, taskSid := p.2.taskSid, adopt := false }
  | _, some (.nwrite _ _ _ _ _ _) =>
    let s1 := onStream s p.1 fun x => { x with run := none, forced := none, adopt := false }
    if p.2.adopt then s1 else drop s1
  | _, none => onStream s p.1 fun x => { x with run := none, forced := none, adopt := false }

/-- A sealed head that waited for a layer to empty has ended since the seal: it ends again, and its descriptor does not run again (R231, R282). -/
def accRestored (es : List (Bool × Option Nat)) (s : State) (c : Nat) : State :=
  let rowEnd := es.find? fun e => !e.1
  let convEnd := es.find? fun e => e.1
  let s1 := match (getCore s c).rowBusy, rowEnd with
    | true, some (_, some x) => rowFail s c (stAddrUnmapped, x)
    | true, some (_, none) => rowFinish s c
    | _, _ => s
  match (getCore s1 c).convq, (getCore s1 c).convBusy, convEnd with
  | e :: _, true, some (_, some x) => convFail s1 c e.thr e.pc (stAddrUnmapped, x)
  | _ :: _, true, some (_, none) => convPop s1 c
  | _, _, _ => s1

/-- The sealed state of a slot comes back, with its queues in the units and its stack instructions that waited at the seal (R472, R473). What the
tick has delivered so far, in all its runs, is what the replay leaves out (R148, R156); the tensor-watch counts it delivered are taken back
(R264), and the waiting threads watch their objects again (R147). The tasks that have begun since begin again after what was sealed (R474), each part
of the work under the configuration under which it first ran (R475). -/
def restoreSlot (s : State) (c : Nat) : State :=
  let n := getNode s c
  let r := n.sealed.getD { core := {}, spad := [], undef := [], streams := (natsFrom (8 * c) 8).map fun i => (i, {}), stkq := [], suppress := {} }
  let lo := c * 2 ^ 20
  let hi := (c + 1) * 2 ^ 20
  let s1 := onNode s c fun n =>
    { n with suppress := plusEff r.suppress n.eff, replayQ := n.begun, mode := 2,
             parts := (r.parts.map fun p => { p with instrs := p.instrs + n.eff.instrs, entries := p.entries + n.eff.entries,
                                                     posts := p.posts + n.eff.posted.length }) ++ [{ conf := s.cfg.active }] }
  let s2 := onMem (onCore s1 c fun _ => r.core) fun m =>
    { m with spad := putCells (m.spad.filter fun x => decide (x.1 < lo) || decide (hi ≤ x.1)) r.spad,
             undefSpad := (m.undefSpad.filter fun u => decide (u.lo < lo) || decide (hi ≤ u.lo)) ++ r.undef }
  let mine := fun (x : TeamSt) => (x.stkq.head?.map (·.1)) == some c
  let s3 := r.streams.foldl restoreStream s2
  let s4 := onTeam s3 (teamOf c) fun x =>
    { x with stkq := (x.stkq.filter fun e => e.1 != c) ++ r.stkq.map fun e => (c, e), waiting := x.waiting && !mine x, moved := x.moved && !mine x }
  let s5 := n.eff.watched.foldl watchUndo (accRestored n.eff.accEnd s4 c)
  rewatch (trimWatches (onNode s5 c fun n => { n with eff := { n.eff with watched := [] } }) c) c

/-! ### Core faults (R471, R473, R477 to R479) -/

def triggerCode : FaultTrigger → Nat
  | .check => 1 | .state => 2 | .hang => 3 | .bond => 4 | .channel => 5

/-- SPARE_SUBST (Table 18.3). -/
def substEvent (s : State) (kind cause flags a b c d : Nat) : State :=
  sendEvent s stSpareSubst 0x000C (leBytes 1 kind ++ leBytes 1 cause ++ leBytes 1 flags ++ leBytes 1 0 ++ leBytes 1 a ++ leBytes 1 b ++ leBytes 1 c ++
    leBytes 1 d ++ leBytes 8 (tickOrZero s))

/-- A physical core of a team is fenced for the power cycle, its bond losses go with it. -/
def fenceField (s : State) (t core cause : Nat) : State :=
  let s1 := ffrRecord (onRel s t fun r => { r with fenced := orBit r.fenced core }) t core cause (tickOrZero s)
  onBring s1 fun b => { b with fenced := smMod 0 b.fenced (t / 64 * 66 + physOf s t) (orBit · core) }

/-- A slot without its state starts its next task from reset state, its scratchpad undefined (R478). -/
def blankSlot (s : State) (c : Nat) : State :=
  onNode (undefSpadRange (onCore s c fun _ => {}) (c * 2 ^ 20) ((c + 1) * 2 ^ 20)) c fun _ => {}

/-- The seal banks are read: each corrected error counts, as many as there are (a free value; R472, log entry 95). -/
def readSeal (s : State) : State :=
  let d := drawFree s
  onRelSt d.1 fun r => { r with sealCeCnt := satAdd 32 r.sealCeCnt d.2 }

/-- The slot stops and its sealed state is read, if it can be. If it cannot, the tasks that run on the team now stop at the next boundary; with none of
them the slot is blank at once. -/
def stopSlot (s : State) (c : Nat) (readable : Bool) : State :=
  if readable then onNode (restoreSlot (readSeal s) c) c fun n => { n with mode := 1 }
  else
    let runs := s.tick.tasks.any fun k => k.running && k.teams.testBit (teamOf c)
    let s2 := if !runs then blankSlot s c
      else onRel (onNode s c fun n => { n with mode := 3 }) (teamOf c) fun r =>
        { r with stateLost := if r.stateLost.contains (c % 8) then r.stateLost else r.stateLost ++ [c % 8] }
    setAlert (onRelSt s2 fun r => { r with stateLostCnt := satAdd 32 r.stateLostCnt 1 })

/-- A team is to be LOST at the next boundary (R480); its entry in the field fault record names the tick of the fault (Table 18.5). -/
def loseTeam (s : State) (t cause slot : Nat) : State :=
  onRel s t fun r => if r.lost || r.lostDue.isSome then r else { r with lostDue := some (cause, slot, tickOrZero s) }

/-- A record of the side memory or the overflow partition as a free number gives it. -/
def freeRec (n : Nat) : RowRec := ⟨n % 2 ^ 32, n / 2 ^ 32 % 2 ^ 32, n / 2 ^ 64 % 2 ^ 32, n / 2 ^ 96 % 2 ^ 16, n / 2 ^ 112 % 2 ^ 16⟩
/-- Records of unspecified contents. -/
def freeRecs (d n : Nat) : List (Nat × RowRec) :=
  if n = 0 then [] else (Config.freeRecords d).foldl (fun m q => smSet emptyRec m (q.1 % n) (freeRec q.2)) []
/-- Frames of unspecified number and contents. -/
def freeFrames (d : Nat) : List Frame := (Config.freeFrames d).map fun f => if f.1 then .mark f.2.1 f.2.2.1 else .data f.2.1 f.2.2.2

/-- A fault of a team's common domain (Table 18.1): the sync objects, stream slots, activation stack and records of the team are not specified from now
on (free values), its cores stop, and the team is LOST at the next boundary (R480). -/
def teamCommon (s : State) (t cause : Nat) : State :=
  let d := s.draws
  let s1 := { s with draws := s.draws + 518 }
  let obj := fun (m : List (Nat × Nat)) i => smSet 0 m (256 * t + i) (Config.freeWord (d + i) % 2 ^ 32)
  let st := fun (m : List (Nat × StreamSlot)) i =>
    smMod {} m (64 * t + i) fun x => { x with seq := Config.freeWord (d + 256 + i) % 2 ^ 32, word := Config.freeWord (d + 320 + i) % 2 ^ 64 }
  let s2 := onTower s1 fun w => { w with sync := (List.range 256).foldl obj w.sync, streams := (List.range 64).foldl st w.streams }
  let s3 := onTeam s2 t fun x =>
    { x with used := Config.freeWord (d + 512) % 2 ^ 40, held := Config.freeWord (d + 513) % 2 ^ 40, near := Config.freeWord (d + 514) % 2 ^ 40,
             frames := freeFrames (d + 515), side := freeRecs (d + 516) 16384, ovf := freeRecs (d + 517) (recCapacity s t - 16384) }
  let s4 := (natsFrom (8 * t) 8).foldl (fun s c => onNode s c fun n => { n with mode := 3 }) s3
  settle (loseTeam s4 t cause 0xFF)

/-- Bond and lane losses of a core that is no longer in use are forgotten; those of the spare that serves its slot take its name. -/
def renameCore (s : State) (c spare : Nat) (onSpare : Bool) : State :=
  let ref := fun (b : BundleRel) => if b.ref.kind = 0 ∧ b.ref.owner = spare then { b with ref := { b.ref with owner := c } } else b
  let old := fun (b : BundleRel) => b.ref.kind == 0 && b.ref.owner == c
  onRelSt s fun r =>
    { r with bonds := ((r.bonds.filter fun p => p.1 != .core c).map fun p => if onSpare && p.1 == .core spare then (.core c, p.2) else p),
             bundles := (r.bundles.filter fun b => !old b).map fun b => if onSpare then ref b else b }

/-- Physical core that serves a slot of a team. -/
def servingCore (r : TeamRel) (slot : Nat) : Nat :=
  let own := match r.shared with | some (i, h) => if i = slot then h else slot | none => slot
  if r.onSpare = some own then 8 else own

/-- A fault of the core that serves a logical slot. A core that makes its degraded team LOST is fenced like any other failing core, and every slot
that it served stops (DEDUCED from R473, R481). -/
def coreFault (s : State) (c cause : Nat) (readable : Bool) : State :=
  let t := teamOf c
  let slot := c % 8
  let r := getRel s t
  if r.lost || r.lostDue.isSome || (getNode s c).mode == 3 then s
  else if r.degraded || r.degradeDue.isSome then
    let core := servingCore r slot
    let stopped := slotList.filter fun i => servingCore r i == core
    let s1 := loseTeam (fenceField s t core cause) t cause slot
    stopped.foldl (fun s i => onNode s (8 * t + i) fun n => { n with mode := 3 }) s1
  else if r.onSpare.isNone && !r.fenced.testBit 8 then
    let s1 := onRel (fenceField s t slot cause) t fun r => { r with onSpare := some slot, subst := satAdd 16 r.subst 1, fresh := true }
    let s2 := onRelSt (renameCore s1 c (2048 + t) true) fun r => { r with substCnt := satAdd 32 r.substCnt 1 }
    let s3 := substEvent s2 0 cause (b2n !readable) (t / 64) (t % 64) slot 8
    settle (stopSlot s3 c readable)
  else
    let core := if r.onSpare = some slot then 8 else slot
    let s1 := renameCore (fenceField s t core cause) c 0 false
    let host := hostSlot (getRel s1 t).fenced
    settle (stopSlot (onRel s1 t fun r => { r with degradeDue := some (cause, slot, host) }) c readable)

/-- A fault of a team's unused spare core (R477). -/
def spareFault (s : State) (t cause : Nat) : State :=
  let r := getRel s t
  if r.lost || r.onSpare.isSome || r.fenced.testBit 8 then s
  else substEvent (fenceField s t 8 cause) 0 cause 0 (t / 64) (t % 64) 0xFF 0xFF

/-- Physical team of a unit that no logical team uses: two units a layer, by the order of their physical teams. -/
def unusedTeam (s : State) (u : Nat) : Option Nat :=
  let layer := u / 2
  ((List.range 66).filter fun p => !((natsFrom (64 * layer) 64).any fun t => physOf s t == p && !s.bring.unmapped.contains t))[u % 2]?

/-- A fault of a core on a physical team that no logical team uses: it is fenced and recorded (R481), with no event and no replay. -/
def unusedFault (s : State) (u core cause : Nat) : State :=
  match unusedTeam s u with
  | none => s
  | some p =>
    let x := u / 2 * 66 + p
    if (smGet 0 s.bring.fenced x).testBit core then s
    else onBring (ffrEntry s (u / 2) p core cause (tickOrZero s)) fun b => { b with fenced := smMod 0 b.fenced x (orBit · core) }

/-- A fault found in TOPOLOGY_HOLD waits until READY (R464). -/
def holdFault (s : State) (h : HeldFault) : State := onRelSt s fun r => { r with heldFaults := r.heldFaults ++ [h] }

/-- A core fault by the number of Syntax: a logical core, or the spare of a team. In TOPOLOGY_HOLD it is recorded and handled after READY (R464);
before stage 8 has mapped the teams, the self-test of stage 6 finds it. -/
def anyFault (s : State) (core cause : Nat) (readable : Bool) : State :=
  if s.dev.state = 1 then holdFault s (.core core cause readable)
  else if s.dev.state ≠ 2 then s
  else if core < 2048 then coreFault s core cause readable
  else if core < 2304 then spareFault s (core - 2048) cause
  else if core < 2376 then unusedFault s ((core - 2304) / 9) ((core - 2304) % 9) cause
  else s

/-- CORE_FAULT. -/
def execCoreFault (core : BitVec 12) (trigger : FaultTrigger) (sealReadable : Bool) (s : State) : Out :=
  .next (anyFault s core.toNat (triggerCode trigger) sealReadable)

/-- CORE_HANG: a READY thread that has not issued for 65,536 ck (trigger 3). -/
def execCoreHang (core : BitVec 11) (s : State) : Out :=
  let hung := slotServed s core.toNat && (getCore s core.toNat).threads.any fun th => th.2.st == .ready && decide (th.2.since + 131072 ≤ s.now)
  .next (if hung then anyFault s core.toNat 3 true else s)

/-- RESTORE_DONE: the slot replays; in a team about to be degraded it waits for its host core until the boundary (R474, R479). -/
def execRestoreDone (core : BitVec 11) (s : State) : Out :=
  let c := core.toNat
  let n := getNode s c
  if n.mode ≠ 1 then .next s
  else
    let m := if (getRel s (teamOf c)).degradeDue.isSome then 4 else if caughtUp n.suppress then 0 else 2
    .next (settle (onNode s c fun n => { n with mode := m }))

/-- A slot whose core has nothing left to run: a task that has ended in the failed tick leaves it once more, the next one of the tick begins again, and
with none left the replay is over (R474). -/
def resumeSlot (s : State) (c : Nat) : State :=
  let n := getNode s c
  let k0 := getCore s c
  let live := s.tick.tasks.any fun k => k.running && runsTask s k.sid c
  let idle := k0.threads.all (fun th => th.2.st == .ended) && (natsFrom (8 * c) 8).all fun i => (getStream s i).run.isNone
  if (n.mode ≠ 2 ∧ n.mode ≠ 0) ∨ !idle ∨ (n.mode = 0 ∧ n.replayQ.isEmpty ∧ (k0.prog.isNone ∨ live)) then s
  else
    let s1 := if k0.prog.isSome && !live then leaveCore s c else s
    match n.replayQ with
    | b :: rest => startSlot b.task b.prog b.handle (onNode s1 c fun n => { n with replayQ := rest }) c
    | [] => replayOver s1 c
def resumeSlots (s : State) : State :=
  (s.tower.slots.filter fun p => p.2.mode == 2 || p.2.mode == 0).foldl (fun s p => resumeSlot s p.1) s

/-- The node of a physical team that no logical team uses fails: the team is recorded as LOST, with no event, since Table 18.4 names logical teams
(DESIGN CHOICE, log entry 175). -/
def unusedNode (s : State) (u cause : Nat) : State :=
  match unusedTeam s u with
  | none => s
  | some p =>
    onBring (ffrEntry s (u / 2) p 0xFF cause (tickOrZero s)) fun b => { b with fenced := smMod 0 b.fenced (u / 2 * 66 + p) fun _ => 0x1FF }

/-- A team-common fault, held in TOPOLOGY_HOLD (R464): of a logical team, or from number 256 on of a team that no logical team uses. -/
def commonFault (s : State) (t cause : Nat) : State :=
  if s.dev.state = 1 then holdFault s (.common t cause)
  else if s.dev.state ≠ 2 ∨ teamLost s t then s
  else if t < 256 then teamCommon s t cause
  else unusedNode s (t - 256) cause

/-- TEAM_COMMON_FAULT (R480): what the team node holds is not specified from now on (free values). -/
def execTeamCommonFault (team : BitVec 8) (s : State) : Out := .next (commonFault s team.toNat 6)

/-! ### Bond lanes (R483, R485, R486) -/

def findBundle (s : State) (b : BundleRef) : BundleRel := (s.rel.bundles.find? fun x => x.ref == b).getD { ref := b }
def putBundle (s : State) (x : BundleRel) : State :=
  let put := fun (y : BundleRel) => if y.ref == x.ref then x else y
  onRelSt s fun r => { r with bundles := if r.bundles.any (fun y => y.ref == x.ref) then r.bundles.map put else r.bundles ++ [x] }
/-- Layer of a bundle's owner: 4 for one that no team owns. The physical teams that no logical team uses, two a layer, and their cores have the numbers
from 256 and from 2,304 on (log entry 91). -/
def bundleLayer (b : BundleRef) : Nat :=
  if b.kind = 0 then (if b.owner < 2048 then b.owner / 512 else if b.owner < 2304 then (b.owner - 2048) / 64 else (b.owner - 2304) / 18)
  else if b.kind = 1 then (if b.owner < 256 then b.owner / 64 else (b.owner - 256) / 2)
  else 4
/-- Logical team of a bundle's owner within its layer: 0xFF where there is none (Table 18.6). -/
def bundleTeam (b : BundleRef) : Nat :=
  if b.kind = 0 then (if b.owner < 2048 then b.owner / 8 % 64 else if b.owner < 2304 then (b.owner - 2048) % 64 else 0xFF)
  else if b.kind = 1 ∧ b.owner < 256 then b.owner % 64
  else 0xFF
/-- Spare lanes left. -/
def sparesLeft (x : BundleRel) : Nat := 4 - x.failed.length - x.swapped.length

/-- BUNDLE_HALF (Table 18.6). -/
def halfEvent (s : State) (x : BundleRel) : State :=
  let b := x.ref
  sendEvent s stBundleHalf 0x000E (leBytes 1 b.iface ++ leBytes 1 b.kind ++ leBytes 1 (if 2 ≤ b.kind then 0xFF else bundleLayer b) ++
    leBytes 1 (bundleTeam b) ++ leBytes 1 (if b.kind = 0 ∧ b.owner < 2048 then b.owner % 8 else 0xFF) ++
    leBytes 1 (132 - x.failed.length) ++ leBytes 2 b.bundle ++ leBytes 8 (tickOrZero s))

/-- A bundle with fewer than 64 healthy lanes is lost (R486). -/
def loseBundle (s : State) (b : BundleRef) : State :=
  if b.kind = 0 then anyFault s b.owner 5 true
  else if b.kind = 1 then commonFault s b.owner 7
  else if s.dev.state = 1 then holdFault s .unowned
  else setAlert s

/-- Is a lane replaced by a spare at the next boundary if it is marked now? -/
def laneSwaps (s : State) (b : BundleRef) (lane : Nat) : Bool :=
  let x := findBundle s b
  !x.failed.contains lane && !x.swapped.contains lane && !(x.due.any fun d => d.1 == lane) && decide (x.due.length < sparesLeft x)

/-- Mark a lane to be replaced at the next boundary; a marginal one needs a spare. -/
def markLane (s : State) (b : BundleRef) (lane : Nat) (fail : Bool) : State :=
  let x := findBundle s b
  if x.failed.contains lane ∨ x.due.any (fun d => d.1 == lane && (d.2 || !fail)) ∨ (!fail ∧ (x.swapped.contains lane ∨ sparesLeft x ≤ x.due.length)) then s
  else
    let y := { x with due := (x.due.filter fun d => d.1 != lane) ++ [(lane, fail)] }
    let s1 := putBundle s y
    if 132 < x.failed.length + (y.due.filter (·.2)).length + 64 then loseBundle s1 b else s1

/-- Do some 4 of a lane's retries lie within 1 ms (R483)? Their times rise. -/
def retriesFail : List Nat → Bool
  | a :: ts => (match ts[2]? with | some d => decide (d ≤ a + msUnits) | none => false) || retriesFail ts
  | [] => false

/-- LANE_FAIL: a lane has caused retries; 4 of them within 1 ms fail it. -/
def execLaneFail (b : BundleRef) (lane : LaneRetries) (s : State) : Out :=
  .next (if lane.lane < 132 ∧ 1 ≤ b.iface ∧ b.iface ≤ 8 ∧ b.kind ≤ 2 ∧ s.dev.state ≠ 0 ∧ retriesFail lane.at_ = true then markLane s b lane.lane true else s)

/-- One lane is replaced at a boundary, or drops its bundle to half width. -/
def applyLane (b : BundleRef) (s : State) (d : Nat × Bool) : State :=
  let x := findBundle s b
  let rest := x.due.filter fun e => e.1 != d.1
  let y := { x with due := rest, swapped := x.swapped.filter (· != d.1) }
  if 0 < sparesLeft y then
    (if d.2 then onRelSt (putBundle s { y with failed := y.failed ++ [d.1] }) fun r => { r with failCnt := satAdd 32 r.failCnt 1 }
     else onRelSt (putBundle s { y with swapped := y.swapped ++ [d.1] }) fun r => { r with swapCnt := satAdd 32 r.swapCnt 1 })
  else if !d.2 then putBundle s y
  else
    let z := { y with failed := y.failed ++ [d.1], half := true }
    let s1 := putBundle s z
    if y.half then s1 else onRelSt (halfEvent s1 z) fun r => { r with halfCnt := satAdd 32 r.halfCnt 1 }
/-- Lane changes due at a boundary. -/
def applyLanes (s : State) : State := s.rel.bundles.foldl (fun s x => x.due.foldl (applyLane x.ref) s) s

/-! ### Clock triples (R487) -/

def validTriple : TripleRef → Bool
  | .core c => decide (c < 2376)
  | .node t i => decide (t < 264) && decide (i < 3)

/-- CLOCK_BOND_LOSS. -/
def execClockBondLoss (t : TripleRef) (s : State) : Out :=
  let n := ((s.rel.bonds.find? fun p => p.1 == t).map (·.2)).getD 0
  if !validTriple t ∨ 2 ≤ n ∨ s.dev.state = 0 then .next s
  else
    let s1 := onRelSt s fun r => { r with bonds := (r.bonds.filter fun p => p.1 != t) ++ [(t, n + 1)] }
    if n = 0 then .next (onRelSt s1 fun r => { r with clkOneCnt := satAdd 32 r.clkOneCnt 1 })
    else
      match t with
      | .core c => .next (anyFault s1 c 4 true)
      | .node k _ => .next (commonFault s1 k 6)

/-! ### The farrier engine (R484, R488) -/

/-- DIAG_SCAN's final payload. -/
def scanPayload (s : State) (r : ScanRun) : List Byte :=
  let half := (s.rel.bundles.filter fun b => b.half && bundleLayer b.ref == r.layer).length
  leBytes 4 r.lanes ++ leBytes 4 r.marginal ++ leBytes 4 r.swapped ++ leBytes 1 r.minMargin ++ leBytes 1 (min 255 half) ++ leBytes 2 0

/-- Is every slot of a scan taken: 70 for each physical team (R484)? -/
def scanDone (r : ScanRun) : Bool := (List.range 66).all fun p => decide (70 ≤ smGet 0 r.slots p)

/-- A scan that has ended answers every DIAG_SCAN of its layer. -/
def scanEnd (s : State) (r : ScanRun) : State :=
  let s1 := onRelSt s fun x => { x with scans := x.scans.filter fun y => y.layer != r.layer }
  (s.mp.slots.filter fun x => match x.work with | .scan l _ => l == r.layer | _ => false).foldl
    (fun s x => finalReply s x.sid stOk 0 (scanPayload s r)) s1

/-- The logical team on a physical team of a compute layer, if any. -/
def logicalOf (s : State) (layer phys : Nat) : Option Nat := (natsFrom (64 * layer) 64).find? fun t => physOf s t == phys && !teamLost s t

/-- Does a team still replay or run a task in its margin? Both go before a scan (R42). -/
def marginBusy (s : State) (t : Nat) : Bool := teamReplaying s t || s.tick.tasks.any fun k => k.running && k.teams.testBit t

/-- Is a slot of the background scan due: each physical team's 70 slots are spread evenly over 24 h (R484)? `x` numbers the team, or 264 + the team for
bundles that no team owns. -/
def backgroundDue (s : State) (x : Nat) : Bool :=
  decide (smGet 0 s.rel.bgSlots x * (24 * 3600 * secUnits) ≤ 70 * (s.now - s.tick.readyAt))

/-- FARRIER_SCAN_SLOT: one slot of a physical team's margin, at most one per tick, once its replays and tasks are done; ballast gives way (R42). A
DIAG_SCAN of the layer takes it, else the background scan if one is due. A lane below 16/64 UI is marginal and one below 8/64 UI has failed (R483, R484);
a scan without SWAP only measures (R488). -/
def execFarrierScanSlot (f : ScanFinding) (s : State) : Out :=
  let layer := if f.layer = 4 then 0 else f.layer
  let x := layer * 66 + f.phys
  let bg := if f.layer = 4 then 264 + f.phys else x
  let team := logicalOf s layer f.phys
  let scan := s.rel.scans.find? fun r => r.layer == f.layer && decide (smGet 0 r.slots f.phys < 70)
  if 4 < f.layer ∨ 65 < f.phys ∨ !s.tick.running ∨ !s.tick.inMargin ∨ s.rel.scanned.contains x ∨ team.any (marginBusy s) ∨
      (scan.isNone ∧ !backgroundDue s bg) then .next s
  else
    let s0 := match team with
      | some t => settle (onAcc (onTeam s t fun y => { y with ballast := false }) fun a => { a with scanning := a.scanning ||| 2 ^ t })
      | none => s
    let s1 := onRelSt s0 fun r => { r with scanned := r.scanned ++ [x] }
    let seen := f.lanes.filter fun l => !(findBundle s1 l.ref).failed.contains l.lane
    let weak := seen.filter fun l => decide (l.margin < 16)
    let apply := fun (q : State × Nat) (l : LaneMargin) =>
      (markLane q.1 l.ref l.lane (decide (l.margin < 8)), q.2 + b2n (laneSwaps q.1 l.ref l.lane))
    match scan with
    | none => .next (onRelSt (weak.foldl apply (s1, 0)).1 fun r => { r with bgSlots := smInc r.bgSlots bg })
    | some r =>
      let q := if r.swap then weak.foldl apply (s1, 0) else (s1, 0)
      let r1 := { r with slots := smInc r.slots f.phys, lanes := r.lanes + seen.length, marginal := r.marginal + weak.length,
                         swapped := r.swapped + q.2, minMargin := seen.foldl (fun m l => min m (min 255 l.margin)) r.minMargin }
      let s4 := onRelSt q.1 fun y => { y with scans := y.scans.map fun z => if z.layer = r.layer then r1 else z }
      .next (if scanDone r1 then scanEnd s4 r1 else s4)

/-! ### What a boundary applies (R478 to R480) -/

/-- TEAM_DEGRADED (Table 18.4). -/
def degradedEvent (s : State) (t state cause slot host cancelled : Nat) : State :=
  sendEvent s stTeamDegraded 0x000D (leBytes 1 (t / 64) ++ leBytes 1 (t % 64) ++ leBytes 1 state ++ leBytes 1 cause ++ leBytes 1 slot ++ leBytes 1 host ++
    leBytes 1 (min 255 cancelled) ++ leBytes 1 0 ++ leBytes 8 (tickOrZero s))

/-- Stop tasks, and count them. -/
def stopSome (s : State) (p : Task → Bool) : State × Nat :=
  let ks := s.tick.tasks.filter p
  (ks.foldl stopTask s, ks.length)

/-- Slots of a team whose sealed state was lost: their tasks stop, and they start again from reset state (R478). -/
def applyStateLost (s : State) (t : Nat) : State :=
  let ls := (getRel s t).stateLost
  if ls.isEmpty then s
  else
    let s1 := (stopSome s fun k => k.running && k.teams.testBit t).1
    let s2 := ls.foldl (fun s i => blankSlot s (8 * t + i)) s1
    onRel s2 t fun r => { r with stateLost := [] }

/-- A team becomes TEAM_DEGRADED (R479). -/
def applyDegrade (s : State) (t : Nat) : State :=
  match (getRel s t).degradeDue with
  | none => s
  | some (cause, slot, host) =>
    let s1 := onRel s t fun r => { r with degradeDue := none, degraded := true, shared := some (slot, host), onSpare := if r.onSpare = some slot then none else r.onSpare }
    let s2 := onNode s1 (8 * t + slot) fun n => { n with mode := if n.mode = 4 then (if caughtUp n.suppress then 0 else 2) else n.mode }
    let r := stopSome s2 fun k => k.admitted && k.teams.testBit t && decide (512 < k.threads)
    onRelSt (degradedEvent r.1 t 1 cause slot host r.2) fun x => { x with degradeCnt := satAdd 32 x.degradeCnt 1 }

/-- A team becomes LOST (R480); step 3 of the same boundary quarantines it. -/
def applyLost (s : State) (t : Nat) : State :=
  match (getRel s t).lostDue with
  | none => s
  | some (cause, slot, tick) =>
    let s1 := onRel s t fun r => { r with lostDue := none, degradeDue := none, stateLost := [], lost := true }
    let r := stopSome s1 fun k => k.teams.testBit t
    let s2 := degradedEvent r.1 t 2 cause slot 0xFF r.2
    setAlert (onRelSt (ffrRecord s2 t 0xFF cause tick) fun x => { x with lostCnt := satAdd 32 x.lostCnt 1 })

/-- Reliability's changes at a boundary. -/
def relBoundary (s : State) : State :=
  let s1 := onRelSt s fun r => { r with scanned := [] }
  let ts := s1.rel.teams.map (·.1)
  let s2 := ts.foldl (fun s t => applyStateLost (applyDegrade (applyLost (onRel s t fun r => { r with fresh := false }) t) t) t) s1
  startTasks (applyLanes s2)

/-! ### DIAG_TEAMS (R490, Table 18.7) -/

/-- Record of a logical team. A substitution shows from the boundary after it (R477). -/
def teamRecord (s : State) (t : Nat) : List Byte :=
  let r := getRel s t
  let un := s.bring.unmapped.contains t
  let spare := if r.fresh then none else r.onSpare
  let fenced := match r.fresh, r.onSpare with
    | true, some i => r.fenced - 2 ^ i
    | _, _ => r.fenced
  let st := if un || r.lost then 3 else if r.degraded then 2 else if spare.isSome || fenced.testBit 8 then 1 else 0
  leBytes 1 (if un then 0xFF else physOf s t) ++ leBytes 1 st ++ leBytes 1 (spare.getD 0xFF) ++ leBytes 1 ((r.shared.map (·.1)).getD 0xFF) ++
    leBytes 2 fenced ++ leBytes 2 r.subst

/-- DIAG_TEAMS payload. -/
def teamsPayload (s : State) : List Byte :=
  let ts := List.range 256
  let lost := (ts.filter fun t => teamLost s t || s.bring.unmapped.contains t).length
  let deg := (ts.filter fun t => teamDegraded s t && !teamLost s t).length
  leBytes 2 (256 - lost - deg) ++ leBytes 2 deg ++ leBytes 2 lost ++ leBytes 2 (fencedCount s) ++ leBytes 8 (tickOrZero s) ++ ts.flatMap (teamRecord s)

end Sys2Proof.Machine
end

