-- ==== Sys2Proof/Machine/MemRows.lean ====
section
/-! DEFINITION. Memory's own events: the end of a partition change (R282), scrubbing (R305, R306), and the loss of stacks, harness modules and
hubs (R310, R489). -/

namespace Sys2Proof.Machine

/-- The row and conversion work whose accumulate requests a layer has released goes on (R226, R259, R282). -/
def accSettle (fs : List (TaddReq × Nat)) (s : State) : State :=
  (s.tower.cores.map (·.1)).foldl (fun s c => convReleased fs (rowReleased fs s c) c) s

/-- PARTITION_FLUSH_DONE. -/
def execPartitionFlushDone (layer : BitVec 2) (s : State) : Out :=
  if (layerGet s.mem layer.toNat).emptying then let r := layerResume s layer.toNat; .next (accSettle r.2 r.1) else .next s

/-- Parity that group `j` of hub `k` should hold at an offset. -/
def parityByte (s : State) (k j off : Nat) : Byte :=
  (natsFrom (j * parD s) (parD s)).foldl (fun x g => x ^^^ devByte s (k * hubWindow s + g * 2048 + off)) 0

/-- Check the parity of the group of an address, and correct it toward the data (R306). -/
def scrubParity (s : State) (a : Nat) : State :=
  let g := granuleOf s a
  let j := g.2 / parD s
  let base := g.1 * hubWindow s + parIdx s j * 2048
  let sound := (natsFrom (j * parD s) (parD s)).all fun i => !stackLost s (g.1 * hubWindow s + i * 2048)
  if protGran s g.1 ≤ g.2 ∨ !groupParOk s g.1 j ∨ !sound ∨ stackLost s base then s
  else
    let want := (List.range 2048).map (parityByte s g.1 j)
    if want = cellBytes s.mem.dev base 2048 then s
    else onMem s fun m => { m with dev := putCells m.dev (cellsFrom base want),
                                   cnt := { m.cnt with parMismatch := satAdd 32 m.cnt.parMismatch 1 } }

/-- An uncorrectable 64-byte unit is found: it is rebuilt from parity where it can be, else it stays unreadable (R305). -/
def scrubBad (s : State) (a : Nat) : State :=
  let s1 := onMem s fun m => { m with bad := if m.bad.contains (a / 64) then m.bad else m.bad ++ [a / 64] }
  (hubRead s1 (a / 64 * 64) 64).1

/-- An uncorrectable code word of near memory is found, in whatever partition it lies (R282, R305, R306). -/
def scrubNear (s : State) (a : Nat) : State :=
  (nmUeAt (α := Unit) (onMem s fun m => { m with badNm := if m.badNm.contains (a / 32) then m.badNm else m.badNm ++ [a / 32] }) a).1

/-- STACK_SCRUB: a corrected error (kind 0), an uncorrectable one (kind 1), or the check of a parity group (any other kind), at an address of a stack,
or at an address within a near-memory layer, whatever partition it lies in; near memory has no parity. -/
def execStackScrub (f : ScrubFinding) (s : State) : Out :=
  match regionOf s f.addr with
  | some (.stack _) =>
    if stackLost s f.addr then .next s
    else if f.kind = 0 then .next (onMemCnt s fun c => { c with stkCe := satAdd 32 c.stkCe 1 })
    else if f.kind = 1 then .next (scrubBad s f.addr)
    else .next (scrubParity s f.addr)
  | _ =>
    if nearBase ≤ f.addr ∧ f.addr < nearBase + 4 * layerLen then
      (if f.kind = 0 then .next (onMemCnt s fun c => { c with nmCe := satAdd 32 c.nmCe 1 })
       else if f.kind = 1 then .next (scrubNear s f.addr)
       else .next s)
    else .next s

/-- A stack stops responding in the field; what it held is gone (R310). -/
def stackLoss (s : State) (stack : Nat) : State :=
  if !(presentStacks s).contains stack ∨ s.mem.lost.contains stack ∨ !hubFitted s (stack / stacksPerHub s) then s
  else
    let here := fun (a : Nat) => decide (a < stackEnd s) && stackOf s a == stack
    let s1 := onMem s fun m =>
      { m with lost := insNat stack m.lost, dev := m.dev.filter fun c => !here c.1, bad := m.bad.filter fun u => !here (u * 64) }
    substEvent (recutStacks s1) 1 1 0 stack 0 0 0

/-- First healthy module after `i` of a hub, wrapping, that carries the same stack. -/
def partnerModule (s : State) (hub i : Nat) : Option Nat :=
  let m := modulesPerHub s
  ((List.range m).map fun k => (i + 1 + k) % m).find? fun j => j % stacksPerHub s == i % stacksPerHub s && j != i && !s.rel.modules.contains (hub, j)

/-- Harness credits of a module, to the hub and to the tower (R28). A transfer takes and returns its credits within the command that makes it, so between
commands a module has all of its credits, and one that is lost has none: they retire with it (R489, log entry 149). -/
def harnessCredits (s : State) (hub module : Nat) : Nat × Nat :=
  ((s.rel.credits.find? fun x => x.1 == (hub, module)).map (·.2)).getD (Config.harnessCredits, Config.harnessCredits)

/-- A harness module fails (R489): its credits retire with it. -/
def moduleLoss (s : State) (hub module : Nat) : State :=
  if !hubFitted s hub ∨ modulesPerHub s ≤ module ∨ s.rel.modules.contains (hub, module) then s
  else
    let s1 := onRelSt s fun r => { r with modules := r.modules ++ [(hub, module)], credits := r.credits ++ [((hub, module), 0, 0)], moduleCnt := satAdd 32 r.moduleCnt 1 }
    substEvent (recutStacks s1) 2 1 0 hub module ((partnerModule s1 hub module).getD 0xFF) 0

/-- A hub is lost: it counts as not fitted; its ports go DOWN, its updates and copy-backs never finish (R489). -/
def hubLoss (s : State) (hub : Nat) : State :=
  if !hubFitted s hub then s
  else
    let ports := (List.range 16).filter (portMapped s hub)
    let s1 := ports.foldl (fun s p => if (getPort s (portNo hub p)).state = 0 then s else setLink s hub p 0 1) s
    let gone := fun (c : CopyBack) => match findTensor s c.tensor with | some t => t.hub == hub | none => false
    let s2 := onStep (onDev s1 fun d => { d with hubsLost := insNat hub d.hubsLost }) fun x =>
      { x with copyBacks := x.copyBacks.filter fun c => !gone c }
    flushAll (setAlert s2)

/-- A fault of a stack, a module or a hub in the field: before stage 8 has ended the stages find it, and in TOPOLOGY_HOLD it waits until READY (R464). -/
def fieldLoss (s : State) (h : HeldFault) (now : State) : State :=
  if s.dev.state = 0 then s else if s.dev.state = 1 then holdFault s h else now

/-- STACK_LOST, MODULE_LOST and HUB_LOST. -/
def execStackLost (stack : Nat) (s : State) : Out := .next (fieldLoss s (.stack stack) (stackLoss s stack))
def execModuleLost (hub module : Nat) (s : State) : Out := .next (fieldLoss s (.module hub module) (moduleLoss s hub module))
def execHubLost (hub : Nat) (s : State) : Out := .next (fieldLoss s (.hub hub) (hubLoss s hub))

/-- A fault that was found in TOPOLOGY_HOLD is handled (R464). -/
def heldFault (s : State) : HeldFault → State
  | .core c cause readable => anyFault s c cause readable
  | .stack n => stackLoss s n
  | .module k m => moduleLoss s k m
  | .hub k => hubLoss s k
  | .common t cause => commonFault s t cause
  | .unowned => setAlert s
/-- Faults that were found in TOPOLOGY_HOLD, after READY, in their order (R464). -/
def applyHeld (s : State) : State := s.rel.heldFaults.foldl heldFault (onRelSt s fun r => { r with heldFaults := [] })

end Sys2Proof.Machine
end

