-- ==== Sys2Proof/Machine/Fence.lean ====
section
/-! DEFINITION. The final replies of STEP_FENCE (R116, R317, R366, R367), and the TENSOR_DROPs that complete with them (R115). -/

namespace Sys2Proof.Machine

/-- Epochs as EPOCH_QUERY reports them (R316). -/
def epochBytes (s : State) : List Byte := leBytes 8 s.step.epochCur ++ leBytes 8 (s.step.epochPrev.getD (2 ^ 64 - 1))

/-- Has a gathered tensor no trained row, and so no update (R378)? -/
def noTrained (x : PackStep) (t : Tensor) : Bool :=
  match x.tensors.find? fun y => y.tensor == t.id with
  | some y => (trainedRows y t).isEmpty && (!tMasked t || y.bitmap.isSome)
  | none => false

/-! ### TENSOR_DROP (R115) -/

/-- Take a tensor out of the machine: its descriptor, its place in a pack, its copy-back and updates, and a WEIGHT tensor's run-table entries (R278). An
update that runs ends, with its NaN report (R269). -/
def removeTensor (s0 : State) (id : Nat) : State :=
  let s := match packOf s0 id with | some p => reportEnds s0 p id | none => s0
  let step := fun (x : PackStep) =>
    { x with tensors := x.tensors.filter fun y => y.tensor != id, updates := x.updates.filter fun u => u.tensor != id }
  let pack := fun (p : Pack) => { p with tensors := p.tensors.filter (· != id), steps := p.steps.map step }
  let s1 := onStep s fun u =>
    { u with tensors := u.tensors.filter fun t => t.id != id, copyBacks := u.copyBacks.filter fun c => c.tensor != id, packs := u.packs.map pack }
  if (findTensor s id).any isWeight then onWatch s1 fun w => { w with runs := w.runs.filter fun r => r.tensor != id } else s1

/-- The TENSOR_DROPs that wait complete with a fence, and have their final replies. -/
def completeDrops (s : State) : State :=
  let ids := (s.step.tensors.filter fun t => t.dropping.isSome).map (·.id)
  if ids.isEmpty then s
  else
    let s1 := protUpdate (ids.foldl removeTensor s)
    let due := fun (x : Slot) => match x.work with | .tensorDrop id => ids.contains id | _ => false
    (s1.mp.slots.filter due).foldl (fun s x => finalReply s x.sid stOk 0 []) s1

/-! ### Fences -/

/-- The final reply of a pack's fence for a decided step. -/
def fenceReply (s : State) (p : Pack) (n : Nat) : State :=
  match findPS p n with
  | none => s
  | some x =>
    match x.fence, x.decision with
    | some sid, some d =>
      let s1 := finalReply s sid d.2.2.1 d.2.2.2 (epochBytes s ++ leBytes 1 d.2.1 ++ zeroBytes 7)
      fenceCloses (onPS s1 p.id n fun y => { y with fence := none }) sid n (if d.1 then 1 else 2)
    | _, _ => s

/-- Every fence of a step has its final reply. -/
def fencesDone (s : State) (n : Nat) : State := completeDrops (s.step.packs.foldl (fun s p => fenceReply s p n) s)

/-- Has every pack of the device decided the step, and has one of them committed (R317)? -/
def allDecided (s : State) (n : Nat) : Bool :=
  s.step.packs.all fun p => match findPS p n with | some x => x.decision.isSome | none => false
def anyCommit (s : State) (n : Nat) : Bool :=
  s.step.packs.any fun p => match (findPS p n).bind (·.decision) with | some d => d.1 | none => false

/-- Steps whose fences wait for what follows the decision. -/
def fencedSteps (s : State) : List Nat :=
  (s.step.packs.flatMap fun p => (p.steps.filter fun x => x.fence.isSome && x.decision.isSome).map (·.step)).eraseDups

/-- A step that every pack has skipped: its fences have their replies at the decision, with the epochs unchanged (R317). -/
def skipReplies (s : State) : State :=
  ((fencedSteps s).filter fun n => allDecided s n && !anyCommit s n).foldl fencesDone s

end Sys2Proof.Machine
end

