-- ==== Sys2Proof/Machine/Pack.lean ====
section
/-! DEFINITION. PSEND and PFENCE: issue, the checks of Table 13.3, and the sending of contribution rows (R346 to R351). -/

namespace Sys2Proof.Machine

/-! ### Issue (Table 13.1) -/

def inPackq (s : State) (c t : Nat) : Bool := (getCore s c).packq.any fun e => e.thr == t

/-- PSEND: enters the slot's 8 entries. -/
def execPsend (r : PArgs) (s : State) : Out :=
  let c := r.core.toNat
  let t := r.thr.toNat
  issueRaw c t r.rsv.toNat s fun th =>
    if 8 ≤ (getCore s c).packq.length then blockThread s c t (.room .pack)
    else nextPc (onCore s c fun k => { k with packq := k.packq ++ [{ thr := t, pc := th.pc, op := gReg th r.g.toNat }] }) c t

/-- PFENCE. -/
def execPfence (r : PArgs) (s : State) : Out :=
  let c := r.core.toNat
  let t := r.thr.toNat
  issueRaw c t (r.g.toNat + r.rsv.toNat) s fun _ => issueFence c t s .pack (inPackq s c t)

/-! ### The descriptor (Table 13.2) -/

structure PsendDesc where
  src : Nat
  step : Nat
  scale : Nat
  tensor : Nat
  row0 : Nat
  nrows : Nat
  ld : Nat
  fmt : Nat
  log2 : Nat
  flags : Nat
  rsvZero : Bool
deriving DecidableEq, Repr

def psendDesc (b : List Byte) : PsendDesc :=
  ⟨getLe b 0 8, getLe b 8 8, getLe b 16 8, getLe b 24 4, getLe b 28 4, getLe b 32 4, getLe b 36 4, getB b 40, getB b 41, getB b 42,
   allZero (b.drop 43)⟩

/-- Field ranges that no tensor decides. -/
def psendDescOk (d : PsendDesc) : Bool :=
  decide (1 ≤ d.nrows ∧ d.nrows ≤ 2 ^ 24) && decide (d.ld % 64 = 0) && decide (11 ≤ d.fmt ∧ d.fmt ≤ 13) &&
  decide (4 ≤ d.log2 ∧ d.log2 ≤ 7) && decide (d.flags < 2) && d.rsvZero

/-- T of a tensor-scale word: the word is 2^T with T from −126 to 127 (Table 13.3). -/
def scaleExp (w : Nat) : Option Int :=
  if w % 2 ^ 23 = 0 ∧ w < f32.infBits ∧ w ≠ 0 then some ((w / 2 ^ 23 : Nat) - 127) else none

/-- Stored row `i` of a PSEND; the row's pool reaches to LD (R348). -/
def psendRow (d : PsendDesc) (i : Nat) : URange := ⟨bit d.flags 0, d.src + i * d.ld, d.ld⟩

/-- The whole range of the source, for the usual checks. -/
def psendRange (d : PsendDesc) : URange := ⟨bit d.flags 0, d.src, d.nrows * d.ld⟩

def psendFaultAddr (n : Nat) : Nat := 0xF900000000000000 + n

/-- What a PSEND that passes its checks sends: tensor, pack, T. -/
structure PsendJob where
  desc : PsendDesc
  t : Tensor
  p : Pack
  T : Int
deriving DecidableEq, Repr

/-- The checks of Table 13.3, in its order; the ranges of the scale word and of the source come where the word and the rows are read. -/
def psendCheck (s : State) (c off : Nat) : State × Except (Nat × Nat) PsendJob :=
  let d := psendDesc (spadRead s c off 64)
  let bad := fun (n : Nat) => (s, Except.error (stAddrUnmapped, psendFaultAddr n))
  if !(decide (off % 32 = 0 ∧ off + 64 ≤ scratchLen s c) && psendDescOk d) then (s, .error (stAddrUnmapped, spadFault off))
  else
    match findTensor s d.tensor with
    | none => bad 1
    | some t =>
      if !isWeight t then bad 1
      else if d.ld < rowBytes d.fmt d.log2 t.cols 0 then (s, .error (stAddrUnmapped, spadFault off))
      else
        match packOf s d.tensor with
        | none => bad 2
        | some p =>
          let x := getTS s p.id d.step d.tensor
          if !stepAcceptable p d.step then bad 3
          else if t.rows < d.row0 + d.nrows then bad 4
          else if (natsFrom d.row0 d.nrows).any fun r => x.sentRows.contains r then bad 5
          else
            match devAccessFault s false d.scale 4 with
            | some f => (s, .error f)
            | none =>
              match coreRead s c d.scale 4 with
              | (s1, .error e) => (s1, .error (stAddrUnmapped, e))
              | (s1, .ok w) =>
                match scaleExp (leNat w) with
                | none => (s1, .error (stAddrUnmapped, psendFaultAddr 6))
                | some T =>
                  if (match tsOf x p.me with | some v => decide (v ≠ T) | none => false) then
                    (s1, .error (stAddrUnmapped, psendFaultAddr 6))
                  else
                    match rangesFault s1 false [psendRange d] with
                    | some f => (s1, .error f)
                    | none =>
                      if rangesSpadOk s1 c [psendRange d] then (s1, .ok ⟨d, t, p, T⟩)
                      else (s1, .error (stAddrUnmapped, spadFault (max d.src (scratchLen s c))))

/-! ### Contribution segments (R419, R420, Table 15.7a) -/

/-- One block as it is sent: header, code area, side entries, padded to 4 bytes; a block whose side list reaches beyond its row is sent
malformed (R348, R243). -/
def contribBlock (fmt log2 : Nat) (row : List Byte) (i : Nat) : List Byte :=
  let off := i * recBytes fmt log2
  let h := zbHdr (getLe row off 4)
  let ew := if fmt = 11 then 4 else 2
  let s0 := off + 4 * h.side
  let area := (row.drop (off + 4)).take (recBytes fmt log2 - 4)
  if h.count ≠ 0 ∧ row.length < s0 + ew * h.count then beBytes 4 (zbHdrWord { h with tag := 3, count := 0 }) ++ area
  else
    let sides := (List.range h.count).flatMap fun n => beBytes ew (getLe row (s0 + ew * n) ew)
    beBytes 4 (getLe row off 4) ++ area ++ sides ++ zeroBytes (roundUp sides.length 4 - sides.length)

/-- Gather blocks into segments of at most 8,944 bytes of blocks: first block, number and bytes of each. -/
def segments (blk : Nat → List Byte) : Nat → Nat → Nat → Nat → List Byte → List (Nat × Nat × List Byte)
  | 0, _, first, n, acc => [(first, n, acc)]
  | k + 1, i, first, n, acc =>
    let b := blk i
    if n ≠ 0 ∧ 8944 < acc.length + b.length then (first, n, acc) :: segments blk k (i + 1) i 1 b
    else segments blk k (i + 1) first (n + 1) (acc ++ b)

/-- Send one stored row to its owner. -/
def sendRow (s : State) (j : PsendJob) (row : Nat) (bs : List Byte) : State :=
  let nb := ceilDiv j.t.cols (blockSize j.desc.log2)
  (segments (contribBlock j.desc.fmt j.desc.log2 bs) nb 0 0 0 []).foldl (fun s g =>
    sendUni s j.p j.t.hub (ownerOf j.t.rows j.p.n row) 1 j.desc.step j.t.id
      (beBytes 1 j.desc.fmt ++ beBytes 1 j.desc.log2 ++ beBytes 1 (wrapN 8 j.T) ++ beBytes 1 0 ++ beBytes 4 row ++ beBytes 4 g.1 ++
        beBytes 2 g.2.1 ++ beBytes 2 (b2n (g.1 + g.2.1 == nb)) ++ g.2.2)) s

/-- The first PSEND of a tensor and step takes this device's T and sends it to every other owner (R350, R423). -/
def sendScale (s : State) (j : PsendJob) : State :=
  let payload := beBytes 1 (wrapN 8 j.T) ++ beBytes 3 0
  ((owners j.t.rows j.p.n).filter (· != j.p.me)).foldl (fun s d =>
    let s1 := onEth s fun e => { e with scales := e.scales ++ [⟨j.p.id, j.desc.step, j.t.id, d, payload, s.now⟩] }
    sendPlain s1 j.p j.t.hub d (destHub j.p d j.t.hub) 2 j.desc.step j.t.id payload) s

/-- Hand one row to its owner: this device's tally, or the port block. -/
def handRow (s : State) (j : PsendJob) (row : Nat) (bs : List Byte) : State :=
  let s1 := onTS s j.p.id j.desc.step j.t.id fun x => { x with sentRows := x.sentRows ++ [row] }
  if ownerOf j.t.rows j.p.n row = j.p.me then
    (countRow s1 j.p j.desc.step j.t
      ⟨row, j.p.me, rowElems j.desc.fmt j.desc.log2 (bytesAt bs) bs.length j.t.cols, 0⟩).1
  else sendRow s1 j row bs

/-- Read the rows, discard the untrained ones and hand on the rest (R350). -/
def psendRows (c : Nat) (j : PsendJob) (bm : List Byte) : List Nat → State → MRes Unit
  | [], s => (s, .ok ())
  | i :: is, s =>
    match unitRead s c (psendRow j.desc i) false with
    | (s1, .error e) => (s1, .error e)
    | (s1, .ok bs) =>
      psendRows c j bm is (if trainedIn j.t bm (j.desc.row0 + i) then handRow s1 j (j.desc.row0 + i) bs else s1)

/-- A PSEND that passes its checks. -/
def psendRun (s : State) (c : Nat) (j : PsendJob) : MRes Unit :=
  let first := (tsOf (getTS s j.p.id j.desc.step j.t.id) j.p.me).isNone
  let s1 := if first then sendScale (takeT s j.p.id j.desc.step j.t.id j.p.me j.T).1 j else s
  let b := stepBitmap s1 j.p.id j.desc.step j.t
  match psendRows c j b.2 (List.range j.desc.nrows) b.1 with
  | (s2, .error e) => (s2, .error e)
  | (s2, .ok _) => (shardCheck (convertStaged s2 j.p j.desc.step j.t) j.p j.desc.step j.t, .ok ())

/-- The head of the pack queue leaves. -/
def packPop (s : State) (c : Nat) : State :=
  let s1 := onCore s c fun k => { k with packq := k.packq.tail }
  unitAdvance s1 c .pack (inPackq s1 c)

/-- The head fails: its thread stops, and its entries behind it are discarded (R349). -/
def packFail (s : State) (c t pc : Nat) (f : Nat × Nat) : State :=
  let s1 := stopQueued s c t f.1 pc f.2
  let s2 := onCore s1 c fun k => { k with packq := k.packq.filter fun x => x.thr != t }
  unitAdvance s2 c .pack (inPackq s2 c)

/-- PSEND_EXECUTE: the head of a slot's queue; one that the failed tick had applied is suppressed (R351). A source that cannot be read stops the
PSEND before it sends or records anything (R349). -/
def execPsendExecute (core : BitVec 11) (s : State) : Out :=
  let c := core.toNat
  match (getCore s c).packq with
  | [] => .next s
  | ⟨t, pc, off, _⟩ :: _ =>
    if !unitServed s c then .next s
    else if 0 < (getNode s c).suppress.psends then
      .next (packPop (onNode s c fun n => { n with suppress := { n.suppress with psends := n.suppress.psends - 1 } }) c)
    else
      match psendCheck s c off with
      | (s1, .error f) => .next (packFail s1 c t pc f)
      | (s1, .ok j) =>
        match unitReads c false ((List.range j.desc.nrows).map (psendRow j.desc)) s1 with
        | (s2, .error e) => .next (packFail s2 c t pc (stAddrUnmapped, e))
        | (s2, .ok _) =>
          match psendRun s2 c j with
          | (s3, .error e) => .next (packFail s3 c t pc (stAddrUnmapped, e))
          | (s3, .ok _) => .next (packPop (onNode s3 c fun n => { n with eff := { n.eff with psends := n.eff.psends + 1 } }) c)

/-- STAGED_CONVERT: with the T of all members held, what waits in staging is converted (R356). -/
def execStagedConvert (pack : W32) (step : W64) (tensor : W32) (s : State) : Out :=
  match findPack s pack.toNat, findTensor s tensor.toNat with
  | some p, some t => .next (if p.tensors.contains t.id then convertStaged s p step.toNat t else s)
  | _, _ => .next s

end Sys2Proof.Machine
end

