-- ==== Sys2Proof/Machine/PackRx.lean ====
section
/-! DEFINITION. The pack protocol's receiving side (R419 to R425) and its timers, and the votes of a step (R364 to R367). -/

namespace Sys2Proof.Machine

/-! ### Headers (Table 15.6) -/

structure PackHdr where
  version : Nat
  type : Nat
  len : Nat
  pack : Nat
  step : Nat
  member : Nat
  srcHub : Nat
  dstHub : Nat
  dstMember : Nat
  tensor : Nat
  seq : Nat
deriving DecidableEq, Repr

def packHdr (b : List Byte) : PackHdr :=
  ⟨getBe b 0 1, getBe b 1 1, getBe b 2 2, getBe b 4 4, getBe b 8 8, getBe b 16 2, getBe b 18 1, getBe b 19 1, getBe b 20 2, getBe b 24 4,
   getBe b 28 4⟩

def packPayload (b : List Byte) : List Byte := (b.drop 32).take (getBe b 2 2)

/-- Bytes of one received block: header, code area, side entries, padding. -/
def rxBlockLen (fmt log2 : Nat) (b : List Byte) : Nat :=
  recBytes fmt log2 + roundUp ((if fmt = 11 then 4 else 2) * (zbHdr (getBe b 0 4)).count) 4

/-- Split the blocks of a CONTRIB; `none` when their lengths do not fill the bytes. -/
def rxBlocks (fmt log2 : Nat) : Nat → List Byte → Option (List (List Byte))
  | 0, b => if b.isEmpty then some [] else none
  | n + 1, b =>
    let l := rxBlockLen fmt log2 b
    if b.length < l then none else (rxBlocks fmt log2 n (b.drop l)).map fun r => b.take l :: r

/-- Values of one received block that holds `k` elements beside its padding, the tensor scale left out; SIDE_OFF is ignored (R420). -/
def rxBlockVals (fmt log2 k : Nat) (b : List Byte) : List FVal :=
  let h := zbHdr (getBe b 0 4)
  let ew := if fmt = 11 then 4 else 2
  let area := (b.drop 4).take (recBytes fmt log2 - 4)
  let sides := (List.range h.count).flatMap fun n => leBytes ew (getBe b (recBytes fmt log2 + ew * n) ew)
  let row := leBytes 4 (zbHdrWord { h with side := recBytes fmt log2 / 4 }) ++ area ++ sides
  decodeBlock fmt log2 k (bytesAt row) 0 row.length

/-- Values of the blocks of a segment that begins at block `blk0` of a row of `cols` elements. -/
def rxSegVals (fmt log2 cols blk0 : Nat) (bs : List (List Byte)) : List FVal :=
  (List.zip (natsFrom blk0 bs.length) bs).flatMap fun x => rxBlockVals fmt log2 (blockElems log2 cols x.1) x.2

def contribFmtOk (fmt log2 : Nat) : Bool := decide (11 ≤ fmt ∧ fmt ≤ 13) && decide (4 ≤ log2 ∧ log2 ≤ 7)

/-- Is PAYLOAD_LEN one the type allows (Table 15.7a)? The blocks of a CONTRIB are measured when its format is one that exists. -/
def payloadOk (type : Nat) (pl : List Byte) : Bool :=
  let n := pl.length
  match type with
  | 1 => decide (16 ≤ n) && (!contribFmtOk (getBe pl 0 1) (getBe pl 1 1) ||
      (rxBlocks (getBe pl 0 1) (getBe pl 1 1) (getBe pl 12 2) (pl.drop 16)).isSome)
  | 2 => n == 4
  | 3 => n == 4
  | 4 => n == 12
  | 5 => decide (1 ≤ getBe pl 8 2 ∧ getBe pl 8 2 ≤ 2237) && n == 12 + 4 * getBe pl 8 2
  | 6 => decide (getBe pl 4 4 ≤ 185) && n == 72 + 48 * getBe pl 4 4
  | 7 => n == 4
  | 8 => n == 12
  | 9 => n == 36
  | _ => false

/-- Is the datagram a pack message in form (Table 15.8)? -/
def packFormOk (b : List Byte) : Bool :=
  let h := packHdr b
  decide (36 + h.len ≤ b.length) && h.version == 1 && decide (h.len ≤ 8960) && h.len % 4 == 0 && payloadOk h.type (packPayload b) &&
  getBe b (32 + h.len) 4 == crc32c (b.take (32 + h.len))

/-- Answer a rejected message, except a NACK or an ACK (R425). -/
def reject (s : State) (m : PackRx) (p : Option Pack) (b : List Byte) (reason : Nat) : State :=
  let ty := (packHdr b).type
  if ty = 9 ∨ ty = 4 then s else sendNack s m.hub m.port m.src p reason b

def rejectStale (s : State) (m : PackRx) (p : Pack) (b : List Byte) : State :=
  reject (onPackCnt s fun c => { c with stale := inc32 c.stale }) m (some p) b 3
def rejectUnknown (s : State) (m : PackRx) (p : Pack) (b : List Byte) (reason : Nat) : State :=
  reject (onPackCnt s fun c => { c with unknown := inc32 c.unknown }) m (some p) b reason

/-! ### Delivery -/

/-- The tensor of a message, when the pack reduces it. -/
def rxTensor (s : State) (p : Pack) (id : Nat) : Option Tensor := if p.tensors.contains id then findTensor s id else none

/-- A CONTRIB segment of a tensor, the bitmap of its step read (R353, R355, R420, Table 15.8): one that is dropped leaves no T behind. -/
def rxSegment (s : State) (m : PackRx) (p : Pack) (b : List Byte) (t : Tensor) (bm : List Byte) : State :=
  let h := packHdr b
  let pl := packPayload b
  let fmt := getBe pl 0 1
  let log2 := getBe pl 1 1
  let T := sgn 8 (getBe pl 2 1)
  let row := getBe pl 4 4
  let blk0 := getBe pl 8 4
  let nblk := getBe pl 12 2
  let rowEnd := bit (getBe pl 14 2) 0
  let x := getTS s p.id h.step t.id
  let mine := fun (q : RowSeg) => q.member == h.member && q.row == row
  let seg := (x.segs.find? mine).getD ⟨h.member, row, 0, [], 0⟩
  let total := ceilDiv t.cols (blockSize log2)
  if t.rows ≤ row ∨ ownerOf t.rows p.n row ≠ p.me ∨ !trainedIn t bm row then rejectUnknown s m p b 4
  else if (smGet [] x.bits row).contains h.member then
    reject (onPackCnt s fun c => { c with dup := inc32 c.dup }) m (some p) b 5
  else if (match tsOf x h.member with | some v => decide (v ≠ T) | none => false) then rejectUnknown s m p b 6
  else if !contribFmtOk fmt log2 ∨ blk0 ≠ seg.blocks ∨ seg.vals.length ≠ blk0 * blockSize log2 ∨ total < blk0 + nblk ∨
      (rowEnd ∧ blk0 + nblk ≠ total) then rejectUnknown s m p b 7
  else
    let s1 := (takeT s p.id h.step t.id h.member T).1
    let vals := seg.vals ++ rxSegVals fmt log2 t.cols blk0 ((rxBlocks fmt log2 nblk (pl.drop 16)).getD [])
    if rowEnd then
      let s2 := onTS s1 p.id h.step t.id fun x => { x with segs := x.segs.filter fun q => !mine q }
      convertStaged (countRow s2 p h.step t ⟨row, h.member, vals.take t.cols, seg.msgs + 1⟩).1 p h.step t
    else
      onTS s1 p.id h.step t.id fun x =>
        { x with segs := x.segs.filter (fun q => !mine q) ++ [⟨h.member, row, blk0 + nblk, vals, seg.msgs + 1⟩] }

/-- A CONTRIB: the tensor's contribution begins to arrive with its first one, and its bitmap is read then (R186). -/
def rxContrib (s : State) (m : PackRx) (p : Pack) (b : List Byte) : State :=
  let h := packHdr b
  if !stepAcceptable p h.step then rejectStale s m p b
  else
    match rxTensor s p h.tensor with
    | none => rejectUnknown s m p b 4
    | some t =>
      let bm := stepBitmap s p.id h.step t
      shardCheck (rxSegment bm.1 m p b t bm.2) p h.step t

/-- A REDUCED message (R360). -/
def rxReduced (s : State) (m : PackRx) (p : Pack) (b : List Byte) : State :=
  let h := packHdr b
  let pl := packPayload b
  let row := getBe pl 0 4
  let col0 := getBe pl 4 4
  let n := getBe pl 8 2
  if !stepAcceptable p h.step then rejectStale s m p b
  else
    match rxTensor s p h.tensor with
    | none => rejectUnknown s m p b 4
    | some t =>
      let bm := stepBitmap s p.id h.step t
      if t.rows ≤ row ∨ ownerOf t.rows p.n row ≠ h.member ∨ !trainedIn t bm.2 row then rejectUnknown bm.1 m p b 4
      else if t.cols < col0 + n then rejectUnknown bm.1 m p b 7
      else placeReduced bm.1 p.id h.step t row col0 ((List.range n).map fun i => getBe pl (12 + 4 * i) 4)

/-- A SHARD_DONE message (R361, R420): chunk partials may come in several messages, the last of them marked. -/
def rxShardDone (s : State) (m : PackRx) (p : Pack) (b : List Byte) : State :=
  let h := packHdr b
  let pl := packPayload b
  let flags := getBe pl 0 2
  let up := (sgn 16 (getBe pl 2 2) + 298).toNat
  let nch := getBe pl 4 4
  let c0 := getBe pl 8 8
  if !stepAcceptable p h.step then rejectStale s m p b
  else
    match rxTensor s p h.tensor with
    | none => rejectUnknown s m p b 4
    | some t =>
      let x := getTS s p.id h.step t.id
      let q := (x.partials.find? fun q => q.member == h.member).getD { member := h.member }
      if q.last then s
      else
        putPartial s p.id h.step t.id
          { member := h.member, sumsq := getBe pl 16 48 <<< up, nonfinite := q.nonfinite || bit flags 0, last := bit flags 1,
            chunks := (List.range nch).foldl (fun l i => smSet 0 l (c0 + i) (getBe pl (72 + 48 * i) 48 <<< up)) q.chunks }

/-- A VOTE (R364, R366): held from before the member's own fence on; the first of a member stands. -/
def rxVote (s : State) (m : PackRx) (p : Pack) (b : List Byte) : State :=
  let h := packHdr b
  if !stepAcceptable p h.step then rejectStale s m p b
  else if (getPS s p.id h.step).votes.any fun v => v.1 == h.member then
    reject (onPackCnt s fun c => { c with dup := inc32 c.dup }) m (some p) b 5
  else
    voteCheck (onPS s p.id h.step fun x => { x with votes := x.votes ++ [(h.member, bit (getBe (packPayload b) 0 1) 0)] }) p.id h.step

/-- Deliver a sequenced message of a stream. -/
def deliver (s : State) (m : PackRx) (id : Nat) (b : List Byte) : State :=
  match findPack s id with
  | none => s
  | some p =>
    match (packHdr b).type with
    | 1 => rxContrib s m p b
    | 5 => rxReduced s m p b
    | 6 => rxShardDone s m p b
    | _ => rxVote s m p b

/-! ### Streams (R421 to R424) -/

def sameRecv (pack : Nat) (mc : Bool) (member srcHub hub : Nat) (x : RecvStream) : Bool :=
  x.pack == pack && x.mc == mc && x.member == member && x.srcHub == srcHub && x.hub == hub

def getRecv (s : State) (p : Pack) (mc : Bool) (member srcHub hub : Nat) : RecvStream :=
  (s.eth.recvs.find? (sameRecv p.id mc member srcHub hub)).getD
    { pack := p.id, mc := mc, member := member, srcHub := srcHub, hub := hub, limit := creditW p.n, told := creditW p.n }

def putRecv (s : State) (x : RecvStream) : State :=
  let same := sameRecv x.pack x.mc x.member x.srcHub x.hub
  onEth s fun e => { e with recvs := if e.recvs.any same then e.recvs.map fun y => if same y then x else y else e.recvs ++ [x] }

/-- The position in a stream that a 32-bit number names: the nearest to `base` (R421). -/
def unwrapSeq (base seq : Nat) : Int := (base : Int) + sgn 32 (seq + 2 ^ 32 - base % 2 ^ 32)

/-- Buffers of an owner hub (R422). -/
def poolBuffers : Nat := 4096

/-- Messages that hold buffers of a hub: those in staging, and the segments of rows under way, of the tensors it owns (R356, R422). -/
def stagedMsgs (s : State) (hub : Nat) : Nat :=
  (s.step.packs.flatMap fun p => p.steps.flatMap (·.tensors)).foldl (fun n x =>
    if (findTensor s x.tensor).map (·.hub) = some hub then n + (x.staged.map (·.msgs)).sum + (x.segs.map (·.msgs)).sum else n) 0

/-- The unicast streams that send to a hub of this device: each fitted hub of the other members whose address index h′ here is that hub (R416). -/
def streamsTo (p : Pack) (hub : Nat) : List (Nat × Nat) :=
  ((List.range p.n).filter (· != p.me)).flatMap fun m =>
    ((List.range 6).filter fun h => memberAddr p m h != 0 && destHub p p.me h == hub).map fun h => (m, h)

/-- Buffers that credit already granted keeps for messages not delivered. -/
def grantedBuffers (s : State) (hub : Nat) : Nat :=
  (s.step.packs.flatMap fun p => (streamsTo p hub).map fun q =>
    let x := getRecv s p false q.1 q.2 hub
    x.limit - x.next).sum

/-- Credits that a stream waits for: up to W beyond what has been delivered (log entry 153). -/
def creditWanted (s : State) (x : RecvStream) : Nat :=
  match findPack s x.pack with
  | some p => x.next + creditW p.n - x.limit
  | none => 0

/-- The first waiting stream after position `at_`, round-robin. -/
def nextWaiting (wants : List Nat) (at_ : Nat) : Option Nat :=
  ((natsFrom (at_ + 1) (wants.length - (at_ + 1))) ++ List.range (min wants.length (at_ + 1))).find? fun i => wants.getD i 0 != 0

/-- Grant that many credits, one at a time: the position granted last, and what each stream still waits for. -/
def grantRound : Nat → Nat → List Nat → Nat × List Nat
  | 0, at_, wants => (at_, wants)
  | k + 1, at_, wants =>
    match nextWaiting wants at_ with
    | none => (at_, wants)
    | some i => grantRound k i (wants.set i (wants.getD i 0 - 1))

/-- A hub grants credit as its buffers free, round-robin over the streams that wait (R422). -/
def grantCredits (s : State) (hub : Nat) : State :=
  let mine := fun (x : RecvStream) => !x.mc && x.hub == hub
  let xs := s.eth.recvs.filter mine
  let wants := xs.map (creditWanted s)
  let spare := poolBuffers - (grantedBuffers s hub + stagedMsgs s hub)
  let r := grantRound (min spare wants.sum) (smGet 0 s.eth.grantAt hub) wants
  let give := (xs.zip (wants.zip r.2)).map fun q => { q.1 with limit := q.1.limit + (q.2.1 - q.2.2) }
  onEth (give.foldl putRecv s) fun e => { e with grantAt := smSet 0 e.grantAt hub r.1 }

/-- Send an ACK of a unicast stream, with the credit granted (R422). -/
def sendAck (s : State) (x : RecvStream) : State :=
  match findPack s x.pack with
  | none => s
  | some p =>
    let s1 := grantCredits (putRecv s { x with unacked := 0, ce := false }) x.hub
    let lim := (getRecv s1 p false x.member x.srcHub x.hub).limit
    let payload := beBytes 4 ((x.next + 2 ^ 32 - 1) % 2 ^ 32) ++ beBytes 4 ((lim + 2 ^ 32 - 1) % 2 ^ 32) ++ beBytes 4 (b2n x.ce)
    sendPlain (putRecv s1 { x with unacked := 0, limit := lim, told := lim, ce := false }) p x.hub x.member x.srcHub 4 0 0 payload

/-- Deliver in order what a stream holds from its next number on. -/
def deliverRun (m : PackRx) (p : Pack) : Nat → State → RecvStream → State × RecvStream
  | 0, s, x => (s, x)
  | f + 1, s, x =>
    match x.buffer.find? fun q => q.1 == x.next with
    | none => (s, x)
    | some q =>
      let x1 := { x with next := x.next + 1, buffer := x.buffer.filter fun y => y.1 != q.1, unacked := x.unacked + 1,
                         unackedAt := if x.unacked = 0 then s.now else x.unackedAt }
      let r := deliver (putRecv s x1) m p.id q.2
      let x2 := if x1.unacked = 8 ∧ !x1.mc then { x1 with unacked := 0 } else x1
      let s1 := if x1.unacked = 8 ∧ !x1.mc then sendAck r x1 else r
      let y := getRecv s1 p x.mc x.member x.srcHub x.hub
      deliverRun m p f s1 { x2 with limit := y.limit, told := y.told, ce := y.ce }

/-- A sequenced message arrives on its stream. -/
def rxSequenced (s : State) (m : PackRx) (p : Pack) (b : List Byte) : State :=
  let h := packHdr b
  let mc := decide (5 ≤ h.type)
  let x0 := getRecv s p mc h.member (if mc then 0 else h.srcHub) h.dstHub
  let x := { x0 with ce := x0.ce || m.ce }
  let pos := unwrapSeq x.next h.seq
  if pos < x.next then
    let s1 := onHubEth s m.hub fun e => { e with repeatCnt := inc32 e.repeatCnt }
    if mc then s1 else sendAck s1 x
  else if !mc && decide ((x.limit : Int) ≤ pos) then reject s m (some p) b 8
  else
    let n := pos.toNat
    let buf := if x.buffer.any fun q => q.1 == n then x.buffer else x.buffer ++ [(n, b)]
    let r := deliverRun m p (buf.length + 1) s { x with buffer := buf }
    let gap := if r.2.buffer.isEmpty then none
      else if r.2.next = x.next then (match x.gapSince with | some t => some t | none => some s.now) else some s.now
    skipReplies <| putRecv r.1 { r.2 with gapSince := gap, lastRepair := if gap.isNone then none else r.2.lastRepair }

/-! ### Reception -/

/-- A relay from the hub of arrival (R417). -/
def countRelay (s : State) (m : PackRx) (h : PackHdr) : State :=
  let owner := ((findTensor s h.tensor).map (·.hub)).getD h.dstHub
  let ten := h.type = 1 ∨ h.type = 2 ∨ h.type = 5 ∨ h.type = 6
  if m.hub ≠ h.dstHub ∨ (ten ∧ m.hub ≠ owner) then onHubEth s m.hub fun e => { e with relay := inc32 e.relay } else s

/-- A pack datagram of a type arrives for the device: one that is not in form is dropped and counted (Table 15.8). -/
def rxMessage (type : Nat) (m : PackRx) (s : State) (k : State → PackHdr → State) : Out :=
  rxTaken m.toNetFrame s fun s =>
    if !packFormOk m.bytes then onHubEth s m.hub fun e => { e with malformed := inc32 e.malformed }
    else if (packHdr m.bytes).type ≠ type then s
    else k s (packHdr m.bytes)

/-- A pack datagram of a type arrives: the checks of Table 15.8 down to the sender, then `k`. -/
def rxPack (type : Nat) (m : PackRx) (s : State) (k : State → Pack → PackHdr → State) : Out :=
  rxMessage type m s fun s h =>
    match findPack s h.pack with
    | none => reject s m none m.bytes 1
    | some p =>
      if p.n ≤ h.member ∨ 5 < h.srcHub ∨ memberAddr p h.member h.srcHub ≠ m.src then reject s m (some p) m.bytes 2
      else k (countRelay s m h) p h

def execContrib (m : PackRx) (s : State) : Out := rxPack 1 m s fun s p _ => rxSequenced s m p m.bytes
def execReduced (m : PackRx) (s : State) : Out := rxPack 5 m s fun s p _ => rxSequenced s m p m.bytes
def execShardDone (m : PackRx) (s : State) : Out := rxPack 6 m s fun s p _ => rxSequenced s m p m.bytes
def execVote (m : PackRx) (s : State) : Out := rxPack 7 m s fun s p _ => rxSequenced s m p m.bytes

/-- SCALE: the first T of the member stands; a repeated one is acknowledged again (R355, R423). -/
def execScale (m : PackRx) (s : State) : Out :=
  rxPack 2 m s fun s p h =>
    let T := getBe (packPayload m.bytes) 0 1
    if !stepAcceptable p h.step then rejectStale s m p m.bytes
    else
      match rxTensor s p h.tensor with
      | none => rejectUnknown s m p m.bytes 4
      | some t =>
        if (shardRows t.rows p.n p.me).isEmpty then rejectUnknown s m p m.bytes 4
        else
          let tk := takeT (stepBitmap s p.id h.step t).1 p.id h.step t.id h.member (sgn 8 T)
          shardCheck (if tk.2 then sendPlain tk.1 p h.dstHub h.member h.srcHub 3 h.step t.id (beBytes 1 T ++ beBytes 3 0)
            else rejectUnknown tk.1 m p m.bytes 6) p h.step t

/-- SCALE_ACK: the SCALE is not resent (R423). -/
def execScaleAck (m : PackRx) (s : State) : Out :=
  rxPack 3 m s fun s p h =>
    onEth s fun e => { e with scales := e.scales.filter fun c =>
      !(c.pack == p.id && c.step == h.step && c.tensor == h.tensor && c.dst == h.member &&
        getBe c.bytes 0 1 == getBe (packPayload m.bytes) 0 1) }

/-- ACK: acknowledged number, credit, and the echo of a congestion mark (R422). -/
def execAck (m : PackRx) (s : State) : Out :=
  rxPack 4 m s fun s p h =>
    match s.eth.sends.find? (sameSend p.id false h.dstHub h.member h.srcHub) with
    | none => s
    | some x =>
      let pl := packPayload m.bytes
      let a := unwrapSeq x.acked ((getBe pl 0 4 + 1) % 2 ^ 32)
      let adv := decide ((x.acked : Int) < a ∧ a ≤ x.sent)
      let lim := unwrapSeq x.limit ((getBe pl 4 4 + 1) % 2 ^ 32)
      let acked := if adv then a.toNat else x.acked
      let x1 := { x with acked := acked, held := x.held.filter fun o => decide (acked ≤ o.seq), limit := max x.limit lim.toNat,
                         since := if adv then s.now else x.since, interval := if adv then 100 * usUnits else x.interval }
      let x2 := if bit (getBe pl 8 4) 0 then { x1 with rate := rateNow s.now x1.rate x1.rateAt / 2, rateAt := s.now } else x1
      let r := flushStream s p x2
      putSend r.1 r.2

/-- REPAIR: the held messages of the range go out by unicast with their numbers, or one NACK GONE (R424). -/
def execRepair (m : PackRx) (s : State) : Out :=
  rxPack 8 m s fun s p h =>
    let pl := packPayload m.bytes
    let gone := fun (s : State) => reject s m (some p) m.bytes 9
    match s.eth.sends.find? fun x => x.pack == p.id && x.mc && x.dstHub == getBe pl 0 1 with
    | none => gone s
    | some x =>
      let lo := (unwrapSeq x.next (getBe pl 4 4)).toNat
      let hi := if getBe pl 8 4 = 0xFFFFFFFF then x.next else (unwrapSeq x.next (getBe pl 8 4)).toNat + 1
      let out := x.held.filter fun o => decide (lo ≤ o.seq ∧ o.seq < hi)
      if out.isEmpty then gone s
      else
        match streamPort s p x.srcHub h.member h.srcHub none with
        | none => s
        | some q =>
          if portGw s x.srcHub q = 0 then s
          else out.foldl (fun s o => emit s x.srcHub q (.pack x.srcHub q m.src o.bytes)) s

/-- NACK: counted, with its reason and sender; no other action (R425). -/
def execNack (m : PackRx) (s : State) : Out :=
  rxMessage 9 m s fun s h => onHubEth s m.hub fun e =>
    { e with nackRx := inc32 e.nackRx, lastReason := getBe (packPayload m.bytes) 0 1, lastMember := h.member }

/-! ### Timers -/

/-- Does a stream have an ACK due: 10 µs after the oldest unacknowledged delivery, or with credit granted that no ACK has told (R422)? -/
def ackDue (s : State) (x : RecvStream) : Bool :=
  decide (0 < x.unacked ∧ x.unackedAt + 10 * usUnits ≤ s.now) || (x.unacked == 0 && decide (x.told < x.limit))

/-- ACK_TIMER. The key names the sender's member and hub, and h′. -/
def execAckTimer (key : StreamKey) (s : State) : Out :=
  let same := sameRecv key.pack false key.member key.srcHub key.dstHub
  match s.eth.recvs.find? same, findPack s key.pack with
  | some _, some _ =>
    let s1 := grantCredits s key.dstHub
    .next (match s1.eth.recvs.find? same with
      | some x => if ackDue s1 x then sendAck s1 x else s1
      | none => s1)
  | _, _ => .next s

/-- RETRANSMIT: the oldest unacknowledged message again, at a doubled interval up to 6.4 ms (R422). -/
def execRetransmit (key : StreamKey) (s : State) : Out :=
  match s.eth.sends.find? (sameSend key.pack false key.srcHub key.member key.dstHub), findPack s key.pack with
  | some x, some p =>
    match x.held.find? fun o => decide (x.acked ≤ o.seq ∧ o.seq < x.sent) with
    | none => .next s
    | some o =>
      if s.now < x.since + x.interval then .next s
      else
        match streamPort s p x.srcHub x.dst x.dstHub x.port with
        | none => .next s
        | some q =>
          let s1 := onHubEth s x.srcHub fun e => { e with retx := inc32 e.retx }
          let s2 := if portGw s x.srcHub q = 0 then s1 else emit s1 x.srcHub q (.pack x.srcHub q (memberAddr p x.dst x.dstHub) o.bytes)
          .next (putSend s2 { x with port := some q, since := s.now, interval := min (2 * x.interval) (6400 * usUnits) })
  | _, _ => .next s

/-- SCALE_RESEND: each 100 µs until it is acknowledged or the step is decided (R423). -/
def execScaleResend (pack tensor : W32) (dst : W16) (s : State) : Out :=
  match s.eth.scales.find? fun c => c.pack == pack.toNat && c.tensor == tensor.toNat && c.dst == dst.toNat && decide (c.at_ + 100 * usUnits ≤ s.now),
      findPack s pack.toNat, findTensor s tensor.toNat with
  | some c, some p, some t =>
    let s1 := onEth s fun e => { e with scales := e.scales.map fun y => if y = c then { y with at_ := s.now } else y }
    .next (sendPlain s1 p t.hub c.dst (destHub p c.dst t.hub) 2 c.step t.id c.bytes)
  | _, _, _ => .next s

/-- Send a REPAIR for a multicast stream. -/
def sendRepair (s : State) (p : Pack) (x : RecvStream) (upTo : Nat) : State :=
  let hub := if hubFitted s x.hub then x.hub else ((List.range 6).find? (hubFitted s)).getD 0
  let s1 := onHubEth (putRecv s { x with lastRepair := some s.now }) hub fun e => { e with repair := inc32 e.repair }
  sendPlain s1 p hub x.member (destHub p x.member x.hub) 8 0 0
    (beBytes 1 x.hub ++ beBytes 3 0 ++ beBytes 4 (x.next % 2 ^ 32) ++ beBytes 4 upTo)

/-- Does the pack lack the member's vote at half of the timeout (R424)? -/
def lacksVote (s : State) (p : Pack) (member : Nat) : Bool :=
  p.steps.any fun x => x.decision.isNone && x.voted.isSome && !(x.votes.any fun v => v.1 == member) &&
    decide (x.votedAt + cfgVoteTimeout s * usUnits / 2 ≤ s.now)

/-- Smallest number in a reorder buffer. -/
def firstHeld (x : RecvStream) : Nat := x.buffer.foldl (fun a q => min a q.1) (x.next + 2 ^ 31)

/-- REPAIR_TIMER: a gap of 50 µs, or a missing vote; repeated each 100 µs (R424). -/
def execRepairTimer (pack : W32) (src : W16) (s : State) : Out :=
  match findPack s pack.toNat with
  | none => .next s
  | some p =>
    if p.n ≤ src.toNat then .next s
    else
      .next ((List.range 6).foldl (fun s g =>
        let x := getRecv s p true src.toNat 0 g
        let idle := match x.lastRepair with | some t => decide (t + 100 * usUnits ≤ s.now) | none => true
        let gap := match x.gapSince with | some t => decide (t + 50 * usUnits ≤ s.now) | none => false
        if !idle then s
        else if g = 0 ∧ lacksVote s p src.toNat then sendRepair s p x 0xFFFFFFFF
        else if gap then sendRepair s p x ((firstHeld x + 2 ^ 32 - 1) % 2 ^ 32) else s) s)

/-! ### Votes (R364 to R367) -/

/-- The lowest step of a pack whose fence has been accepted and that is not decided. -/
def fencedStep (p : Pack) : Option PackStep :=
  (p.steps.filter fun x => x.fence.isSome && x.decision.isNone).foldl (fun r x =>
    match r with
    | some y => if x.step < y.step then some x else some y
    | none => some x) none

def updateFailed (x : PackStep) : Bool := x.updates.any fun u => match u.phase with | .failed _ => true | _ => false
/-- Has the groom engine finished every update of the step? A gathered tensor without trained rows has none, since no reduced row of it ever
arrives (R378). -/
def updatesDone (s : State) (p : Pack) (x : PackStep) : Bool :=
  (packTensors s p).all fun t => (x.updates.any fun u => u.tensor == t.id && u.phase == .finished) || noTrained x t

/-- VOTE_SEND. -/
def execVoteSend (pack : W32) (s : State) : Out :=
  match (findPack s pack.toNat).bind fun p => (fencedStep p).map fun x => (p, x) with
  | none => .next s
  | some (p, x) =>
    if x.voted.isNone ∧ allGathered s p x.step ∧ (updatesDone s p x ∨ updateFailed x) then
      .next (skipReplies (castVote s p x.step (!anyBad s p x.step && !updateFailed x) false))
    else .next s

/-- The lowest fenced step of a pack without this device's vote whose time to vote has passed (R365). -/
def overdueStep (s : State) (p : Pack) : Option PackStep :=
  fencedStep { p with steps := p.steps.filter fun x => x.voted.isNone && decide (x.fenceAt + cfgVoteTimeout s * usUnits ≤ s.now) }

/-- VOTE_TIMEOUT: a skip vote. -/
def execVoteTimeout (pack : W32) (s : State) : Out :=
  match (findPack s pack.toNat).bind fun p => (overdueStep s p).map fun x => (p, x) with
  | none => .next s
  | some (p, x) => .next (skipReplies (castVote (onPackCnt s fun c => { c with timeout := inc32 c.timeout }) p x.step false true))

/-- First port of this device that carries the pack and is not UP; those of a lost hub are DOWN (R489). -/
def packPortDown (s : State) (p : Pack) : Option Nat :=
  ((List.range 6).flatMap fun k => ((List.range 16).filter fun q => bit (p.ports.getD k 0) q && !portUp s k q).map (portNo k)).head?

/-- FALLBACK_DECISION. -/
def execFallbackDecision (pack : W32) (s : State) : Out :=
  match (findPack s pack.toNat).bind fun p => (fencedStep p).map fun x => (p, x) with
  | none => .next s
  | some (p, x) =>
    if x.voted.isSome ∧ x.votedAt + cfgVoteTimeout s * usUnits ≤ s.now then
      let commit := allGathered s p x.step && !anyBad s p x.step
      let s1 := onPackCnt s fun c => { c with fallback := inc32 c.fallback }
      match packPortDown s p with
      | some q => .next (skipReplies (decideStep s1 p.id x.step commit 1 stLinkDown q))
      | none => .next (skipReplies (decideStep s1 p.id x.step commit 1 stPackTimeout 0))
    else .next s

end Sys2Proof.Machine
end

