-- ==== Sys2Proof/Machine/Params.lean ====
section
/-! DEFINITION. Checks 4 to 9 of Table 03.4: the opcodes with their kind, states and lengths (chapter 04), and the range of every parameter. Reserved
bytes are ignored (R12). -/

namespace Sys2Proof.Machine

/-! ### Opcodes (Tables 04.1 to 04.14) -/

/-- Device states in which an opcode is allowed (R99). -/
inductive OpStates where
  | a | r | h
deriving DecidableEq, Repr

/-- An opcode's kind, states, and least and greatest PARAM_LEN. -/
structure OpInfo where
  long : Bool
  states : OpStates
  lo : Nat
  hi : Nat
deriving DecidableEq, Repr

/-- An opcode with one PARAM_LEN. -/
def opS (st : OpStates) (n : Nat) : Option OpInfo := some ⟨false, st, n, n⟩
def opL (st : OpStates) (n : Nat) : Option OpInfo := some ⟨true, st, n, n⟩

/-- The opcode tables. -/
def opInfo (op : Nat) : Option OpInfo :=
  match op with
  | 0x0001 => opS .a 0 | 0x0002 => opL .a 0 | 0x0003 => some ⟨false, .a, 0, 4064⟩
  | 0x0101 => opS .a 16 | 0x0102 => opS .r 24 | 0x0103 => opL .r 0 | 0x0104 => opS .r 0
  | 0x0201 => opL .r 16 | 0x0202 => opL .r 16 | 0x0203 => opL .r 24 | 0x0204 => opL .r 24
  | 0x0205 => opS .r 8 | 0x0206 => opS .r 8 | 0x0207 => opL .r 8
  | 0x0301 => opL .r 24 | 0x0302 => opS .r 8 | 0x0303 => opL .r 80 | 0x0304 => opS .r 8
  | 0x0401 => opS .r 64 | 0x0402 => opL .r 8 | 0x0403 => opL .r 8 | 0x0404 => opS .r 0 | 0x0405 => opL .r 0
  | 0x0501 => opL .r 16 | 0x0502 => opL .r 8 | 0x0503 => opS .a 8 | 0x0504 => opL .r 32 | 0x0505 => opL .r 8
  | 0x0601 => opL .a 16 | 0x0602 => opS .a 0 | 0x0603 => opS .a 8 | 0x0604 => opL .a 64 | 0x0605 => opS .a 0
  | 0x0701 => opS .a 8 | 0x0702 => opS .a 8 | 0x0703 => opS .a 0 | 0x0704 => opL .r 8
  | 0x0801 => opS .a 0 | 0x0802 => opL .a 0 | 0x0803 => opL .h 0 | 0x0804 => opL .h 0
  | _ => none

def isLong (op : Nat) : Bool := match opInfo op with | some i => i.long | none => false

/-- May the opcode's group use the management channel (Table 03.1)? -/
def mgmtGroup (op : Nat) : Bool := op / 256 == 0 || op / 256 == 7 || op / 256 == 8

/-- Check 8: allowed in the device state (R99, R122). -/
def stateRefusal (s : State) (i : OpInfo) : Option (Nat × Nat) :=
  let need := match i.states with | .a => false | .r => s.dev.state != 2 | .h => s.dev.state == 0 || s.dev.state == 3
  if !need then none
  else if s.dev.state = 0 then some (stNotReady, s.dev.stage)
  else if s.dev.state = 1 then some (stTopologyHold, 0)
  else some (stNotReady, 0xFF)

/-! ### Parameter ranges (check 9) -/

/-- Offsets whose condition fails; the lowest is the DETAIL. -/
def lowestBad (l : List (Bool × Nat)) : Option Nat :=
  (l.filter fun p => !p.1).foldl (fun m p => match m with | none => some p.2 | some x => some (min x p.2)) none

/-- ADDR of a control-space command (R101). -/
def csAddrOk (a : Nat) : Bool := a % 8 == 0 && decide (csBase ≤ a) && decide (a < csEnd)

/-- Table 04.6, R109 and R135. -/
def taskParams (s : State) (b : List Byte) : Option Nat :=
  let teams := getLe b 0 32
  let phase := getB b 36
  let entry := getLe b 40 4
  let threads := getLe b 44 2
  let p := smGet? s.progs (getLe b 38 2)
  lowestBad [
    (teams != 0 && !(decide (phase ≤ 6) && sliceBroken s teams phase), 0),
    (decide (1 ≤ getLe b 32 4 ∧ getLe b 32 4 ≤ 11515500), 32), (decide (phase ≤ 6), 36), (p.isSome, 38),
    (entry % 4 == 0 && (match p with | some p => decide (p.codeOff ≤ entry ∧ entry < p.codeOff + p.codeLen) | none => true), 40),
    (decide (1 ≤ threads ∧ threads ≤ 1024) && (match p with | some p => decide (threads ≤ p.maxThreads) | none => true), 44),
    (addr48 (getLe b 48 8), 48)]

/-- A tensor descriptor from the parameters of TENSOR_DEFINE (Table 04.9). -/
def tensorOf (b : List Byte) : Tensor :=
  { id := getLe b 0 4, kind := getB b 4, fmt := getB b 5, log2 := getB b 6, flags := getB b 7 % 32, rule := getB b 8, hub := getB b 9,
    refresh := getLe b 10 2, chunk := getLe b 12 4, rows := getLe b 16 4, cols := getLe b 20 4, master := getLe b 24 8, work := getLe b 32 8,
    hyper := getLe b 40 8 }

/-- Ranges of Table 04.9. -/
def tensorRanges (s : State) (t : Tensor) : Option Nat :=
  lowestBad [
    ((findTensor s t.id).isNone, 0), (decide (t.kind ≤ 3), 4), (decide (t.fmt ≤ 13), 5),
    (if isZb t.fmt then decide (4 ≤ t.log2 ∧ t.log2 ≤ 7) else if isBlockFmt t.fmt then t.log2 == 5 else t.log2 == 0 || decide (13 < t.fmt), 6),
    (decide (t.rule ≤ 4), 8), (hubFitted s t.hub, 9), (if t.rule = 4 then t.refresh != 0 else t.refresh == 0, 10),
    (if tClipChunk t then t.chunk != 0 else t.chunk == 0, 12),
    (decide (1 ≤ t.rows ∧ t.rows ≤ 2 ^ 31), 16), (decide (1 ≤ t.cols ∧ t.cols ≤ 2 ^ 31), 20), (addr48 t.master, 24), (addr48 t.work, 32),
    (addr48 t.hyper && (t.rule != 0 || t.hyper == 0), 40)]

/-- Table 04.10: DETAIL of the first matching row. -/
def tensorCombos (s : State) (t : Tensor) : Option Nat :=
  let w := isWeight t
  if tSr t && !w then some 7
  else if (tWide t || tClipChunk t || tSnap t || t.rule != 0) && !w then some 7
  else if w && t.rule == 0 then some 8
  else if (t.rule == 3 || t.rule == 4) && t.cols == 1 then some 8
  else if t.rule == 4 && (decide (8192 < t.rows) || decide (8192 < t.cols)) then some 8
  else if w then
    (if t.hub * hubWindow s ≤ t.master ∧ t.master < (t.hub + 1) * hubWindow s then none else some 24)
  else if t.master ≠ 0 then some 24
  else none

/-- HUB and PORT of PORT_QUERY and RC_OPEN (R405, R413). -/
def portParams (s : State) (b : List Byte) : Option Nat :=
  let k := getB b 0
  lowestBad [(hubFitted s k, 0), (portMapped s k (getB b 1) || !hubFitted s k, 1)]

/-- May the sensor be waived (R121, R503)? -/
def waivable (s : State) (i : Nat) : Bool :=
  isSuspect s i && decide (i < 392) && (List.range 392).all fun j => !isNeighbour s i j || (!isSuspect s j && !isWaived s j)

/-- Is every chunk of the staged image there (R119)? An image of no chunks is none: FW_ARM of it is refused (DESIGN CHOICE, log entry 174). -/
def stagedWhole (s : State) : Bool := s.fw.total != 0 && (List.range s.fw.total).all fun i => s.fw.bitmap.contains i

/-- Check 9: DETAIL of the first bad parameter. TENSOR_DEFINE reports a field out of range before a row of Table 04.10 (DESIGN
CHOICE, log entry 161). A task is outstanding for PROG_UNLOAD until its final reply is sent (R77). -/
def paramBad (s : State) (op : Nat) (b : List Byte) : Option Nat :=
  match op with
  | 0x0101 =>
    let a := getLe b 0 8
    let n := getLe b 8 4
    lowestBad [(csAddrOk a, 0), (decide (1 ≤ n ∧ n ≤ 64) && (!csAddrOk a || decide (a + 8 * (n - 1) < csEnd)), 8)]
  | 0x0102 => lowestBad [(csAddrOk (getLe b 0 8), 0)]
  | 0x0201 | 0x0202 | 0x0203 => lowestBad [(memAddrOk (getLe b 0 8), 0), (memLenOk (getLe b 8 4), 8)]
  | 0x0204 =>
    let src := getLe b 0 8
    let dst := getLe b 8 8
    let n := getLe b 16 4
    lowestBad [(memAddrOk src, 0), (memAddrOk dst && !(memLenOk n && rangesMeet src n dst n), 8), (memLenOk n, 16)]
  | 0x0207 => lowestBad [(decide (getLe b 0 2 < 2 ^ 14), 0)]
  | 0x0301 =>
    lowestBad [(addr48 (getLe b 0 8), 0), (decide (4096 ≤ getLe b 8 4 ∧ getLe b 8 4 ≤ 2 ^ 26), 8),
      ((smGet? s.progs (getLe b 12 2)).isNone, 12), (decide (getB b 14 ≤ 12), 14)]
  | 0x0302 =>
    let h := getLe b 0 2
    lowestBad [((smGet? s.progs h).isSome && !(s.mp.slots.any fun x => x.opcode == 0x0303 && x.ref == h), 0)]
  | 0x0303 => taskParams s b
  | 0x0401 =>
    let t := tensorOf b
    match tensorRanges s t with
    | some d => some d
    | none => tensorCombos s t
  | 0x0402 => lowestBad [((findTensor s (getLe b 0 4)).isSome, 0)]
  | 0x0501 => lowestBad [((findPack s (getLe b 0 4)).isNone, 0), (addr48 (getLe b 8 8), 8)]
  | 0x0503 => portParams s b
  | 0x0504 => portParams s b
  | 0x0505 => lowestBad [((findConn s (getLe b 0 4)).isSome, 0)]
  | 0x0601 => lowestBad [(decide (getLe b 0 4 < getLe b 4 4), 0), (decide (getLe b 4 4 ≤ 10240), 4)]
  | 0x0603 => lowestBad [(getLe b 0 4 == s.fw.total && stagedWhole s, 0)]
  | 0x0701 => lowestBad [(decide (1 ≤ getLe b 2 2 ∧ getLe b 2 2 ≤ 1016 ∧ getLe b 0 2 + getLe b 2 2 ≤ 394), 2)]
  | 0x0702 => lowestBad [(waivable s (getLe b 0 2), 0)]
  | 0x0704 => lowestBad [(decide (getB b 0 ≤ 4), 0)]
  | 0x0803 => lowestBad [(s.dev.state != 1 || s.bring.mismatch % 4 == 0, 0)]
  | _ => none

end Sys2Proof.Machine
end

