-- ==== Sys2Proof/Machine/ThermRows.lean ====
section
/-! DEFINITION. The thermal controller's own events: samples, estimates, suspects, flow, throttle steps and the end of a grace interval (R496 to
R511). Each row acts when the state shows that its time has come, and leaves the state as it is otherwise. -/

namespace Sys2Proof.Machine

/-- A reading is outside 0 to 150 °C (Table 19.4, cause 3). -/
def outOfRange (t : Int) : Bool := decide (t < 0) || decide (16 * 150 < t)

/-- Is the sensor healthy: fitted, neither suspect nor waived? -/
def isHealthy (s : State) (i : Nat) : Bool := !sensorAbsent s i && !isSuspect s i && !isWaived s i

/-- Do estimate and reading of a sensor with an estimate differ by more than 6 °C? -/
def sensorDisagrees (s : State) (i : Nat) : Bool :=
  match smGet? s.therm.est i with
  | some e => decide (i < 392) && isHealthy s i && decide (96 < (e - sensorTemp s i).natAbs)
  | none => false

/-- Keep since when estimate and reading disagree (Table 19.4, cause 1). -/
def evalDiff (s : State) : State :=
  let d := (List.range 392).foldl (fun t i => sinceUpd t i s.now (sensorDisagrees s i)) s.therm.diffSince
  onTherm s fun t => { t with diffSince := d }

/-- Re-evaluate the temperature limit of each pair (R511). -/
def evalPairs (s : State) : State :=
  (List.range 9).foldl (fun s r =>
    if (getRegion s r).pairing = hotPairs s r then s else onRegion s r fun x => { x with pairing := hotPairs s r }) s

/-- Take one sensor's answer. -/
def takeReading (readings : List W16) (silent : List Nat) (s : State) (i : Nat) : State :=
  if sensorAbsent s i then s
  else
    match readings[i]? with
    | none => onTherm s fun t => { t with silentSince := sinceUpd t.silentSince i s.now true }
    | some w =>
      if silent.contains i then onTherm s fun t => { t with silentSince := sinceUpd t.silentSince i s.now true }
      else
        let v := sgn 16 w.toNat
        let same := smGet? s.therm.temp i == some v
        let st := if same && (smGet? s.therm.stuckSince i).isSome then s.therm.stuckSince
                  else match smGet? s.therm.est i with
                    | some e => smIns s.therm.stuckSince i (s.now, e)
                    | none => smDel s.therm.stuckSince i
        onTherm s fun t => { t with temp := smIns t.temp i v, silentSince := smDel t.silentSince i, stuckSince := st }

/-- Sensors that causes 3 and 4 declare suspect in this sample. -/
def sampleSuspects (s : State) (silent : List Nat) : List (Nat × Nat) :=
  (List.range 394).filterMap fun i =>
    if !isHealthy s i then none
    else if !silent.contains i && (smGet? s.therm.temp i).isSome && outOfRange (sensorTemp s i) then some (i, 3)
    else
      match smGet? s.therm.silentSince i with
      | some t => if t + msUnits ≤ s.now then some (i, 4) else none
      | none => none

/-- SENSOR_SAMPLE (R497, R501, R504, R507, R509): in a tripped part, only the readings and the cooling are followed (R512). -/
def execSensorSample (readings : List W16) (f : SampleFinding) (s : State) : Out :=
  let s1 := (List.range 394).foldl (takeReading readings f.silent) s
  let s2 := onTherm s1 fun t => { t with coolantHot := decide (16 * 40 < smGet 0 t.temp 392) }
  if s2.therm.tripped then .next (evalTrip s2)
  else .next (settle (evalTherm (evalPairs (evalDiff (declareAll declareFuel s2 (sampleSuspects s2 f.silent))))))

/-- The inlet temperature and the flow that the thermal model takes (R496, R500, R510): 40 °C and 2.5 L/min while a coolant sensor is suspect, and 2.5 L/min
before the first flow estimate. -/
def modelInlet (s : State) : Int := if isSuspect s 392 || isSuspect s 393 then 16 * 40 else sensorTemp s 392
def modelFlow (s : State) : Nat := if isSuspect s 392 || isSuspect s 393 || s.therm.flow == 0 then 250 else s.therm.flow

/-- What the neighbours of a sensor feed its estimate (R500): a suspect one nothing, a waived one its own estimate, a healthy one its reading. -/
def neighbourFeeds (s : State) (i : Nat) : List (Nat × Int) :=
  ((List.range 392).filter fun j => isNeighbour s i j && !isSuspect s j).map fun j => (j, if isWaived s j then sensorEst s j else sensorTemp s j)

/-- The estimate of a sensor location (R500). -/
def modelEstimate (s : State) (powers : List W16) (i : Nat) : Int :=
  sgn 16 (wrapN 16 (Config.tempEstimate i (modelInlet s) (modelFlow s) (powers.getD ((regionOfSensor i).getD 0) 0).toNat (neighbourFeeds s i)))

/-- THERMAL_MODEL (R500): the estimates of the fitted sensor locations, all formed from the state before. -/
def execThermalModel (powers : List W16) (s : State) : Out :=
  if s.therm.tripped then .next s
  else
    let s1 := (List.range 392).foldl (fun s1 i =>
      if sensorAbsent s i then s1 else onTherm s1 fun t => { t with est := smIns t.est i (modelEstimate s powers i) }) s
    .next (settle (evalTherm (evalPairs (evalDiff s1))))

/-- Has the cause of Table 19.4 held for its time? -/
def suspectDue (s : State) (i : Nat) : SuspectCause → Bool
  | .disagree =>
    match smGet? s.therm.diffSince i with
    | some t => decide (t + 10 * msUnits ≤ s.now)
    | none => false
  | .stuck =>
    match smGet? s.therm.stuckSince i with
    | some (t, e) => decide (t + 2 * secUnits ≤ s.now) && decide (48 ≤ (sensorEst s i - e).natAbs)
    | none => false

/-- SENSOR_SUSPECT (R501, causes 1 and 2; R502). -/
def execSensorSuspect (sensor : Nat) (cause : SuspectCause) (s : State) : Out :=
  if sensor < 392 ∧ isHealthy s sensor ∧ suspectDue s sensor cause ∧ !s.therm.tripped then
    .next (settle (evalTherm (declareAll declareFuel s [(sensor, match cause with | .disagree => 1 | .stuck => 2)])))
  else .next s

/-- What the outlet runs above the inlet at 6 L/min and 3,400 W, in 1/1000 °C: a value that rounds to R495's 8.1 °C of water or 8.5 °C of glycol. It stands
for the heat capacity of the fluid (log entry 180). -/
def fluidRise (glycol : Bool) : Nat := (if glycol then 8450 else 8050) + Config.fluidRise glycol % 100

/-- The flow of the heat balance of R496 in 0.01 L/min, rounded down: the draw by what the coolant warms, and a free value while it warms nothing (log
entry 180). -/
def heatFlow (s : State) (drawW : Nat) : Nat :=
  let glycol := cfgCoolant s == 1
  let rise := sensorTemp s 393 - sensorTemp s 392
  if 0 < rise then 600 * drawW * 16 * fluidRise glycol / (3400 * 1000 * rise.toNat) else Config.flowEstimate glycol drawW rise

/-- The estimate of R496, clamped to 2.5 to 20 L/min. -/
def flowOf (s : State) (drawW : Nat) : Nat := max 250 (min 2000 (heatFlow s drawW))

/-- FLOW_ESTIMATE (R496): held below a draw of 600 W. -/
def execFlowEstimate (f : FlowFinding) (s : State) : Out :=
  if f.drawW < 600 then .next s
  else
    let v := flowOf s f.drawW
    let short := flowShort s v
    .next (beginReins (onTherm s fun t =>
      { t with flow := v,
               lowSince := if short then (match t.lowSince with | some x => some x | none => some s.now) else none,
               flowLow := t.flowLow && short }))

/-- FLOW_LOW (R496): an estimate below the requirement for 1 s. -/
def execFlowLow (s : State) : Out :=
  match s.therm.lowSince with
  | some t =>
    if t + secUnits ≤ s.now then .next (beginReins (onTherm s fun t => { t with flowLow := true })) else .next s
  | none => .next s

/-- THROTTLE_DEEPEN (R506, R511): one step per 1 ms at or above the region's threshold, or under the pair limit. -/
def execThrottleDeepen (region : Nat) (s : State) : Out :=
  let x := getRegion s region
  let pair := decide (region ≤ 8) && pairHot s region
  let due := match x.deepenAt with | some t => decide (t + msUnits ≤ s.now) | none => true
  if (regionSensors s region).isEmpty ∨ s.therm.tripped ∨ 4 ≤ x.step ∨ !due ∨
      !(pair || decide (16 * throttleTemp region ≤ regionTemp s region)) then .next s
  else
    let s1 := setThrottle (onRegion s region fun x => { x with deepenAt := some s.now, pairing := if region ≤ 8 then hotPairs s region else x.pairing }) region (x.step + 1)
    .next (settle (if pair then onTherm s1 fun t => { t with pullCnt := satAdd 32 t.pullCnt 1 } else s1))

/-- THROTTLE_RELEASE (R502, R506, R511): one step per 10 ms while the region is at least 5 °C below its threshold. -/
def execThrottleRelease (region : Nat) (s : State) : Out :=
  let x := getRegion s region
  match x.coolSince with
  | some t =>
    if x.step = 0 ∨ s.now < t + 10 * msUnits ∨ regionSuspect s region ∨ (region ≤ 8 ∧ pairHolds s region) then .next s
    else .next (settle (onRegion s region fun x => { x with step := x.step - 1, coolSince := some s.now }))
  | none => .next s

/-- GRACE_END (R507, R508). -/
def execGraceEnd (region : Nat) (s : State) : Out :=
  if 1 ≤ region ∧ region ≤ 4 ∧ (getRegion s region).rein ∧ (getRegion s region).graceEnd ≤ s.now then .next (graceEnd s region)
  else .next s

end Sys2Proof.Machine
end

