-- ==== Sys2Proof/Machine/Commands.lean ====
section
/-! DEFINITION. What each opcode does once its packet has passed the checks and nothing holds it (chapter 04, R49, R54, R103 to R122, R133, R134,
R342, R413, R426). Each operation takes the slot and the parameter block. -/

namespace Sys2Proof.Machine

/-! ### Short replies -/

/-- The final reply of a command with a payload and ST_OK. -/
def replyOk (s : State) (x : Slot) (payload : List Byte) : State := finalReply s x.sid stOk 0 payload
def replyBad (s : State) (x : Slot) (status detail : Nat) : State := finalReply s x.sid status detail []

/-- Table 04.2. -/
def identifyPayload (s : State) : List Byte :=
  leBytes 2 s.dev.fuses.variant ++ leBytes 2 s.dev.fuses.stepping ++ leBytes 1 s.dev.state ++ leBytes 1 s.dev.stage ++ leBytes 2 0 ++
    leBytes 8 s.dev.fuses.uid ++ leBytes 4 s.dev.fwVersion ++ leBytes 4 s.dev.fuses.rollback ++ leBytes 8 (tickOrZero s)

/-! ### Control space -/

/-- CS_READ: refused whole when a word is unmapped (R101). -/
def startCsRead (s : State) (x : Slot) (b : List Byte) : State :=
  let ws := (List.range (getLe b 8 4)).map fun i => getLe b 0 8 + 8 * i
  if ws.any (csUnmapped s) then replyBad s x stCsUnmapped 0
  else replyOk s x (ws.flatMap fun a => leBytes 8 (csReadWord s a))

/-- CS_WRITE (R102). -/
def startCsWrite (s : State) (x : Slot) (b : List Byte) : State :=
  let a := getLe b 0 8
  if csUnmapped s a then replyBad s x stCsUnmapped 0
  else replyOk (csWriteWord s a (getLe b 8 8) (getLe b 16 8)) x []

/-- CS_COMMIT becomes pending (R91). -/
def startCommit (s : State) (x : Slot) (tnb : Option Nat) : State :=
  onMp (setWork s x.sid (.commit tnb)) fun m => { m with commit := some (x.sid, none), commitExpired := false }

/-! ### Memory (R103, R104) -/

/-- The checks of a memory command's ranges against the address map, in the order of R103: status and DETAIL. -/
def memRefusal (s : State) (rd wr : Option (Nat × Nat)) : Option (Nat × Nat) :=
  match rd.bind fun r => unmappedAt s r.1 r.2 with
  | some _ => some (stAddrUnmapped, 0)
  | none =>
    match wr with
    | none => none
    | some w =>
      match unmappedAt s w.1 w.2, protectedAt s w.1 w.2 with
      | some _, _ => some (stAddrUnmapped, 0)
      | none, some p => some (stAddrProtected, protDetail s p)
      | none, none => none

/-- The ranges of a memory command's work: read, written. -/
def memRanges : Work → Option (Nat × Nat) × Option (Nat × Nat)
  | .memRead a n => (some (a, n), none)
  | .memWrite a n _ => (none, some (a, n))
  | .memFill a n _ => (none, some (a, n))
  | .memCopy a d n => (some (a, n), some (d, n))
  | _ => (none, none)

/-- A memory command begins, or ends with the refusal of its ranges. -/
def startMem (s : State) (x : Slot) (w : Work) : State :=
  match memRefusal s (memRanges w).1 (memRanges w).2 with
  | some r => replyBad s x r.1 r.2
  | none => setWork s x.sid w

/-- Split bytes into bulk packets' data of at most 4,088 B. -/
def bulkParts (bs : List Byte) : List (List Byte) :=
  (List.range (ceilDiv bs.length 4088)).map fun (i : Nat) => (bs.drop (4088 * i)).take 4088

/-- Queue data on the bulk channel under a command's tag, LAST on its last packet (R441); the command ends when that is sent. -/
def queueBulk (s : State) (x : Slot) (bs : List Byte) : State :=
  let ps := bulkParts bs
  let pkts := (List.range ps.length).map fun (i : Nat) =>
    let last := i + 1 == ps.length
    (⟨if last then some x.sid else none, false, true, leBytes 4 x.tag ++ leBytes 2 (b2n last) ++ leBytes 2 0 ++ ps.getD i []⟩ : Reply)
  onMp (setWork s x.sid .bulkOut) fun m => { m with bulkQ := m.bulkQ ++ pkts }

/-- An orphan bulk transfer (R78). -/
def bulkOrphan (s : State) : State := onMp s fun m => { m with bulkOrphan := satAdd 32 m.bulkOrphan 1 }

/-- Of the bytes received for the range from `a` to below `e`, how many can be written: every aligned 64-byte unit is written whole (R105). -/
def wholeUnits (a e len : Nat) : Nat := if len = e - a then len else len - min len ((a + len) % 64)

/-- The first `k` bytes of what bulk packets hold have been written: the flits of the packets of which nothing is left, and the packets that remain. -/
def writtenOff : Nat → List (Nat × List Byte) → Nat × List (Nat × List Byte)
  | _, [] => (0, [])
  | k, p :: ps =>
    if p.2.length ≤ k then let r := writtenOff (k - p.2.length) ps; (p.1 + r.1, r.2)
    else (0, (p.1, p.2.drop k) :: ps)

/-- Bulk packets that a slot keeps are discarded, and their credits go back (R442). -/
def dropBulk (s : State) (x : Slot) : State :=
  returnCredit (modSlot s x.sid fun y => { y with bulk := [] }) 2 (x.bulk.map (·.1)).sum

/-- Data of one bulk packet for a MEM_WRITE at work; what lies beyond LEN is an orphan (R104). The flits of a packet give their credits back when the last of
its data is written, or discarded (R442). The range is checked again with each packet, and a refusal leaves what was written before it (DESIGN CHOICE,
log entry 147). -/
def bulkMemWrite (s : State) (x : Slot) (a n got flits : Nat) (data : List Byte) : State :=
  let old := (x.bulk.map (·.2)).flatten
  let room := n - got - old.length
  let kept := x.bulk ++ [(flits, data.take room)]
  let all := old ++ data.take room
  let k := wholeUnits (a + got) (a + n) all.length
  let s1 := if room < data.length then bulkOrphan s else s
  let fail := fun (s : State) (r : Nat × Nat) => replyBad (dropBulk s { x with bulk := kept }) x r.1 r.2
  match memRefusal s1 none (some (a, n)) with
  | some r => fail s1 r
  | none =>
    match memWrite s1 (a + got) (all.take k) with
    | (s2, .error _) => fail s2 (stAddrUnmapped, 0)
    | (s2, .ok _) =>
      let w := writtenOff k kept
      let s3 := returnCredit (modSlot s2 x.sid fun y => { y with work := .memWrite a n (got + k), bulk := w.2 }) 2 w.1
      if got + k = n then replyOk s3 x [] else s3

/-- Data of one bulk packet for a FW_CHUNK at work. Its flits' credits are kept until the chunk is written or discarded; beyond the chunk it is an orphan
(R78, R442). -/
def bulkChunk (s : State) (x : Slot) (i t c flits : Nat) (old data : List Byte) : State :=
  if 4096 ≤ old.length then returnCredit (bulkOrphan s) 2 flits
  else
    let all := old ++ data.take (4096 - old.length)
    let s1 := if 4096 - old.length < data.length then bulkOrphan s else s
    let s2 := modSlot s1 x.sid fun y => { y with work := .fwChunk i t c (some all), bulk := y.bulk ++ [(flits, [])] }
    if all.length = 4096 then fwPump (enqueueChunk s2 (.cmd x.sid)) else s2

/-- Bulk data for a slot whose work has begun, or that has none for it; its flits' credits go back as it is written or discarded (R442). -/
def bulkData (s : State) (sid flits : Nat) (data : List Byte) : State :=
  match findSlot s sid with
  | none => returnCredit (bulkOrphan s) 2 flits
  | some x =>
    match x.work with
    | .memWrite a n got => bulkMemWrite s x a n got flits data
    | .fwChunk i t c d => bulkChunk s x i t c flits (d.getD []) data
    | _ => returnCredit (bulkOrphan s) 2 flits

/-- What arrived before the work began is taken now. -/
def takeBulk (s : State) (x : Slot) : State :=
  x.bulk.foldl (fun s d => bulkData s x.sid d.1 d.2) (modSlot s x.sid fun y => { y with bulk := [] })

/-! ### Programs and tasks (R107, R108, R112, R133) -/

/-- The image checks of R133: the DETAIL of the first that fails. The alignments and lengths that Table 05.4 gives the sections count with them. -/
def imageBad (image scratch : Nat) (b : List Byte) : Option Nat :=
  let co := getLe b 8 4
  let cl := getLe b 12 4
  let ro := getLe b 16 4
  let rl := getLe b 20 4
  let mt := getLe b 26 2
  if !(image % 2048 == 0 && getLe b 0 4 == 0x5A445047 && getLe b 4 2 == 1 && co % 4 == 0 && cl % 4 == 0 && decide (4 ≤ cl) &&
      decide (co + cl ≤ b.length) && (rl == 0 || (ro % 64 == 0 && decide (ro + rl ≤ b.length))) && decide (1 ≤ mt ∧ mt ≤ 1024) &&
      crc32c (b.take 60 ++ zeroBytes 4 ++ b.drop 64) == getLe b 60 4) then some 0
  else if scratch < getB b 24 then some 14
  else none

/-- PROG_LOAD. -/
def startProgLoad (s : State) (x : Slot) (b : List Byte) : State :=
  let image := getLe b 0 8
  let len := getLe b 8 4
  if (unmappedAt s image len).isSome then replyBad s x stAddrUnmapped 0
  else
    match memRead s image len with
    | (s1, .error _) => replyBad s1 x stAddrUnmapped 0
    | (s1, .ok img) =>
      match imageBad image (getB b 14) img with
      | some d => replyBad s1 x stBadParam d
      | none =>
        let p : Prog := ⟨image, len, getB b 14, getLe img 8 4, getLe img 12 4, getLe img 26 2⟩
        replyOk { s1 with progs := smIns s1.progs (getLe b 12 2) p } x []

/-- PROG_UNLOAD. -/
def startProgUnload (s : State) (x : Slot) (b : List Byte) : State :=
  replyOk { s with progs := smDel s.progs (getLe b 0 2) } x []

/-- TASK_SUBMIT at its arrival: refused under R49 or R54, or waiting. -/
def startTask (s : State) (x : Slot) (ordered : Bool) (tnb : Option Nat) (b : List Byte) : State :=
  let k : Task :=
    { sid := x.sid, tag := x.tag, teams := getLe b 0 32, budget := getLe b 32 4, phase := getB b 36, handle := getLe b 38 2,
      entry := getLe b 40 4, threads := getLe b 44 2, arg := getLe b 48 8, epoch := getLe b 56 8, footprint := getLe b 64 8, tnb := tnb,
      step := if x.stepValid then some x.step else none, ordered := ordered }
  match arrivalRefusal s k with
  | some r => replyBad s x r.1 r.2
  | none => onTick (setWork s x.sid .task) fun t => { t with tasks := t.tasks ++ [k] }

/-- A TASK_SUBMIT that a hold still keeps. -/
def heldTask (x : Slot) : Bool := match x.work with | .held _ op => op == 0x0303 | _ => false

/-- TASK_CANCEL (R112). -/
def startCancel (s : State) (x : Slot) (b : List Byte) : State :=
  let tag := getLe b 0 4
  match s.tick.tasks.find? fun k => k.tag == tag && !k.admitted with
  | some k => finalReply (refuseTask s k stCancelled 0) x.sid stOk 1 []
  | none =>
    match s.mp.slots.find? fun y => y.tag == tag && heldTask y with
    | some y => finalReply (replyBad s y stCancelled 0) x.sid stOk 1 []
    | none => replyOk s x []

/-! ### Training step (R113 to R117) -/

/-- TENSOR_DEFINE: the reply, and then the work of R372. -/
def startDefine (s : State) (x : Slot) (b : List Byte) : State :=
  let t := tensorOf b
  let s1 := replyOk (onStep s fun u => { u with tensors := u.tensors ++ [t] }) x []
  if isWeight t then defineWork s1 t else s1

/-- TENSOR_DROP waits for the next fence to complete. -/
def startDrop (s : State) (x : Slot) (b : List Byte) : State :=
  onTensor (setWork s x.sid (.tensorDrop (getLe b 0 4))) (getLe b 0 4) fun t => { t with dropping := some (t.dropping.getD x.sid) }

/-- Is the pack's release older than the slot? -/
def releasedBefore (p : Pack) (sid : Nat) : Bool := match p.releasing with | some r => decide (r < sid) | none => false

/-- STEP_FENCE (R116): the votes of R364 may follow, and what was held for the fence is decided. -/
def startFence (s : State) (x : Slot) (b : List Byte) : State :=
  let refuse := fun (status : Nat) => fenceRefused (replyBad s x status 0) x
  if !x.stepValid then refuse stStepOrder
  else
    match findPack s (getLe b 0 4) with
    | none => refuse stPackUnknown
    | some p =>
      if releasedBefore p x.sid then refuse stPackUnknown
      else if (match p.lastFenced with | some n => x.step != n + 1 | none => false) then refuse stStepOrder
      else
        let s1 := setWork s x.sid (.fence p.id x.step)
        let s2 := onPS (onPack s1 p.id fun p => { p with lastFenced := some x.step }) p.id x.step fun y =>
          { y with fence := some x.sid, fenceAt := x.at_ }
        let s3 := (packTensors s2 p).foldl (fun s t => shardCheck s p x.step t) s2
        voteCheck s3 p.id x.step

/-- Begin the EVAL_SNAPSHOT that waits longest, when none runs (R337). -/
def snapshotPump (s : State) : State :=
  if s.step.snapshot.isSome then s
  else
    match s.mp.slots.find? fun x => x.work == .snapshot with
    | some x =>
      let before := (s.step.switch.map (·.step)).toList ++ (fencedSteps s).filter (allDecided s)
      onStep s fun u => { u with snapshot := some { sid := x.sid, epoch := u.epochCur, before := before } }
    | none => s

/-! ### Packs (R117, R342, R426) -/


/-- The pack of a table (Table 15.9). -/
def packOfTable (id : Nat) (b : List Byte) : Pack :=
  let n := getLe b 8 4
  { id := id, n := n, me := getLe b 12 4, v6 := bit (getLe b 6 2) 0,
    members := (List.range n).map fun m => (List.range 6).map fun h => getBe b (256 + 96 * m + 16 * h) 16,
    ports := (List.range 6).map fun h => getLe b (20 + 2 * h) 2,
    extents := (List.range 6).map fun h => (getLe b (64 + 16 * h) 8, getLe b (72 + 16 * h) 8),
    groups := (List.range 6).map fun h => getBe b (160 + 16 * h) 16,
    tensors := (List.range (getLe b 16 4)).map fun i => getLe b (256 + 96 * n + 4 * i) 4 }

/-- Ports that a pack lists: hub and port. -/
def packListed (p : Pack) : List (Nat × Nat) :=
  (List.range 6).flatMap fun h => ((List.range 16).filter fun q => bit (p.ports.getD h 0) q).map fun q => (h, q)

/-- The head of a table: MAGIC, VERSION, lengths, N and SELF. -/
def tableHeadOk (b : List Byte) (len : Nat) : Bool :=
  let n := getLe b 8 4
  let k := getLe b 16 4
  getLe b 0 4 == 0x5A504B54 && getLe b 4 2 == 1 && decide (1 ≤ n ∧ n ≤ 16384) && decide (getLe b 12 4 < n) && decide (1 ≤ k ∧ k ≤ 65536) &&
  len == 256 + 96 * n + 4 * k

/-- The rest of the refusals of R342 and R426. -/
def packOk (s : State) (p : Pack) : Bool :=
  (p.tensors.all fun id => (match findTensor s id with | some t => isWeight t | none => false) && (packOf s id).isNone) &&
  ((packListed p).all fun q => portMapped s q.1 q.2 && (if p.v6 then portV6 s q.1 q.2 != 0 else portV4 s q.1 q.2 != 0)) &&
  p.groups.all (isMulticast p.v6)

/-- A hub joins or leaves its group on its listed ports (R416). -/
def groupMove (s : State) (p : Pack) (join : Bool) : State :=
  ((packListed p).filter fun q => hubFitted s q.1).foldl (fun s q =>
    emit s q.1 q.2 (if join then .groupJoin q.1 q.2 (p.groups.getD q.1 0) else .groupLeave q.1 q.2 (p.groups.getD q.1 0))) s

/-- PACK_DEFINE: the shadow extents become the hub's own, so cached lines of them are written back first (R374, R289). -/
def startPackDefine (s : State) (x : Slot) (b : List Byte) : State :=
  let len := getLe b 4 4
  let a := getLe b 8 8
  if (unmappedAt s a len).isSome then replyBad s x stAddrUnmapped 0
  else
    match memRead s a len with
    | (s1, .error _) => replyBad s1 x stAddrUnmapped 0
    | (s1, .ok t) =>
      let p := packOfTable (getLe b 0 4) (if tableHeadOk t len then t else [])
      if !tableHeadOk t len || !packOk s1 p then replyBad s1 x stBadParam 8
      else
        let s2 := p.extents.foldl (fun s e => if e.2 = 0 then s else flushRange s e.1 e.2) s1
        let s3 := onStep s2 fun u => { u with packs := u.packs ++ [p] }
        replyOk (groupMove s3 p true) x []

/-- Is a STEP_FENCE of the pack, accepted before its release, outstanding: has its final reply not been sent (R77)? -/
def fenceOpen (s : State) (pack rel : Nat) : Bool :=
  s.mp.slots.any fun x => decide (x.sid < rel) && x.opcode == 0x0403 && x.ref == pack

/-- Remove a pack and what its streams hold; an update that runs ends, with its NaN report (R269). -/
def removePack (s : State) (p : Pack) : State :=
  let s1 := onEth (groupMove (p.tensors.foldl (fun s t => reportEnds s p t) s) p false) fun e =>
    { e with sends := e.sends.filter fun x => x.pack != p.id, recvs := e.recvs.filter fun x => x.pack != p.id,
             scales := e.scales.filter fun x => x.pack != p.id }
  protUpdate (onStep s1 fun u => { u with packs := u.packs.filter fun q => q.id != p.id })

/-- Releases that nothing holds back complete (R117). -/
def releasePump (s : State) : State :=
  skipReplies <| (s.step.packs.filter fun p => match p.releasing with | some r => !fenceOpen s p.id r | none => false).foldl (fun s p =>
    (s.mp.slots.filter fun x => x.work == .packRelease p.id).foldl (fun s x => replyOk s x []) (removePack s p)) s

/-- PACK_RELEASE. -/
def startRelease (s : State) (x : Slot) (b : List Byte) : State :=
  match findPack s (getLe b 0 4) with
  | none => replyBad s x stPackUnknown 0
  | some p =>
    releasePump (onPack (setWork s x.sid (.packRelease p.id)) p.id fun q => { q with releasing := some (q.releasing.getD x.sid) })

/-- RC_OPEN (R413): the port must be UP, and the hub have one of its 1,024 connections free (R411). -/
def startRcOpen (s : State) (x : Slot) (b : List Byte) : State :=
  let k := getB b 0
  let q := getB b 1
  if !portUp s k q then replyBad s x stLinkDown (portNo k q)
  else if 1024 ≤ (s.eth.conns.filter fun c => c.hub == k).length then replyBad s x stBadParam 0
  else
    let r := openConn s k q (bit (getB b 2) 0) (getLe b 4 4 % 2 ^ 24) (getLe b 8 16) (getLe b 24 4 % 2 ^ 24)
    replyOk r.1 x (leBytes 4 r.2.qpn ++ leBytes 4 r.2.sendPsn ++ leBytes 4 r.2.rkey ++ leBytes 4 0)

/-- RC_CLOSE (R413): ends once nothing is in flight. A second close of a connection ends with the first. -/
def startRcClose (s : State) (x : Slot) (b : List Byte) : State :=
  let q := getLe b 0 4
  let hub := ((findConn s q).map (·.hub)).getD 0
  closeCheck (onConn (setWork s x.sid (.rcClose hub q)) q fun c => { c with closing := some (c.closing.getD x.sid) }) q

/-! ### Firmware, thermal, diagnostics and bring-up -/

/-- FW_ARM (R526). -/
def startArm (s : State) (x : Slot) : State := replyOk (onFw s fun f => { f with armed := true }) x []

/-- THERM_READ (R498). -/
def startThermRead (s : State) (x : Slot) (b : List Byte) : State :=
  replyOk s x ((natsFrom (getLe b 0 2) (getLe b 2 2)).flatMap fun i => leBytes 4 (sensorWord s i))

/-- THERM_WAIVE (R503). -/
def startWaive (s : State) (x : Slot) (b : List Byte) : State :=
  let i := getLe b 0 2
  replyOk (onTherm s fun t => { t with waived := t.waived ++ [i], suspect := t.suspect.filter (· != i) }) x []

/-- DIAG_SCAN (R488): a scan of a layer already being scanned ends with that one. -/
def startScan (s : State) (x : Slot) (b : List Byte) : State :=
  let n := getB b 0
  let swap := bit (getB b 1) 0
  onRelSt (setWork s x.sid (.scan n swap)) fun r =>
    { r with scans := if r.scans.any (fun y => y.layer == n) then r.scans else r.scans ++ [{ layer := n, swap := swap }] }

/-- TOPO_ACCEPT (R465, R122): in READY it has no effect. -/
def startAccept (s : State) (x : Slot) : State :=
  if s.dev.state ≠ 1 then replyOk s x [] else acceptTopology (setWork s x.sid .accept) x.sid

/-- TOPO_ABANDON (R466, R122): in READY it has no effect. -/
def startAbandon (s : State) (x : Slot) : State :=
  if s.dev.state = 2 then replyOk s x [] else abandonTopology (setWork s x.sid .abandon)

/-! ### Reset (R84) -/

/-- The outstanding commands other than the reset are cancelled, in order of acceptance, tasks stop, and the reset has its reply. A STEP_FENCE so ended
closes its step (R275), and bulk packets kept for a command are discarded (R442). -/
def cancelAll (s : State) (sid : Nat) : State :=
  let s1 := s.mp.slots.foldl (fun s x =>
    if x.sid = sid ∨ x.work = .done then s
    else
      let s1 := if isLong x.opcode then ackSlot s x.sid else s
      let s2 := (s1.tick.tasks.filter fun k => k.sid == x.sid).foldl stopTask s1
      fenceRefused (finalReply (dropBulk s2 x) x.sid stCancelled 0 []) x) s
  finalReply (onMp s1 fun m => { m with commit := none, commitExpired := false }) sid stOk 0 []

/-- DEV_RESET: the ramp-down begins, or outside READY the cancellations follow at once. -/
def startReset (s : State) (x : Slot) : State :=
  let s1 := onMp (setWork s x.sid .reset) fun m => { m with resetting := true }
  if s.dev.state = 2 then s1 else cancelAll s1 x.sid

end Sys2Proof.Machine
end

