-- ==== Sys2Proof/Machine/Mp.lean ====
section
/-! DEFINITION. The management processor's packets: arrival and the checks of Table 03.4, slots (R71), holds (R74, R75, R84, R88 to R91), the start of
held work, bulk packets (R78, R441), replies (R82), and the device reset (R84, R439). -/

namespace Sys2Proof.Machine

/-! ### Packets -/

/-- The first 24 bytes of a packet (Table 03.2). -/
def hdrBytes (op : Nat) (p : Pkt) : List Byte :=
  leBytes 2 op ++ leBytes 2 p.flags.toNat ++ leBytes 4 p.tag.toNat ++ leBytes 4 p.paramLen.toNat ++ leBytes 4 p.tnb.toNat ++ leBytes 8 p.step.toNat

def pktMgmt (p : Pkt) : Bool := p.chan == .management
def pktOrdered (p : Pkt) : Bool := bit p.flags.toNat 2
def pktTnb (p : Pkt) : Option Nat := if bit p.flags.toNat 1 then some p.tnb.toNat else none

/-- Discard a packet at checks 1 to 3. Of a packet shorter than 24 bytes the event's body is filled up with zeros (DESIGN CHOICE, log entry 174). -/
def malformedPkt (s : State) (status : Nat) (hdr : List Byte) : State :=
  onMp (sendEvent s status 0x0011 (fitBytes 24 hdr)) fun m => { m with malformed := satAdd 32 m.malformed 1 }

/-- Checks 4 to 9: status and DETAIL of the first that fails. -/
def pktRefusal (s : State) (op : Nat) (p : Pkt) : Option (Nat × Nat) :=
  if p.params.length ≠ p.paramLen.toNat ∨ 4064 < p.paramLen.toNat ∨ p.paramLen.toNat % 4 ≠ 0 then some (stBadLength, 0)
  else if s.mp.slots.any fun x => x.tag == p.tag.toNat then some (stTagInUse, 0)
  else
    match opInfo op with
    | none => some (stBadOpcode, 0)
    | some i =>
      if p.paramLen.toNat < i.lo ∨ i.hi < p.paramLen.toNat then some (stBadOpcode, 0)
      else if pktMgmt p && !mgmtGroup op then some (stWrongVc, 0)
      else
        match stateRefusal s i with
        | some r => some r
        | none => (paramBad s op p.params).map fun d => (stBadParam, d)

/-! ### Holds -/

/-- Does a CS_WRITE set mask bits of SH fields? -/
def touchesSh (b : List Byte) : Bool :=
  match shAt (getLe b 0 8) with
  | some w => (getLe b 16 8 &&& shMask w.fields) != 0
  | none => false

/-- Held behind a pending commit (R88, R90, R91). -/
def commitHeld (s : State) (op : Nat) (b : List Byte) : Bool :=
  s.mp.commit.isSome && (op == 0x0103 || op == 0x0104 || (op == 0x0102 && touchesSh b))

/-- Accepted after a DEV_RESET that runs (R84). -/
def resetHeld (s : State) (sid : Nat) : Bool :=
  s.mp.resetting && (match s.mp.slots.find? fun x => x.work == .reset with | some r => decide (r.sid < sid) | none => true)

/-- Is an earlier short command of the channel still held, for another reason than a pending commit? Short commands of a channel take effect in arrival
order (R82), but a command that writes no SH field is not held behind a write that is (R88). -/
def shortBehind (s : State) (x : Slot) (op : Nat) : Bool :=
  !isLong op && s.mp.slots.any fun y => decide (y.sid < x.sid) && y.mgmt == x.mgmt &&
    (match y.work with | .held p o => !isLong o && !commitHeld s o p.params | _ => false)

/-- Does the boundary window hold packets back? It ends at t = 3 µs, before anything that happens then (R38, R89). -/
def windowHolds (s : State) : Bool :=
  s.mp.inWindow && (!s.tick.running || decide (s.now < s.tick.acc.openedAt + 3 * usUnits))

/-- Must the work of an accepted command wait? A TASK_SUBMIT waits for ORDERED and TICK_NOT_BEFORE at its admission (R50), a CS_COMMIT for its
TICK_NOT_BEFORE at its boundary. Outside READY, where no tick runs, no TICK_NOT_BEFORE holds a command back: R99 for the opcodes of state
A, a DESIGN CHOICE for TOPO_ACCEPT and TOPO_ABANDON (log entry 174). A CS_COMMIT that ORDERED holds is not pending yet (DESIGN CHOICE, log entry 182). -/
def mustHold (s : State) (x : Slot) (op : Nat) (p : Pkt) : Bool :=
  windowHolds s || resetHeld s x.sid || commitHeld s op p.params || shortBehind s x op ||
  (op != 0x0303 && ((pktOrdered p && !orderedMet s x.mgmt x.sid) || (op != 0x0103 && s.dev.state == 2 && !tnbMet s (pktTnb p))))

/-! ### Starts -/

/-- The work of an opcode. -/
def startWork (s : State) (x : Slot) (op : Nat) (p : Pkt) : State :=
  let b := p.params
  match op with
  | 0x0001 => replyOk s x (identifyPayload s)
  | 0x0002 => startReset s x
  | 0x0003 => replyOk s x b
  | 0x0101 => startCsRead s x b
  | 0x0102 => startCsWrite s x b
  | 0x0103 => startCommit s x (pktTnb p)
  | 0x0104 => replyOk (discardShadow s) x []
  | 0x0201 => startMem s x (.memRead (getLe b 0 8) (getLe b 8 4))
  | 0x0202 => startMem s x (.memWrite (getLe b 0 8) (getLe b 8 4) 0)
  | 0x0203 => startMem s x (.memFill (getLe b 0 8) (getLe b 8 4) (getLe b 16 8))
  | 0x0204 => startMem s x (.memCopy (getLe b 0 8) (getLe b 8 8) (getLe b 16 4))
  | 0x0205 => replyOk (syncPut s (getLe b 0 2) (getLe b 4 4)) x []
  | 0x0206 => replyOk s x (leBytes 4 (syncCount s (getLe b 0 2)))
  | 0x0207 => setWork s x.sid (.streamWait (getLe b 0 2))
  | 0x0301 => startProgLoad s x b
  | 0x0302 => startProgUnload s x b
  | 0x0303 => startTask s x (pktOrdered p) (pktTnb p) b
  | 0x0304 => startCancel s x b
  | 0x0401 => startDefine s x b
  | 0x0402 => startDrop s x b
  | 0x0403 => startFence s x b
  | 0x0404 => replyOk s x (epochBytes s)
  | 0x0405 => snapshotPump (setWork s x.sid .snapshot)
  | 0x0501 => startPackDefine s x b
  | 0x0502 => startRelease s x b
  | 0x0503 => replyOk s x (portPayload s (getB b 0) (getB b 1))
  | 0x0504 => startRcOpen s x b
  | 0x0505 => startRcClose s x b
  | 0x0601 => setWork s x.sid (.fwChunk (getLe b 0 4) (getLe b 4 4) (getLe b 8 4) (some []))
  | 0x0602 => finalReply s x.sid s.fw.lastCheck 0 (fwStatusPayload s)
  | 0x0603 => startArm s x
  | 0x0604 => replyOk s x (attestReport s b)
  | 0x0605 => replyOk s x pubkeyPayload
  | 0x0701 => startThermRead s x b
  | 0x0702 => startWaive s x b
  | 0x0703 => replyOk s x (teamsPayload s)
  | 0x0704 => startScan s x b
  | 0x0801 => replyOk s x (bringPayload s)
  | 0x0802 => queueBulk s x (topoReport s)
  | 0x0803 => startAccept s x
  | 0x0804 => startAbandon s x
  | _ => s

/-- Bulk transfers of a command that takes none: they are discarded, and their credits go back (R442). -/
def orphans (s : State) (ds : List (Nat × List Byte)) : State := ds.foldl (fun s d => returnCredit (bulkOrphan s) 2 d.1) s

/-- What arrived for a slot before its work began is taken. -/
def drainBulk (s : State) (sid : Nat) : State :=
  match findSlot s sid with
  | some x => if x.bulk.isEmpty then s else takeBulk s x
  | none => s

/-- The state refusal when the work of a slot begins. A TOPO_ABANDON accepted in TOPOLOGY_HOLD has made the part ABANDONED itself (R466). -/
def beginRefusal (s : State) (op : Nat) : Option (Nat × Nat) :=
  if op = 0x0804 ∧ s.dev.state = 3 then none else (opInfo op).bind (stateRefusal s)

/-- Begin the work of a slot; its parameters and the device state are checked again, since they may have changed while it waited. -/
def beginSlot (s : State) (x : Slot) (op : Nat) (p : Pkt) : State :=
  let s1 := if isLong op then ackSlot s x.sid else s
  match beginRefusal s1 op, paramBad s1 op p.params with
  | some r, _ => fenceRefused (finalReply s1 x.sid r.1 r.2 []) x
  | none, some d => fenceRefused (finalReply s1 x.sid stBadParam d []) x
  | none, none => startWork s1 x op p

/-- Begin a held slot if nothing holds it any more. -/
def tryStart (s : State) (sid : Nat) : State :=
  match findSlot s sid with
  | none => s
  | some x =>
    match x.work with
    | .held p op => if mustHold s x op p then s else drainBulk (beginSlot s x op p) sid
    | _ => s

/-! ### Acceptance -/

/-- What the slot of a TASK_SUBMIT or of a STEP_FENCE names. -/
def refOf (op : Nat) (b : List Byte) : Nat := if op = 0x0303 then getLe b 38 2 else if op = 0x0403 then getLe b 0 4 else 0

/-- The slot of an accepted packet. -/
def slotOf (s : State) (op : Nat) (p : Pkt) (bulk : List (Nat × List Byte)) : Slot :=
  { sid := s.mp.nextSid, mgmt := pktMgmt p, tag := p.tag.toNat, stepValid := bit p.flags.toNat 0, step := p.step.toNat, opcode := op, acked := false,
    work := .held p op, bulk := bulk, at_ := s.now, ref := refOf op p.params }

/-- A packet that passes checks 1 to 3 takes a slot: it is refused at checks 4 to 9, or acknowledged and begun if nothing holds it. A CS_COMMIT
behind a pending one is not acknowledged yet (R91). A TOPO_ABANDON accepted in TOPOLOGY_HOLD makes the part ABANDONED at once, whatever delays its
work (R466). -/
def acceptPkt (s : State) (op : Nat) (p : Pkt) (bulk : List (Nat × List Byte)) : State :=
  let refusal := pktRefusal s op p
  let x := slotOf s op p (if refusal.isSome then [] else bulk)
  let s1 := fenceSeen (onMp s fun m => { m with nextSid := m.nextSid + 1, slots := m.slots ++ [x] }) x
  match refusal with
  | some r => orphans (fenceRefused (finalReply s1 x.sid r.1 r.2 []) x) bulk
  | none =>
    let s2 := if op = 0x0804 ∧ s.dev.state = 1 then onDev s1 fun d => { d with state := 3 } else s1
    tryStart (if isLong op && (!commitHeld s op p.params || s.mp.resetting) then ackSlot s2 x.sid else s2) x.sid

/-- Checks 1 to 3 of Table 03.4: the status of the first that fails, and the bytes of the header. -/
def malformedAs (w : RxPkt) : Option (Nat × List Byte) :=
  let hdr := hdrBytes w.opcode w.pkt
  match w.short with
  | some bs => some (stBadLength, bs)
  | none =>
    if w.pkt.crc.toNat ≠ crc32c hdr then some (stBadCrc, hdr)
    else if w.pkt.tag.toNat = 0xFFFFFFFF then some (stTagReserved, hdr)
    else none

/-- The credits of a packet that is taken or discarded go back (R442). -/
def pktCredit (s : State) (w : RxPkt) : State := returnCredit s (if pktMgmt w.pkt then 3 else 0) w.flits

/-- One packet from the receive buffer (R76). -/
def takePkt (s : State) (w : RxPkt) : State := pktCredit (acceptPkt s w.opcode w.pkt w.bulk) w

/-- May the packet be taken: a slot of its channel is free (R71), outside the boundary window (R89)? -/
def takeable (s : State) (w : RxPkt) : Bool :=
  !windowHolds s && !slotsFull s (pktMgmt w.pkt)

/-- Take the packets that wait, each channel in order of arrival. -/
def rxPump : Nat → State → State
  | 0, s => s
  | k + 1, s =>
    match s.mp.rxWait.find? (takeable s) with
    | none => s
    | some w => rxPump k (takePkt (onMp s fun m => { m with rxWait := m.rxWait.erase w }) w)

/-- Begin what nothing holds any more, in order of acceptance, and take what waits. -/
def pump (s : State) : State :=
  let s1 := (s.mp.slots.map (·.sid)).foldl tryStart s
  let s2 := rxPump s1.mp.rxWait.length s1
  snapshotPump (releasePump s2)

/-- A packet has arrived whole: checks 1 to 3 come before anything that follows it (R441), and it waits for a slot after them. -/
def arrivePkt (s : State) (w : RxPkt) : State :=
  match malformedAs w with
  | some r => pump (pktCredit (orphans (malformedPkt s r.1 r.2) w.bulk) w)
  | none => pump (onMp s fun m => { m with rxWait := m.rxWait ++ [w] })

/-- A command's row: its packet arrives, over a link that is UP (R436). -/
def cmdRow (op : Nat) (p : Pkt) (s : State) : Out := .next (if bxlUp s then arrivePkt s { opcode := op, pkt := p } else s)

/-! ### Bulk -/

/-- Does an opcode take bulk data? -/
def takesBulk (op : Nat) : Bool := op == 0x0202 || op == 0x0601

/-- The slot that takes bulk data of a tag. -/
def bulkSlot (s : State) (tag : Nat) : Option Slot := s.mp.slots.find? fun x => x.tag == tag && takesBulk x.opcode && x.work != .done
/-- Does a waiting packet take bulk data of a tag? -/
def bulkWaits (tag : Nat) (w : RxPkt) : Bool := w.pkt.tag.toNat == tag && takesBulk w.opcode && w.short.isNone
/-- Is there a command for bulk data of a tag (R78)? -/
def bulkKnown (s : State) (tag : Nat) : Bool := (bulkSlot s tag).isSome || s.mp.rxWait.any (bulkWaits tag)

/-- Give a bulk packet to the first waiting packet that takes it. -/
def addBulk (tag : Nat) (d : Nat × List Byte) : List RxPkt → List RxPkt
  | [] => []
  | w :: ws => if bulkWaits tag w then { w with bulk := w.bulk ++ [d] } :: ws else w :: addBulk tag d ws

/-- A bulk packet has arrived: for a command at work, one that is held, or one whose packet still waits; else it is an orphan (R78). Its flits' credits
go back once its data is written or discarded (R442). -/
def arriveBulk (s : State) (tag flits : Nat) (data : List Byte) : State :=
  match bulkSlot s tag with
  | some x =>
    (match x.work with
      | .held _ _ => modSlot s x.sid fun y => { y with bulk := y.bulk ++ [(flits, data)] }
      | _ => bulkData s x.sid flits data)
  | none =>
    if s.mp.rxWait.any (bulkWaits tag) then onMp s fun m => { m with rxWait := addBulk tag (flits, data) m.rxWait }
    else returnCredit (bulkOrphan s) 2 flits

/-- BULK_PACKET: at most 4,088 B of data (Table 16.6). -/
def execBulkPacket (tag : W32) (_flags : W16) (data : List Byte) (s : State) : Out :=
  .next (if bxlUp s then pump (arriveBulk s tag.toNat 0 (data.take 4088)) else s)

/-! ### Memory commands finish (R103 to R105) -/

/-- The repeated pattern of MEM_FILL. -/
def fillBytes (pat len : Nat) : List Byte := (List.range len).map fun i => BitVec.ofNat 8 (pat / 2 ^ (8 * (i % 8)))

/-- Move the bytes of a memory command; its ranges are checked again. -/
def finishMem (s : State) (x : Slot) : State :=
  match memRefusal s (memRanges x.work).1 (memRanges x.work).2 with
  | some r => replyBad s x r.1 r.2
  | none =>
    let write := fun (r : MRes Unit) => match r with | (s1, .ok _) => replyOk s1 x [] | (s1, .error _) => replyBad s1 x stAddrUnmapped 0
    match x.work with
    | .memRead a n =>
      (match memRead s a n with
        | (s1, .ok bs) => queueBulk s1 x bs
        | (s1, .error _) => replyBad s1 x stAddrUnmapped 0)
    | .memFill a n pat => write (memWrite s a (fillBytes pat n))
    | .memCopy a d n =>
      (match memRead s a n with
        | (s1, .ok bs) => write (memWrite s1 d bs)
        | (s1, .error _) => replyBad s1 x stAddrUnmapped 0)
    | _ => s

/-- Is a slot's work a MEM_READ, MEM_FILL or MEM_COPY? -/
def movesMem (x : Slot) : Bool :=
  match x.work with
  | .memRead _ _ => true
  | .memFill _ _ _ => true
  | .memCopy _ _ _ => true
  | _ => false

/-- MEMORY_COMMAND_COMPLETE. -/
def execMemoryCommandComplete (tag : W32) (s : State) : Out :=
  match s.mp.slots.find? fun x => x.tag == tag.toNat && movesMem x with
  | some x => .next (pump (finishMem s x))
  | none => .next s

/-! ### Replies (R82) -/

/-- Is a reply the ST_OK of a DEV_RESET? -/
def isResetReply (s : State) (r : Reply) : Bool :=
  match r.sid.bind (findSlot s) with
  | some x => x.opcode == 2 && getLe r.bytes 4 2 == stOk
  | none => false

/-- A reply has been sent: its slot is free, and a reset takes effect within 1 ms (R439). -/
def replySent (s : State) (r : Reply) (reset : Bool) : State :=
  let s1 := match r.sid with
    | some sid => onMp s fun m => { m with slots := m.slots.filter fun x => x.sid != sid }
    | none => s
  if reset then onMp s1 fun m => { m with resetAt := some (s.now + msUnits) } else s1

/-- Send the oldest reply of a channel if credits allow. -/
def sendReply (s : State) (mgmt : Bool) : State :=
  match (if mgmt then s.mp.mgmtQ else s.mp.replyQ) with
  | [] => s
  | r :: rest =>
    match trySend s (if mgmt then 3 else 1) r.bytes (isResetReply s r) with
    | none => s
    | some s1 =>
      replySent (onMp s1 fun m => if mgmt then { m with mgmtQ := rest } else { m with replyQ := rest }) r (isResetReply s r)

/-- Send bulk packets as credits allow; the last one of a command lets it end (R104). -/
def sendBulk : Nat → State → State
  | 0, s => s
  | k + 1, s =>
    match s.mp.bulkQ with
    | [] => s
    | r :: rest =>
      match trySend s 2 r.bytes false with
      | none => s
      | some s1 =>
        let s2 := onMp s1 fun m => { m with bulkQ := rest }
        sendBulk k (match r.sid with | some sid => finalReply s2 sid stOk 0 [] | none => s2)

/-- REPLY_SEND: bulk data that waits goes first, on its own channel. -/
def execReplySend (mgmt : Bool) (s : State) : Out :=
  .next (if bxlUp s then pump (sendCredits (sendReply (sendBulk s.mp.bulkQ.length s) mgmt)) else s)

/-- EVENT_QUEUE_SPACE. -/
def execEventQueueSpace (s : State) : Out := .next (eventSpace s)

/-! ### Reset (R64, R84, R439) -/

/-- RESET_RAMP_DONE: the target has come down to the least draw. -/
def execResetRampDone (s : State) : Out :=
  match s.mp.slots.find? fun x => x.work == .reset with
  | some x => .next (if s.mp.resetting && decide (s.tick.targetU ≤ s.tick.minW * wUnits) then cancelAll s x.sid else s)
  | none => .next s

/-- RESET_EFFECT. -/
def execResetEffect (s : State) : Out :=
  match s.mp.resetAt with
  | some t => .next (if t ≤ s.now then restartDevice s 1 else s)
  | none => .next s

end Sys2Proof.Machine
end

