-- ==== Sys2Proof/Machine/Boundary.lean ====
section
/-! DEFINITION. The tick boundary (R41) with what follows the decisions of a step there (R317, R388, R393, R398), and the other events of the tick. -/

namespace Sys2Proof.Machine

/-! ### Closing the accounting (R41 step 1) -/

/-- What the meters gave goes to the step of the tick record, with its flags (Table 12.5). -/
def bookMeter (s : State) (m : Meter) : State :=
  let a := s.tick.acc
  let n := consumedOf s m + m.uncontrolled
  let fl := b2n (bit a.flags 6) + 2 * b2n (bit a.flags 1) + 8 * b2n (bit a.flags 3)
  onOpen s s.tick.curStep fun o => { o with tokens := o.tokens + n, flags := o.flags ||| fl }

/-- Count the lost time of the tick (R340). -/
def bookLost (s : State) : State :=
  if s.tick.lostTime then onWatch (onTick s fun k => { k with lostTime := false }) fun w => { w with ledDrop := satAdd 32 w.ledDrop 1 } else s

/-- Close the accounting of the tick that ends, with its record. -/
def closeTick (s : State) (m : Meter) : State :=
  let s1 := (List.range 256).foldl bookTeam (checkOverruns s)
  let carry := (maskTeams (carryTeams s1)).length
  let s2 := drawFlags (carryAll s1) m
  let s3 := if s2.tick.acc.replay.isEmpty then s2 else setFlag s2 6
  let s4 := bookLost (bookMeter (writeTickRecord s3 m carry) m)
  let len := s4.tick.curLen
  onTick (windowAdd s4 m len) fun k => { k with drawW := m.drawW, lastUncontrolled := m.uncontrolled, lastLen := len }

/-- The next tick begins: its number, TICK_OUT, its window. -/
def openTick (s : State) : State :=
  let s1 := onTick s fun k =>
    { k with count := k.count + 1, tickOut := true, inMargin := false, acts := [], acc := { openedAt := s.now } }
  windowOpen (onMp s1 fun m => { m with inWindow := true })

/-! ### Commit and grid (R41 step 2, R46, R48) -/

/-- Apply a pending commit, compare the boundary with the grid, and give the tick its length. A commit that changes the source ends the lock without
a comparison; the comparison is made with the grid in force before the commit. A slew that the boundary finds is dropped, with its flag, where the tick
that opens is a commit's bridge tick (DESIGN CHOICE, log entry 157). -/
def gridStep (s : State) : State :=
  let old := (cfgInterval s, cfgPhase s, cfgSource s)
  let s0 := commitStep s
  if cfgSource s0 ≠ old.2.2 then
    let s1 := (reconfigGrid s0 old).1
    onTick (setFlag s1 0) fun k => { k with curLen := bridgeLen s1 }
  else
    let a := syncCheck s
    let s1 := commitStep a.1
    let g := reconfigGrid s1 old
    if g.2 || a.2.1 then
      let s2 := onAcc (setFlag g.1 0) fun c => { c with flags := c.flags - 16 * b2n (bit c.flags 4) }
      onTick s2 fun k => { k with curLen := bridgeLen s2 }
    else onTick g.1 fun k => { k with curLen := (3000 * cfgInterval g.1 + a.2.2 : Int).toNat }

/-! ### Decisions (R393, R398, R388) -/

/-- Need the tensor's update not be waited for: it has finished, has failed after the decision, or there is none? -/
def updSettled (s : State) (x : PackStep) (t : Tensor) : Bool :=
  !hubFitted s t.hub || noTrained x t ||
  x.updates.any fun u => u.tensor == t.id && (match u.phase with | .finished => true | .failed _ => u.late | .running => false)

/-- Can the decision of a step be applied now? -/
def canApply (s : State) (p : Pack) (x : PackStep) : Bool :=
  match x.decision with
  | none => false
  | some d => !x.applied && (!d.1 || (packTensors s p).all (updSettled s x))

/-- A commit switches a tensor to its shadow slot, and a copy-back begins. -/
def commitTensor (p : Pack) (s : State) (u : Update) : State :=
  match findTensor s u.tensor with
  | none => s
  | some t =>
    let sh := u.shadow.getD 0
    let st := readHeader s t 0 8
    let s1 := putHeader (putHeader st.1 t 8 8 sh) t 0 8 (st.2 ||| 1)
    onStep s1 fun x => { x with copyBacks := x.copyBacks ++ [⟨t.id, p.id, sh⟩] }

/-- Apply the decision of one step of a pack: a skip leaves the slots as they are, stops the updates that run and frees what is held. -/
def applyDecision (s : State) (p : Pack) (x : PackStep) : State :=
  let done := x.updates.filter fun u => u.phase == .finished
  let s2 := if committed x then done.foldl (commitTensor p) s else (packTensors s p).foldl (fun s t => reportRows s p x t) s
  let s3 := onPS s2 p.id x.step fun y => { y with applied := true, updates := [], tensors := [] }
  protUpdate ((packTensors s3 p).foldl (fun s t =>
    if t.rule = 4 ∧ t.refresh ≠ 0 ∧ x.step % t.refresh = 0 then onTensor s t.id fun t => { t with refreshNext := t.refreshNext ++ [x.step] } else s) s3)

/-- Apply the decisions that can be applied, each pack's in order of steps. -/
def applyDecisions (s : State) : State :=
  (s.step.packs.flatMap fun p => (ascending (p.steps.map (·.step))).map fun n => (p.id, n)).foldl (fun s q =>
    match findPack s q.1 with
    | none => s
    | some p =>
      match findPS p q.2 with
      | none => s
      | some x => if canApply s p x then applyDecision s p x else s) s

/-- Refreshes that start at this boundary. -/
def startRefreshes (s : State) : State :=
  s.step.tensors.foldl (fun s t =>
    if t.refreshNext.isEmpty then s
    else
      onTensor (if hubFitted s t.hub then t.refreshNext.foldl (fun s n => startRefresh s t (some n)) s else s) t.id fun t =>
        { t with refreshNext := [] }) s

/-! ### The epoch switch (Table 12.1) -/

/-- Must the switch wait for a snapshot that runs? One decided before the snapshot was accepted does not (R317, R337). -/
def snapshotHolds (s : State) (step : Nat) : Bool := s.step.snapshot.any fun n => !n.before.contains step

/-- Order 4: the epoch changes once every push has completed. -/
def endSwitch (s : State) : State :=
  match s.step.switch with
  | none => s
  | some w =>
    if w.started && !snapshotHolds s w.step && (s.step.tensors.all fun t => !isWeight t || t.pushed) then
      let flip := fun (t : Tensor) => if isWeight t then { t with switches := t.switches + 1, pushed := false } else t
      let s1 := onStep s fun x =>
        { x with epochPrev := some x.epochCur, epochCur := w.step, switch := none, tensors := x.tensors.map flip }
      fencesDone s1 w.step
    else s

/-- Order 1: the previous epoch is retired once every pack has decided and one has committed. -/
def startSwitch (s : State) : State :=
  if s.step.switch.isSome then s
  else
    match (fencedSteps s).find? fun n => allDecided s n && anyCommit s n with
    | some n => onStep s fun x => { x with epochPrev := none, switch := some { step := n, retired := true } }
    | none => s

/-- The groom mode of steps of which a reduced shard has arrived (R267). -/
def latchModes (s : State) : State :=
  let new := s.step.latchDue.filter fun n => !(s.step.latched.any fun l => l.1 == n)
  onStep s fun x => { x with latched := x.latched ++ new.map (fun n => (n, cfgStrict s 3)), latchDue := [] }

/-- Forget steps that are decided, applied and answered, and the modes of steps that nothing uses any more. -/
def forgetSteps (s : State) : State :=
  let finished := fun (x : PackStep) => x.decision.isSome && x.applied && x.fence.isNone
  let s1 := onStep s fun u => { u with packs := u.packs.map fun p => { p with steps := p.steps.filter fun x => !finished x } }
  let used := fun (n : Nat) =>
    (s1.step.packs.any fun p => p.steps.any fun x => x.step == n) ||
    s1.step.tensors.any fun t => t.refreshNext.contains n || t.refreshes.any fun j => j.step == some n
  onStep s1 fun u => { u with latched := u.latched.filter fun l => used l.1 }

/-- What a boundary does for the training step. -/
def stepBoundary (s : State) : State :=
  let s1 := applyDecisions (startRefreshes (closeDue s))
  let s2 := forgetSteps (latchModes (startSwitch (endSwitch s1)))
  onStep s2 fun x => { x with evalResume := false }

/-! ### The boundary -/

/-- Steps 4 to 6 of R41. -/
def planTick (s : State) (m : Meter) : State := settle (planBallast (openRations (admitTasks s) m))

/-- Tick 0 opens at READY under the reset values (R39, R467); the final reply of TOPO_ACCEPT follows (R465). -/
def firstTick (s : State) (m : Meter) : State :=
  let s1 := onTick s fun k =>
    { k with running := true, count := 0, curLen := 3000 * cfgInterval s, tickOut := true, acc := { openedAt := k.readyAt },
             lastUncontrolled := m.uncontrolled, lastLen := msUnits }
  let s2 := planTick (updateQuarantine (sealAll (relBoundary (applyCurbs (applyHeld s1))))) m
  match s2.bring.acceptSid with
  | some sid => finalReply (onBring s2 fun b => { b with acceptSid := none }) sid stOk 0 []
  | none => s2

/-- The boundary of every later tick. -/
def nextTick (s : State) (m : Meter) : State :=
  let s1 := openTick (closeTick s m)
  let s2 := freeHeld (sealAll (relBoundary (applyCurbs s1)))
  planTick (stepBoundary (updateQuarantine (gridStep s2))) m

/-- TICK_BOUNDARY: due when the tick's length has passed. -/
def execTickBoundary (m : Meter) (s : State) : Out :=
  if s.tick.running then .next (if s.tick.acc.openedAt + s.tick.curLen ≤ s.now then nextTick s m else s)
  else .next (if s.dev.state = 2 then firstTick s m else s)

/-! ### Within the tick -/

/-- TASK_SPAN_START: 3 µs after the boundary the window ends; the packets that have arrived in the window are taken, before anything else that happens
then (R89), and admitted tasks and planned ballast begin (R38). -/
def execTaskSpanStart (s : State) : Out :=
  if s.tick.running && s.mp.inWindow && decide (s.tick.acc.openedAt + 3 * usUnits ≤ s.now) then
    .next (settle (planBallast (startTasks (pump (onMp s fun m => { m with inWindow := false })))))
  else .next s

/-- TICK_OUT_FALL: 10 µs after the boundary (R43). -/
def execTickOutFall (s : State) : Out :=
  .next (if s.tick.tickOut && decide (s.tick.acc.openedAt + 10 * usUnits ≤ s.now) then onTick s fun k => { k with tickOut := false } else s)

/-- REPLAY_MARGIN_OPEN (R38, R42). -/
def execReplayMarginOpen (s : State) : Out :=
  .next (if s.tick.running && decide (marginStart s ≤ s.now) then settle (onTick s fun k => { k with inMargin := true }) else s)

/-- HOLDOVER: the source has given no valid time for 2 s (R47). -/
def execHoldover (s : State) : Out :=
  match s.tick.srcRef with
  | none => .next s
  | some r =>
    if cfgSource s ≠ 0 ∧ s.tick.everLocked ∧ s.tick.syncState ≠ 2 ∧ r.1 + 2 * secUnits ≤ s.now then
      .next (onEth (onTick s fun k => { k with holdDue := true }) fun e => { e with ptp := none })
    else .next s

/-- PPS_EDGE: the edge is the source's time 0 (R44). -/
def execPpsEdge (s : State) : Out := .next (if s.tick.running && cfgSource s == 2 then sourceTime s 0 else s)

/-- RAMP_WINDOW_END: the events of a 100 ms window, at the first boundary of the next (R63, R66). -/
def execRampWindowEnd (s : State) : Out := .next (windowEvents s)

end Sys2Proof.Machine
end

