-- ==== Sys2Proof/Machine/Bxl.lean ====
section
/-! DEFINITION. The receiving side of the Bexsyn link (R433, R437, R438, R440 to R443), its timers and its states (R429, R434 to R436). -/

namespace Sys2Proof.Machine

/-! ### Headers (Table 16.3) -/

structure FlitHdr where
  kind : Nat
  vc : Nat
  sop : Bool
  eop : Bool
  fill : Nat
  fseq : Nat
  ack : Nat
  nak : Bool
  crVc : Nat
  crCount : Nat
  rsvZero : Bool
deriving DecidableEq, Repr

def flitHeader (bs : List Byte) : FlitHdr :=
  let w := getLe bs 0 8
  ⟨fld w 0 2, fld w 2 2, bit w 4, bit w 5, fld w 8 8, fld w 16 12, fld w 28 12, bit w 40, fld w 48 2, fld w 50 14,
   fld w 6 2 == 0 && fld w 41 7 == 0⟩

/-- The rules of Table 16.3 that need no state: reserved bits, VC, FILL, CR_COUNT (Table 16.7). -/
def flitFormOk (h : FlitHdr) : Bool :=
  h.rsvZero &&
  (if h.kind = 1 then h.vc != 1 && h.fill % 4 == 0 && decide (4 ≤ h.fill ∧ h.fill ≤ 228) && (h.eop || h.fill == 228)
   else h.vc == 0 && h.fill == 0) &&
  (h.kind == 1 || h.kind == 2 || h.crCount == 0)

/-- The packet open on a channel. -/
def openPkt (s : State) (vc : Nat) : Option BxlOpen := s.bxl.opens.find? fun o => o.vc == vc
def setOpen (s : State) (vc : Nat) (o : Option BxlOpen) : State :=
  onBxl s fun b => { b with opens := b.opens.filter (fun x => x.vc != vc) ++ o.toList }

/-- SOP and the open packet of the channel must agree (Table 16.7). -/
def flitPlaceOk (s : State) (h : FlitHdr) : Bool := h.kind != 1 || (h.sop == (openPkt s h.vc).isNone)

/-- Does the DATA flit hold a credit? -/
def hasCredit (s : State) (vc : Nat) : Bool := decide (0 < smGet 0 s.bxl.granted vc)
def spendCredit (s : State) (vc : Nat) : State := onBxl s fun b => { b with granted := smMod 0 b.granted vc (· - 1) }

/-- Abort the packet open on a channel: its flits' credits go back (R443). -/
def abortOpen (s : State) (vc : Nat) : State :=
  match openPkt s vc with
  | none => s
  | some o => returnCredit (setOpen s vc none) vc (if o.skip then 0 else o.flits)

/-! ### Packets (R440, R441) -/

/-- A header's fields (Table 03.2). -/
def parsePkt (vc : Nat) (bs : List Byte) : Pkt :=
  { chan := if vc = 3 then .management else .command, flags := BitVec.ofNat 16 (getLe bs 2 2), tag := BitVec.ofNat 32 (getLe bs 4 4),
    paramLen := BitVec.ofNat 32 (getLe bs 8 4), tnb := BitVec.ofNat 32 (getLe bs 12 4), step := BitVec.ofNat 64 (getLe bs 16 8),
    crc := BitVec.ofNat 32 (getLe bs 24 4), rsv := BitVec.ofNat 32 (getLe bs 28 4), params := bs.drop 32 }

/-- A packet has arrived whole: a command, a management command, or bulk data, which is an orphan if it came before its command (R441, R442). -/
def deliverPkt (s : State) (vc : Nat) (bs : List Byte) (flits : Nat) (early : Bool) : State :=
  if vc = 2 then
    pump (if bs.length < 8 ∨ early = true then returnCredit (bulkOrphan s) 2 flits else arriveBulk s (getLe bs 0 4) flits ((bs.drop 8).take 4088))
  else
    arrivePkt s { opcode := getLe bs 0 2, pkt := parsePkt vc bs, flits := flits, short := if bs.length < 32 then some bs else none }

/-- Bytes kept of a packet: four more than its channel allows, so that an overlong one fails check 4 (Table 16.7). -/
def pktKeep : Nat := 4100

/-- Take the payload of an accepted DATA flit that held a credit. The first flit of a bulk packet, which has its tag, must come after the EOP flit of the
tag's command (R441). -/
def takeData (s : State) (h : FlitHdr) (data : List Byte) : State :=
  let o := (openPkt s h.vc).getD ⟨h.vc, [], 0, 0, false, h.vc == 2 && !bulkKnown s (getLe data 0 4)⟩
  if o.skip then returnCredit (setOpen s h.vc (if h.eop then none else some o)) h.vc 1
  else
    let beyond := decide (pktKeep ≤ o.bytes.length)
    let o1 := { o with bytes := (o.bytes ++ data).take pktKeep, len := o.len + data.length, flits := o.flits + b2n (!beyond) }
    let s1 := setOpen s h.vc (if h.eop then none else some o1)
    let s2 := if beyond then returnCredit s1 h.vc 1 else s1
    if h.eop then deliverPkt s2 h.vc o1.bytes o1.flits o1.early else s2

/-- A DATA flit without a credit: the rest of its packet is discarded, and the credits of what has arrived go back (Table 16.7). -/
def overrunFlit (s : State) (h : FlitHdr) : State :=
  let held := match openPkt s h.vc with | some o => if o.skip then 0 else o.flits | none => 0
  let s1 := onBxl s fun b => { b with overrun := satAdd 32 b.overrun 1 }
  returnCredit (setOpen s1 h.vc (if h.eop then none else some ⟨h.vc, [], 0, 0, true, false⟩)) h.vc held

/-! ### Reception (R431 to R434) -/

/-- A bad flit (R431, R433). -/
def badFlitIn (s : State) : State :=
  let s1 := onBxl s fun b => { b with badFlit := satAdd 32 b.badFlit 1 }
  if bxlUp s then sendNak s1 else s1

def protoErrIn (s : State) : State := onBxl s fun b => { b with protoErr := satAdd 32 b.protoErr 1 }

/-- ACKSEQ, and a replay when it is asked for (R434). -/
def ackIn (s : State) (h : FlitHdr) : State := if h.nak then bxlReplay (takeAck s h.ack) else takeAck s h.ack

/-- Credits that the adapter returns. -/
def creditIn (s : State) (h : FlitHdr) : State :=
  if h.crCount = 0 then s else sendAgain (onBxl s fun b => { b with txCredit := smMod 0 b.txCredit h.crVc (· + h.crCount) })

/-- After a flit is accepted, a flit with the new ACKSEQ goes out: an IDLE flit if no other has (R434). Credits that wait go first. -/
def ackOut (before : State) (s : State) : State :=
  let s1 := sendCredits s
  if s1.bxl.wire.length = before.bxl.wire.length then sendIdle s1 false else s1

/-- A good sequenced flit that is the one expected. -/
def acceptSeq (s : State) (h : FlitHdr) (bs : List Byte) : State :=
  let s0 := onBxl s fun b => { b with rxSeq := (b.rxSeq + 1) % 4096, nakSent := false }
  if !flitFormOk h || !flitPlaceOk s0 h then
    let held := h.kind == 1 && hasCredit s0 h.vc
    let s1 := if held then returnCredit (spendCredit s0 h.vc) h.vc 1 else s0
    ackOut s (if h.kind = 1 then abortOpen (protoErrIn s1) h.vc else protoErrIn s1)
  else
    let s1 := creditIn (ackIn s0 h) h
    if h.kind ≠ 1 then ackOut s s1
    else if hasCredit s1 h.vc then ackOut s (takeData (spendCredit s1 h.vc) h ((bs.drop 8).take h.fill))
    else ackOut s (overrunFlit s1 h)

/-- A good sequenced flit (R433). -/
def rxSeqFlit (s : State) (h : FlitHdr) (bs : List Byte) : State :=
  let d := seqDiff h.fseq s.bxl.rxSeq
  if d = 0 then acceptSeq s h bs else if 0 < d then sendNak s else s

/-- A flit of a kind arrives while the link is UP. -/
def rxFlit (kind : Nat) (raw : List Byte) (s : State) (k : State → FlitHdr → List Byte → State) : Out :=
  if !bxlUp s then .next s
  else
    match flitOpen raw with
    | none => .next (badFlitIn s)
    | some (bs, fixed) =>
      let h := flitHeader bs
      if h.kind ≠ kind then .next s
      else .next (k (if fixed then onBxl s fun b => { b with fecCorr := satAdd 32 b.fecCorr 1 } else s) h bs)

/-- DATA_FLIT. -/
def execDataFlit (raw : List Byte) (s : State) : Out := rxFlit 1 raw s rxSeqFlit
/-- CREDIT_FLIT. -/
def execCreditFlit (raw : List Byte) (s : State) : Out := rxFlit 2 raw s fun s h bs => rxSeqFlit s h bs
/-- IDLE_FLIT. -/
def execIdleFlit (raw : List Byte) (s : State) : Out :=
  rxFlit 0 raw s fun s h _ => if flitFormOk h then ackIn s h else protoErrIn s

/-! ### INIT (R436 to R438, Table 16.5) -/

/-- Does the link exchange INIT flits? -/
def initPhase (s : State) : Bool := s.bxl.state == 3 || (s.bxl.state == 5 && s.bxl.initPhase)

/-- Credits that wait for a flit, with those of some packets and flits added. -/
def dueWith (due : List (Nat × Nat)) (cs : List (Nat × Nat)) : List (Nat × Nat) := cs.foldl (fun d c => smMod 0 d c.1 (· + c.2)) due

/-- Both ends start afresh (R438). The credits of the packets and flits that are discarded go back. -/
def seqResetBoth (s : State) : State :=
  onBxl s fun b =>
    { b with due := dueWith b.due ((b.opens.filter (!·.skip)).map (fun o => (o.vc, o.flits)) ++ b.unacked.map fun f => (f.crVc, f.crCount)),
             partialDrop := satAdd 32 b.partialDrop b.opens.length, opens := [], txSeq := 0, rxSeq := 0, unacked := [],
             resend := b.sent.map (fun p => (p.vc, p.bytes, p.reset)) ++ b.resend, sent := [], nakSent := false }

/-- The credits of the partner's INIT. -/
def takeFree (s : State) (bs : List Byte) : State :=
  onBxl s fun b => { b with txCredit := ([0, 1, 2, 3].map fun vc => (vc, getLe bs (16 + 4 * vc) 4)).filter fun p => p.2 != 0 }

/-- Resend what is unacknowledged; each DATA flit takes a credit again (R437). -/
def resendAll (s : State) : State :=
  let s1 := resendFlits s
  s1.bxl.unacked.foldl (fun s f => if f.kind = 1 then onBxl s fun b => { b with txCredit := smMod 0 b.txCredit f.vc (· - 1) } else s) s1

/-- The adapter has every flit up to `a`, so it lacks the credits of those, which CREDIT_FREE has left out; the credits of the others reach it with the
flits that are resent (R437). -/
def settleCredits (s : State) (a : Nat) : State :=
  onBxl s fun b =>
    { b with due := dueWith b.due ((b.unacked.filter fun f => decide (seqDiff f.fseq a ≤ 0)).map fun f => (f.crVc, f.crCount))
             granted := dueWith b.granted ((b.unacked.filter fun f => decide (0 < seqDiff f.fseq a)).map fun f => (f.crVc, f.crCount)) }

/-- Is a sequence number ahead of the last FSEQ sent (Table 16.7)? -/
def ackAhead (s : State) (a : Nat) : Bool := decide (0 ≤ seqDiff a s.bxl.txSeq)

/-- Count an ACKSEQ or RX_LAST of an INIT that is ahead, once for each. -/
def countAhead (s : State) (as : List Nat) : State := (as.filter (ackAhead s)).foldl (fun s _ => protoErrIn s) s

/-- The partner's RX_LAST; one that is ahead is ignored, so that nothing is taken as acknowledged (Table 16.7). -/
def initLast (s : State) (last : Nat) : Nat := if ackAhead s last then (s.bxl.txSeq + 4095 - s.bxl.unacked.length) % 4096 else last

/-- The link is UP: the last INIT goes out. -/
def initUp (s : State) : State :=
  onBxl (bxlState (sendInit s) 4) fun b => { b with seqReset := false, replayFrom := none, replayRun := 0, ackSince := b.stateSince }

/-- The partner's INIT: one more INIT goes out, with the credits that every INIT of the exchange offers, and the link is UP. Where an end starts afresh,
the partner's numbers belong to the time before and are not compared (DEDUCED, log entry 152). -/
def initIn (s : State) (h : FlitHdr) (bs : List Byte) : State :=
  if !flitFormOk h then protoErrIn s
  else if s.bxl.seqReset || bit (getB bs 11) 0 then sendCredits (pump (sendAgain (takeFree (initUp (seqResetBoth s)) bs)))
  else
    let rx := getLe bs 12 2 % 4096
    let s1 := initUp (countAhead s [h.ack, rx])
    let last := initLast s1 rx
    sendCredits (pump (resendAll (takeFree (ackFlits (settleCredits s1 last) last) bs)))

/-- INIT_FLIT. The partner's last INIT may arrive when the link is UP already: it is checked like any flit, its ACKSEQ too, and has no
effect (R431, R436, R443). -/
def execInitFlit (raw : List Byte) (s : State) : Out :=
  if bxlUp s then rxFlit 3 raw s fun s h _ => if flitFormOk h then countAhead s [h.ack] else protoErrIn s
  else if !initPhase s then .next s
  else
    match flitOpen raw with
    | none => .next (badFlitIn s)
    | some (bs, fixed) =>
      let h := flitHeader bs
      if h.kind ≠ 3 then .next s
      else .next (initIn (if fixed then onBxl s fun b => { b with fecCorr := satAdd 32 b.fecCorr 1 } else s) h bs)

/-- INIT_RESEND: every 1 µs until the partner's INIT arrives. -/
def execInitResend (s : State) : Out :=
  .next (if initPhase s && decide (s.bxl.lastInit + bxlUs ≤ s.now) then sendInit s else s)

/-! ### Timers and states -/

/-- REPLAY_TIMEOUT (R434). -/
def execReplayTimeout (s : State) : Out :=
  .next (if bxlUp s && !s.bxl.unacked.isEmpty && decide (s.bxl.ackSince + bxlUs ≤ s.now) then bxlReplay s else s)

/-- RECOVERY (R435). -/
def execRecovery (cause : RecoveryCause) (s : State) : Out :=
  let due := match cause with
    | .replays => decide (4 ≤ s.bxl.replayRun)
    | .laneLock => true
  .next (if bxlUp s && due then onBxl (bxlState s 5) fun b => { b with recoveryCnt := satAdd 32 b.recoveryCnt 1 } else s)

/-- SIGNAL_DETECT: DOWN to DETECT; in DETECT training begins, at most once each 100 ms (R436). -/
def execSignalDetect (_lane : BitVec 2) (s : State) : Out :=
  if s.bxl.state = 0 ∧ s.bxl.txOn then .next (bxlState s 1)
  else if s.bxl.state = 1 ∧ (s.bxl.lastTrain = 0 ∨ s.bxl.lastTrain + 100 * msUnits ≤ s.now) then
    .next (onBxl (bxlState s 2) fun b => { b with lastTrain := max 1 s.now })
  else .next s

/-- Width that trained lanes give: x4, x2 on lanes 0–1 or 2–3 alone, else none (R429). -/
def trainWidth (lanes : Nat) : Nat :=
  if lanes = 15 then 4 else if (lanes % 4 = 3) ≠ (lanes / 4 % 4 = 3) then 2 else 0

/-- TRAIN_DONE: INIT begins; training that failed returns to DETECT, or goes on in RECOVERY (R429, R435, R436). -/
def execTrainDone (lanesOk : BitVec 4) (s : State) : Out :=
  let w := trainWidth lanesOk.toNat
  let set := fun (s : State) => onBxl s fun b => { b with width := w, laneOk := lanesOk.toNat }
  if s.bxl.state = 2 then
    (if w = 0 then .next (bxlState s 1) else .next (sendInit (offerCredits (bxlState (set s) 3))))
  else if s.bxl.state = 5 ∧ !s.bxl.initPhase ∧ w ≠ 0 then .next (sendInit (offerCredits (onBxl (set s) fun b => { b with initPhase := true })))
  else .next s

/-- TRAIN_TIMEOUT (R436). -/
def execTrainTimeout (s : State) : Out :=
  .next (if s.bxl.state = 2 ∧ s.bxl.stateSince + 200 * msUnits ≤ s.now then bxlState s 1 else s)

/-- RECOVERY_TIMEOUT (R436). -/
def execRecoveryTimeout (s : State) : Out :=
  .next (if s.bxl.state = 5 ∧ s.bxl.stateSince + 100 * msUnits ≤ s.now then bxlDown s else s)

end Sys2Proof.Machine
end

