-- ==== Sys2Proof/Machine/FloatIns.lean ====
section
/-! DEFINITION. The scalar floating-point instructions (R163, R266, Table 05.16). -/

namespace Sys2Proof.Machine

/-- FP32 operand of a register: bits [31:0]. -/
def f32Op (v : Nat) : Nat := v % 2 ^ 32

/-- A scalar FP instruction: gD ← f mode gD gA gB with the upper bits 0; a NaN it produces in the result format is reported as
unit 0 (R163, R269). `unused` are register fields the row does not use. -/
def issueF (r : RArgs) (unused : Nat) (fmt : Option FpFmt) (s : State) (f : Bool → Nat → Nat → Nat → Nat) : Out :=
  let c := r.core.toNat
  let t := r.thr.toNat
  issueRaw c t (r.rsv.toNat + unused) s fun th =>
    let v := f (slotStrict s c 0) (gReg th r.d.toNat) (gReg th r.a.toNat) (gReg th r.b.toNat)
    let s1 := match fmt with
      | some g => if fpIsNan g v then nanTower s c t 0 th.pc none 0 else s
      | none => s
    putNext s1 c t r.d.toNat v

def execFadd (r : RArgs) (s : State) : Out :=
  issueF r 0 (some f32) s fun m _ a b => (fpAdd f32 m (f32Op a) (f32Op b)).bits
def execFsub (r : RArgs) (s : State) : Out :=
  issueF r 0 (some f32) s fun m _ a b => (fpSub f32 m (f32Op a) (f32Op b)).bits
def execFmul (r : RArgs) (s : State) : Out :=
  issueF r 0 (some f32) s fun m _ a b => (fpMul f32 m (f32Op a) (f32Op b)).bits
def execFfma (r : RArgs) (s : State) : Out :=
  issueF r 0 (some f32) s fun m d a b => (fpFma f32 m (f32Op a) (f32Op b) (f32Op d)).bits
def execFdiv (r : RArgs) (s : State) : Out :=
  issueF r 0 (some f32) s fun m _ a b => (fpDiv f32 m (f32Op a) (f32Op b)).bits
def execFsqrt (r : RArgs) (s : State) : Out :=
  issueF r r.b.toNat (some f32) s fun m _ a _ => (fpSqrt f32 m (f32Op a)).bits
def execFmin (r : RArgs) (s : State) : Out :=
  issueF r 0 (some f32) s fun m _ a b => (fpMinMax f32 m false (f32Op a) (f32Op b)).bits
def execFmax (r : RArgs) (s : State) : Out :=
  issueF r 0 (some f32) s fun m _ a b => (fpMinMax f32 m true (f32Op a) (f32Op b)).bits
/-- FABS and FNEG change bit 31 alone and report nothing (R163). -/
def execFabs (r : RArgs) (s : State) : Out := issueF r r.b.toNat none s fun _ _ a _ => f32Op a % 2 ^ 31
def execFneg (r : RArgs) (s : State) : Out := issueF r r.b.toNat none s fun _ _ a _ => f32Op a ^^^ 2 ^ 31
def execFcmpeq (r : RArgs) (s : State) : Out := issueF r 0 none s fun _ _ a b => b2n (fpCmp f32 0 (f32Op a) (f32Op b)).1
def execFcmplt (r : RArgs) (s : State) : Out := issueF r 0 none s fun _ _ a b => b2n (fpCmp f32 1 (f32Op a) (f32Op b)).1
def execFcmple (r : RArgs) (s : State) : Out := issueF r 0 none s fun _ _ a b => b2n (fpCmp f32 2 (f32Op a) (f32Op b)).1
def execFcvtS64 (r : RArgs) (s : State) : Out := issueF r r.b.toNat none s fun _ _ a _ => (fpToInt f32 64 true (f32Op a)).bits
def execFcvtFS64 (r : RArgs) (s : State) : Out := issueF r r.b.toNat none s fun _ _ a _ => (fpOfInt f32 (sgn 64 a)).bits
def execFcvtBf16 (r : RArgs) (s : State) : Out :=
  issueF r r.b.toNat (some bf16) s fun m _ a _ => (fpCvt f32 bf16 m (f32Op a)).bits
def execFcvtFBf16 (r : RArgs) (s : State) : Out :=
  issueF r r.b.toNat (some f32) s fun m _ a _ => (fpCvt bf16 f32 m (a % 2 ^ 16)).bits
def execFcvtFp16 (r : RArgs) (s : State) : Out :=
  issueF r r.b.toNat (some f16) s fun m _ a _ => (fpCvt f32 f16 m (f32Op a)).bits
def execFcvtFFp16 (r : RArgs) (s : State) : Out :=
  issueF r r.b.toNat (some f32) s fun m _ a _ => (fpCvt f16 f32 m (a % 2 ^ 16)).bits

end Sys2Proof.Machine
end

