-- ==== Sys2Proof/Machine/MpRows.lean ====
section
/-! DEFINITION. The rows of command packets, one meaning each over `cmdRow`, and the rows of self-clearing bits, which are CS_WRITE packets that
set one LV bit (R89, R102). -/

namespace Sys2Proof.Machine

/-- The packet of opcode 0x0001. -/
def execDevIdentify (p : Pkt) (s : State) : Out := cmdRow 0x0001 p s
/-- The packet of opcode 0x0002. -/
def execDevReset (p : Pkt) (s : State) : Out := cmdRow 0x0002 p s
/-- The packet of opcode 0x0003. -/
def execDevEcho (p : Pkt) (s : State) : Out := cmdRow 0x0003 p s
/-- The packet of opcode 0x0101. -/
def execCsRead (p : Pkt) (s : State) : Out := cmdRow 0x0101 p s
/-- The packet of opcode 0x0102. -/
def execCsWrite (p : Pkt) (s : State) : Out := cmdRow 0x0102 p s
/-- The packet of opcode 0x0103. -/
def execCsCommit (p : Pkt) (s : State) : Out := cmdRow 0x0103 p s
/-- The packet of opcode 0x0104. -/
def execCsDiscard (p : Pkt) (s : State) : Out := cmdRow 0x0104 p s
/-- The packet of opcode 0x0201. -/
def execMemRead (p : Pkt) (s : State) : Out := cmdRow 0x0201 p s
/-- The packet of opcode 0x0202. -/
def execMemWrite (p : Pkt) (s : State) : Out := cmdRow 0x0202 p s
/-- The packet of opcode 0x0203. -/
def execMemFill (p : Pkt) (s : State) : Out := cmdRow 0x0203 p s
/-- The packet of opcode 0x0204. -/
def execMemCopy (p : Pkt) (s : State) : Out := cmdRow 0x0204 p s
/-- The packet of opcode 0x0205. -/
def execSyncSet (p : Pkt) (s : State) : Out := cmdRow 0x0205 p s
/-- The packet of opcode 0x0206. -/
def execSyncRead (p : Pkt) (s : State) : Out := cmdRow 0x0206 p s
/-- The packet of opcode 0x0207. -/
def execStreamWait (p : Pkt) (s : State) : Out := cmdRow 0x0207 p s
/-- The packet of opcode 0x0301. -/
def execProgLoad (p : Pkt) (s : State) : Out := cmdRow 0x0301 p s
/-- The packet of opcode 0x0302. -/
def execProgUnload (p : Pkt) (s : State) : Out := cmdRow 0x0302 p s
/-- The packet of opcode 0x0303. -/
def execTaskSubmit (p : Pkt) (s : State) : Out := cmdRow 0x0303 p s
/-- The packet of opcode 0x0304. -/
def execTaskCancel (p : Pkt) (s : State) : Out := cmdRow 0x0304 p s
/-- The packet of opcode 0x0401. -/
def execTensorDefine (p : Pkt) (s : State) : Out := cmdRow 0x0401 p s
/-- The packet of opcode 0x0402. -/
def execTensorDrop (p : Pkt) (s : State) : Out := cmdRow 0x0402 p s
/-- The packet of opcode 0x0403. -/
def execStepFence (p : Pkt) (s : State) : Out := cmdRow 0x0403 p s
/-- The packet of opcode 0x0404. -/
def execEpochQuery (p : Pkt) (s : State) : Out := cmdRow 0x0404 p s
/-- The packet of opcode 0x0405. -/
def execEvalSnapshot (p : Pkt) (s : State) : Out := cmdRow 0x0405 p s
/-- The packet of opcode 0x0501. -/
def execPackDefine (p : Pkt) (s : State) : Out := cmdRow 0x0501 p s
/-- The packet of opcode 0x0502. -/
def execPackRelease (p : Pkt) (s : State) : Out := cmdRow 0x0502 p s
/-- The packet of opcode 0x0503. -/
def execPortQuery (p : Pkt) (s : State) : Out := cmdRow 0x0503 p s
/-- The packet of opcode 0x0504. -/
def execRcOpen (p : Pkt) (s : State) : Out := cmdRow 0x0504 p s
/-- The packet of opcode 0x0505. -/
def execRcClose (p : Pkt) (s : State) : Out := cmdRow 0x0505 p s
/-- The packet of opcode 0x0601. -/
def execFwChunk (p : Pkt) (s : State) : Out := cmdRow 0x0601 p s
/-- The packet of opcode 0x0602. -/
def execFwStatus (p : Pkt) (s : State) : Out := cmdRow 0x0602 p s
/-- The packet of opcode 0x0603. -/
def execFwArm (p : Pkt) (s : State) : Out := cmdRow 0x0603 p s
/-- The packet of opcode 0x0604. -/
def execIdAttest (p : Pkt) (s : State) : Out := cmdRow 0x0604 p s
/-- The packet of opcode 0x0605. -/
def execIdPubkey (p : Pkt) (s : State) : Out := cmdRow 0x0605 p s
/-- The packet of opcode 0x0701. -/
def execThermRead (p : Pkt) (s : State) : Out := cmdRow 0x0701 p s
/-- The packet of opcode 0x0702. -/
def execThermWaive (p : Pkt) (s : State) : Out := cmdRow 0x0702 p s
/-- The packet of opcode 0x0703. -/
def execDiagTeams (p : Pkt) (s : State) : Out := cmdRow 0x0703 p s
/-- The packet of opcode 0x0704. -/
def execDiagScan (p : Pkt) (s : State) : Out := cmdRow 0x0704 p s
/-- The packet of opcode 0x0801. -/
def execBringStatus (p : Pkt) (s : State) : Out := cmdRow 0x0801 p s
/-- The packet of opcode 0x0802. -/
def execTopoRead (p : Pkt) (s : State) : Out := cmdRow 0x0802 p s
/-- The packet of opcode 0x0803. -/
def execTopoAccept (p : Pkt) (s : State) : Out := cmdRow 0x0803 p s
/-- The packet of opcode 0x0804. -/
def execTopoAbandon (p : Pkt) (s : State) : Out := cmdRow 0x0804 p s

/-! ### Self-clearing bits -/

/-- The CS_WRITE packet that writes 1 to bit `i` of the word at `a`, and to nothing else. -/
def lvPkt (h : Hdr) (a i : Nat) : Pkt :=
  { chan := h.chan, flags := h.flags, tag := h.tag, paramLen := 24, tnb := h.tnb, step := h.step, crc := h.crc, rsv := 0,
    params := leBytes 8 a ++ leBytes 8 (2 ^ i) ++ leBytes 8 (2 ^ i) }

/-- Bit 0 of the word at baseTick + 0x28. -/
def execClrOverrun (h : Hdr) (s : State) : Out := cmdRow 0x0102 (lvPkt h (baseTick + 0x28) 0) s
/-- Bit 1 of the word at baseTick + 0x28. -/
def execClrCarry (h : Hdr) (s : State) : Out := cmdRow 0x0102 (lvPkt h (baseTick + 0x28) 1) s
/-- Bit 2 of the word at baseTick + 0x28. -/
def execTickClrRecDrop (h : Hdr) (s : State) : Out := cmdRow 0x0102 (lvPkt h (baseTick + 0x28) 2) s
/-- The team's bit of TICK.QUAR_CLR. -/
def execQuarClr (h : Hdr) (team : BitVec 8) (s : State) : Out :=
  cmdRow 0x0102 (lvPkt h (baseTick + 0x60 + 8 * (team.toNat / 64)) (team.toNat % 64)) s
/-- Bit 0 of the word at baseRation + 0x18. -/
def execClrPace (h : Hdr) (s : State) : Out := cmdRow 0x0102 (lvPkt h (baseRation + 0x18) 0) s
/-- Bit 1 of the word at baseRation + 0x18. -/
def execClrShortfall (h : Hdr) (s : State) : Out := cmdRow 0x0102 (lvPkt h (baseRation + 0x18) 1) s
/-- Bit 0 of the word at baseCmd + 0x10. -/
def execClrMalformed (h : Hdr) (s : State) : Out := cmdRow 0x0102 (lvPkt h (baseCmd + 0x10) 0) s
/-- Bit 1 of the word at baseCmd + 0x10. -/
def execClrEvtDrop (h : Hdr) (s : State) : Out := cmdRow 0x0102 (lvPkt h (baseCmd + 0x10) 1) s
/-- Bit 2 of the word at baseCmd + 0x10. -/
def execClrBulkOrphan (h : Hdr) (s : State) : Out := cmdRow 0x0102 (lvPkt h (baseCmd + 0x10) 2) s
/-- Bit 0 of the word at baseCmd + 0xA8. -/
def execClrBxl (h : Hdr) (s : State) : Out := cmdRow 0x0102 (lvPkt h (baseCmd + 0xA8) 0) s
/-- Bit 0 of the word at baseLc + 0x10. -/
def execClrDeadReread (h : Hdr) (s : State) : Out := cmdRow 0x0102 (lvPkt h (baseLc + 0x10) 0) s
/-- Bit 0 of the word at baseLc + 0x30. -/
def execClrDeadDrop (h : Hdr) (s : State) : Out := cmdRow 0x0102 (lvPkt h (baseLc + 0x30) 0) s
/-- Bit 1 of the word at baseLc + 0x30. -/
def execClrRed (h : Hdr) (s : State) : Out := cmdRow 0x0102 (lvPkt h (baseLc + 0x30) 1) s
/-- Bit 2 of the word at baseLc + 0x30. -/
def execClrL1 (h : Hdr) (s : State) : Out := cmdRow 0x0102 (lvPkt h (baseLc + 0x30) 2) s
/-- Bit 0 of the word at baseNm + 0xB0. -/
def execClrNmErr (h : Hdr) (s : State) : Out := cmdRow 0x0102 (lvPkt h (baseNm + 0xB0) 0) s
/-- Bit 1 of the word at baseNm + 0xB0. -/
def execClrStkErr (h : Hdr) (s : State) : Out := cmdRow 0x0102 (lvPkt h (baseNm + 0xB0) 1) s
/-- Bit 0 of the word at baseNm + 0xC0. -/
def execClrAs (h : Hdr) (s : State) : Out := cmdRow 0x0102 (lvPkt h (baseNm + 0xC0) 0) s
/-- Bit 0 of the word at baseLedger + 0x20. -/
def execClrDrop (h : Hdr) (s : State) : Out := cmdRow 0x0102 (lvPkt h (baseLedger + 0x20) 0) s
/-- Bit 0 of the word at baseWatch + 0x28. -/
def execClrTrap (h : Hdr) (s : State) : Out := cmdRow 0x0102 (lvPkt h (baseWatch + 0x28) 0) s
/-- Bit 1 of the word at baseWatch + 0x28. -/
def execClrNanCnt (h : Hdr) (s : State) : Out := cmdRow 0x0102 (lvPkt h (baseWatch + 0x28) 1) s
/-- Bit 2 of the word at baseWatch + 0x28. -/
def execClrEntryDrop (h : Hdr) (s : State) : Out := cmdRow 0x0102 (lvPkt h (baseWatch + 0x28) 2) s
/-- Bit 3 of the word at baseWatch + 0x28. -/
def execClrRuns (h : Hdr) (s : State) : Out := cmdRow 0x0102 (lvPkt h (baseWatch + 0x28) 3) s
/-- Bit 4 of the word at baseWatch + 0x28. -/
def execClrAlarm (h : Hdr) (s : State) : Out := cmdRow 0x0102 (lvPkt h (baseWatch + 0x28) 4) s
/-- Bit 5 of the word at baseWatch + 0x28. -/
def execWatchClrRecDrop (h : Hdr) (s : State) : Out := cmdRow 0x0102 (lvPkt h (baseWatch + 0x28) 5) s
/-- Bit 0 of the word at basePack + 0x30. -/
def execClrContrib (h : Hdr) (s : State) : Out := cmdRow 0x0102 (lvPkt h (basePack + 0x30) 0) s
/-- Bit 1 of the word at basePack + 0x30. -/
def execClrRefused (h : Hdr) (s : State) : Out := cmdRow 0x0102 (lvPkt h (basePack + 0x30) 1) s
/-- Bit 2 of the word at basePack + 0x30. -/
def execClrTally (h : Hdr) (s : State) : Out := cmdRow 0x0102 (lvPkt h (basePack + 0x30) 2) s
/-- Bit 3 of the word at basePack + 0x30. -/
def execClrVote (h : Hdr) (s : State) : Out := cmdRow 0x0102 (lvPkt h (basePack + 0x30) 3) s
/-- Bit 0 of the word at baseGroom + 0x58. -/
def execClrFail (h : Hdr) (s : State) : Out := cmdRow 0x0102 (lvPkt h (baseGroom + 0x58) 0) s
/-- Bit 1 of the word at baseGroom + 0x58. -/
def execClrFactor (h : Hdr) (s : State) : Out := cmdRow 0x0102 (lvPkt h (baseGroom + 0x58) 1) s
/-- Bit 2 of the word at baseGroom + 0x58. -/
def execClrWait (h : Hdr) (s : State) : Out := cmdRow 0x0102 (lvPkt h (baseGroom + 0x58) 2) s
/-- Bit 3 of the word at baseGroom + 0x58. -/
def execClrLast (h : Hdr) (s : State) : Out := cmdRow 0x0102 (lvPkt h (baseGroom + 0x58) 3) s
/-- CLR_CNT of a hub's Ethernet counters (Table 15.11); there are words for hub indices 0 to 5. -/
def execClrCnt (h : Hdr) (hub : Nat) (s : State) : Out :=
  if hub < 6 then cmdRow 0x0102 (lvPkt h (baseEth + 0x900 + 0x40 * hub + 0x28) 0) s else .next s
/-- Bit 0 of the word at baseDev + 0x70. -/
def execClrRel (h : Hdr) (s : State) : Out := cmdRow 0x0102 (lvPkt h (baseDev + 0x70) 0) s
/-- Bit 1 of the word at baseDev + 0x70. -/
def execClrAlert (h : Hdr) (s : State) : Out := cmdRow 0x0102 (lvPkt h (baseDev + 0x70) 1) s
/-- Bit 0 of the word at baseTherm + 0x28. -/
def execClrTherm (h : Hdr) (s : State) : Out := cmdRow 0x0102 (lvPkt h (baseTherm + 0x28) 0) s
/-- Bit 0 of the word at baseFw + 0x30. -/
def execClrNet (h : Hdr) (s : State) : Out := cmdRow 0x0102 (lvPkt h (baseFw + 0x30) 0) s

end Sys2Proof.Machine
end

