-- ==== Sys2Proof/Machine/Pins.lean ====
section
/-! DEFINITION. The sideband controller's registers (R552, Table 21.8) and the test access port (R553). -/

namespace Sys2Proof.Machine

def onPin (s : State) (f : PinSt → PinSt) : State := { s with pin := f s.pin }

/-- VAUX and VIO are in their windows: the test port works. -/
def auxOn (s : State) : Bool := auxIn s.bring.rails
/-- The sideband controller is ready: 1 ms after that. It answers at address 0x3A, on I3C and on SMBus (R552, log entry 138). -/
def sidebandOn (s : State) : Bool := auxOn s && decide (s.pin.auxSince + msUnits ≤ s.now)

/-! ### Sideband registers -/

/-- The hottest region: its temperature and code, the lowest code where several are equally hot. -/
def hotRegion (s : State) : Int × Nat :=
  (List.range 39).foldl (fun m r => if m.1 < regionTemp s r then (regionTemp s r, r) else m) (-32768, 0)

/-- The registers of Table 21.8. -/
def sidebandBytes (s : State) : List Byte :=
  let hot := hotRegion s
  leBytes 1 0x5A ++ leBytes 1 (s.dev.stage % 16 + 16 * (s.dev.state % 4) + 64 * b2n s.rel.alert + 128 * b2n s.therm.tripped) ++
    leBytes 2 (s.bring.rails % 2 ^ 13) ++ leBytes 1 (s.bring.resetCause % 4) ++ leBytes 1 s.bring.halted ++
    leBytes 2 (wrapN 16 (sensorTemp s 392)) ++ leBytes 2 (wrapN 16 (sensorTemp s 393)) ++ leBytes 2 (wrapN 16 hot.1) ++
    leBytes 2 s.bring.meterW ++ leBytes 1 hot.2 ++ leBytes 1 0

/-- A millisecond ends: its draw is metered, a measurement that no command brings (a free value, log entry 68), and the controller refreshes its registers. -/
def msPassed (s : State) : State :=
  let d := drawFree s
  let s1 := onBring d.1 fun b => { b with meterW := d.2 % 2 ^ 16 }
  if sidebandOn s1 then onPin s1 fun p => { p with side := sidebandBytes s1 } else s1

/-- I3C_READ: a register as last refreshed; beyond 0x0F it reads 0. -/
def execI3cRead (reg : BitVec 8) (s : State) : Out :=
  .next (if sidebandOn s then onPin s fun p => { p with i3c := getB p.side reg.toNat } else s)

/-! ### The boundary register (R544, R545, R549, R553) -/

/-- The single-ended sideband lands (Table 21.7). -/
inductive SidePin where
  | ppsIn | tickOut | alertN | thermtripN | rstN | scl | sda | tck | tms | tdi | tdo | trstN
  | xspiClk | xspiDqs | xspiCsN | xspiResetN | xspiDq (n : Fin 8)
deriving DecidableEq, Repr

/-- A boundary cell: one per differential pair, and one per single-ended sideband land. -/
inductive PinCell where
  | ethTx (site : Fin 6) (lane : Fin 16) | ethRx (site : Fin 6) (lane : Fin 16) | bxlTx (lane : Fin 4) | bxlRx (lane : Fin 4)
  | refclk | side (pin : SidePin)
deriving DecidableEq, Repr

/-- Row and column of a sideband land (Table 21.7, rows by R540). -/
def sideLand : SidePin → Nat × Nat
  | .ppsIn => (34, 6) | .tickOut => (36, 6) | .alertN => (38, 6) | .thermtripN => (40, 6) | .rstN => (42, 6) | .scl => (44, 6) | .sda => (46, 6)
  | .tck => (48, 6) | .tms => (50, 6) | .tdi => (31, 8) | .tdo => (32, 8) | .trstN => (33, 8)
  | .xspiClk => (38, 8) | .xspiDqs => (39, 8) | .xspiCsN => (40, 8) | .xspiResetN => (41, 8) | .xspiDq n => (42 + n.val, 8)

/-- First land of the pair of an Ethernet lane whose pairs lie `d` rows or columns inward of the edge (Table 21.5). -/
def ethLand (site lane d : Nat) : Nat × Nat :=
  if site = 0 then (1 + d, 11 + 3 * lane) else if site = 1 then (1 + d, 61 + 3 * lane) else if site = 2 then (120 - d, 11 + 3 * lane)
  else if site = 3 then (120 - d, 61 + 3 * lane) else if site = 4 then (31 + 3 * lane, 1 + d) else (31 + 3 * lane, 120 - d)

/-- Row and column of a cell's first land. -/
def cellLand : PinCell → Nat × Nat
  | .ethTx k j => ethLand k.val j.val 0
  | .ethRx k j => ethLand k.val j.val 2
  | .bxlTx i => (79 + 3 * i.val, 1)
  | .bxlRx i => (79 + 3 * i.val, 3)
  | .refclk => (31, 6)
  | .side p => sideLand p

def allSide : List SidePin :=
  [.ppsIn, .tickOut, .alertN, .thermtripN, .rstN, .scl, .sda, .tck, .tms, .tdi, .tdo, .trstN, .xspiClk, .xspiDqs, .xspiCsN, .xspiResetN] ++
    (List.finRange 8).map .xspiDq

/-- The cells, in no order. -/
def allCells : List PinCell :=
  (List.finRange 6).flatMap (fun k => (List.finRange 16).map (PinCell.ethTx k) ++ (List.finRange 16).map (PinCell.ethRx k)) ++
    (List.finRange 4).map .bxlTx ++ (List.finRange 4).map .bxlRx ++ [.refclk] ++ allSide.map .side

/-- Does land `a` come before land `b`: by row, then by column? -/
def landBefore (a b : Nat × Nat) : Bool := decide (a.1 < b.1 ∨ a.1 = b.1 ∧ a.2 < b.2)

/-- The place of a cell in the boundary register. -/
def cellIndex (c : PinCell) : Nat := (allCells.filter fun d => landBefore (cellLand d) (cellLand c)).length

/-! ### Pin states (R547, R549, R551, R554, R555, Table 21.9) -/

/-- The pin groups of Table 21.9, the Ethernet lands by site and the sense pairs by stage-1 bit of their rail, and the VIN_H lands (R547); of the sideband
inputs I3C_SDA, which the part can also drive, stands apart. -/
inductive PinGroup where
  | ethTx (hub : Nat) | ethRx (hub : Nat) | bxlTx | bxlRx | inputs | i3cSda | tdo | xspi | alertN | thermtripN | tickOut | sense (rail : Nat) | vin (hub : Nat)
deriving DecidableEq, Repr

/-- What a group's lands do. `boundary`: driven by the boundary cells. `link`: as the link's state says. `unconnected`: to nothing in the package (R547). -/
inductive PinState where
  | unconnected | highZ | noClamp | input | electricalIdle | link | operating | driven | released | low | high | opened | connected | boundary
deriving DecidableEq, Repr

/-- The rail that feeds a group, by stage-1 bit. -/
def pinRail : PinGroup → Nat
  | .ethTx _ | .ethRx _ | .bxlTx | .bxlRx => 5
  | .inputs | .i3cSda | .tdo | .xspi | .alertN | .thermtripN | .tickOut => 1
  | .sense rail => rail
  | .vin k => 7 + k

/-- Does the variant have the hub of these lands? Without it they connect to nothing (R547). -/
def pinFitted (s : State) : PinGroup → Bool
  | .ethTx k | .ethRx k | .vin k => decide (k < hubCount s)
  | .sense rail => decide (rail < 7 + hubCount s)
  | .bxlTx | .bxlRx | .inputs | .i3cSda | .tdo | .xspi | .alertN | .thermtripN | .tickOut => true

/-- Is a group powered: VAUX, and the rail that feeds it, in their windows? -/
def pinPowered (s : State) (g : PinGroup) : Bool := s.bring.rails.testBit 0 && s.bring.rails.testBit (pinRail g)

/-- Does a group count as in reset? -/
def pinsInReset (s : State) : Bool := s.bring.rstLow || s.therm.tripped || (s.dev.state == 0 && decide (s.dev.stage ≤ 1))

/-- Does the boundary register drive the lands (R553)? -/
def boundaryDrives (s : State) : Bool :=
  auxOn s &&
  match s.pin.jtag with
  | .extest | .extestPulse | .extestTrain | .clamp | .highz => true
  | .bypass | .idcode | .samplePreload => false

/-- Has a group boundary cells that drive? -/
def hasOutputCells : PinGroup → Bool
  | .ethTx _ | .bxlTx | .i3cSda | .tdo | .xspi | .alertN | .thermtripN | .tickOut => true
  | .ethRx _ | .bxlRx | .inputs | .sense _ | .vin _ => false

/-- The state of a pin group. Between two commands no test register is shifted, so TDO is high impedance unless its cell drives it (Table 21.7). The cells
of the serdes lands drive only with VSER (R553). -/
def pinState (s : State) (g : PinGroup) : PinState :=
  let on := pinPowered s g
  if !pinFitted s g then .unconnected
  else if on && hasOutputCells g && boundaryDrives s then (if s.pin.jtag = .highz then .highZ else .boundary)
  else
    match g with
    | .ethTx _ => if !on then .highZ else if s.dev.state = 2 then .link else .electricalIdle
    | .bxlTx => if !on then .highZ else if !pinsInReset s && s.bxl.txOn then .link else .electricalIdle
    | .ethRx _ | .bxlRx => if on && !pinsInReset s then .operating else .noClamp
    | .inputs | .i3cSda => if on then .input else .noClamp
    | .tdo => .highZ
    | .xspi => if on && !pinsInReset s && decide (2 ≤ s.dev.stage) then .driven else .highZ
    | .alertN => if on && s.rel.alert then .low else .released
    | .thermtripN => if on && s.therm.tripped then .low else .released
    | .tickOut => if on && s.tick.tickOut then .high else .low
    | .sense _ => if on then .connected else .opened
    | .vin _ => .connected

/-- Does the part drive the xSPI lands (R551)? -/
def xspiDriven (s : State) : Bool := pinState s .xspi == .driven

/-- The group of a cell's lands. -/
def cellGroup : PinCell → PinGroup
  | .ethTx k _ => .ethTx k.val
  | .ethRx k _ => .ethRx k.val
  | .bxlTx _ => .bxlTx
  | .bxlRx _ => .bxlRx
  | .refclk => .inputs
  | .side p =>
    match p with
    | .tickOut => .tickOut
    | .alertN => .alertN
    | .thermtripN => .thermtripN
    | .tdo => .tdo
    | .sda => .i3cSda
    | .xspiClk | .xspiDqs | .xspiCsN | .xspiResetN | .xspiDq _ => .xspi
    | .ppsIn | .rstN | .scl | .tck | .tms | .tdi | .trstN => .inputs

/-- The level of a cell's land (of the P land of a pair) where the state fixes it: what the cell drives, what the part drives, or what RST_N and TRST_N
are held at. Every other land's level is its neighbours'. -/
def cellLevel (s : State) (c : PinCell) : Option Bool :=
  match pinState s (cellGroup c) with
  | .boundary => some (s.pin.boundary.testBit (cellIndex c))
  | .low => some false
  | .high => some true
  | .unconnected | .highZ | .noClamp | .input | .electricalIdle | .link | .operating | .driven | .released | .opened | .connected =>
    if c = .side .rstN then some !s.bring.rstLow else if c = .side .trstN then some !s.pin.trstLow else none

/-- The levels that the cells capture: those that the state fixes, and of the others the bits of `free`. -/
def captured (s : State) (free : Nat) : Nat :=
  allCells.foldl (fun w c => w + b2n ((cellLevel s c).getD (free.testBit (cellIndex c))) * 2 ^ cellIndex c) 0

/-! ### The test access port -/

/-- Take an instruction and select its data register; TRST_N low holds the port in Test-Logic-Reset (R553). -/
def jtagTake (s : State) (on : Bool) (i : JtagIns) (dr : Nat) : Out :=
  .next (if on && !s.pin.trstLow then onPin s fun p => { p with jtag := i, dr := dr } else s)

/-- IDCODE of stepping B, part 0x5A44. -/
def idcodeValue : Nat := 0x25A4416F

/-- BYPASS selects the one-bit bypass register. -/
def execBypass (s : State) : Out := jtagTake s (auxOn s) .bypass 0
/-- IDCODE reads the identification register. -/
def execIdcode (s : State) : Out := jtagTake s (auxOn s) .idcode idcodeValue
/-- SAMPLE/PRELOAD takes the lands' levels into the 225 boundary cells, as they stand while no cell drives, and what the tester shifts in for the cells to
drive. Neither what the tester shifts in nor a level that the state does not fix does the command bring (free values, log entry 122). -/
def execSamplePreload (s : State) : Out :=
  if auxOn s && !s.pin.trstLow then
    let d := drawFree (onPin s fun p => { p with jtag := .samplePreload })
    let e := drawFree d.1
    .next (onPin e.1 fun p => { p with boundary := e.2 % 2 ^ 225, dr := captured d.1 d.2 })
  else .next s
/-- EXTEST: the cells drive the lands. -/
def execExtest (s : State) : Out := jtagTake s (auxOn s) .extest s.pin.boundary
/-- EXTEST_PULSE, on the serdes lands too where VSER is in its window. -/
def execExtestPulse (s : State) : Out := jtagTake s (auxOn s) .extestPulse s.pin.boundary
/-- EXTEST_TRAIN. -/
def execExtestTrain (s : State) : Out := jtagTake s (auxOn s) .extestTrain s.pin.boundary
/-- CLAMP: the cells drive the lands and the bypass register is selected. -/
def execClamp (s : State) : Out := jtagTake s (auxOn s) .clamp 0
/-- HIGHZ: the outputs float and the bypass register is selected. -/
def execHighz (s : State) : Out := jtagTake s (auxOn s) .highz 0
/-- TRST_N low: Test-Logic-Reset, in which IDCODE is in force. It lasts until the next ck, for no command raises TRST_N (log entry 138). -/
def execTrstNLow (s : State) : Out := .next (onPin s fun p => { p with trstLow := true, jtag := .idcode, dr := idcodeValue })

end Sys2Proof.Machine
end

