-- ==== Sys2Proof/Machine/Scalar.lean ====
section
/-! DEFINITION. The scalar integer, load and store, branch and system instructions (R158 to R162, Tables 05.14, 05.15). -/

namespace Sys2Proof.Machine

def execAddi (r : IArgs) (s : State) : Out := issueI r 0 s fun _ a imm => m64 (a + sext16 imm)
def execAndi (r : IArgs) (s : State) : Out := issueI r 0 s fun _ a imm => a &&& imm
def execOri (r : IArgs) (s : State) : Out := issueI r 0 s fun _ a imm => a ||| imm
def execXori (r : IArgs) (s : State) : Out := issueI r 0 s fun _ a imm => a ^^^ imm

/-- Arithmetic shift right of a 64-bit value. -/
def sra64 (a n : Nat) : Nat := wrapN 64 (sgn 64 a / (2 ^ n : Nat))

/-- SHIFTI: IMM16[7:6] selects the shift, 3 being invalid; IMM16[15:8] is reserved (Table 05.14). -/
def shiftImm (a imm : Nat) : Nat :=
  let n := fld imm 0 6
  match fld imm 6 2 with
  | 0 => m64 (a * 2 ^ n)
  | 1 => a / 2 ^ n
  | _ => sra64 a n
def execShifti (r : IArgs) (s : State) : Out :=
  issueI r (fld r.imm.toNat 8 8 + (if fld r.imm.toNat 6 2 = 3 then 1 else 0)) s fun _ a imm => shiftImm a imm

def execSlti (r : IArgs) (s : State) : Out := issueI r 0 s fun _ a imm => b2n (decide (sgn 64 a < sgn 16 imm))

/-- MOVZ: H = A[1:0], A[4:2] reserved. -/
def execMovz (r : IArgs) (s : State) : Out :=
  issueI r (fld r.a.toNat 2 3) s fun _ _ imm => m64 (imm * 2 ^ (16 * fld r.a.toNat 0 2))
def execMovk (r : IArgs) (s : State) : Out :=
  issueI r (fld r.a.toNat 2 3) s fun th _ imm => setFld (gReg th r.d.toNat) (16 * fld r.a.toNat 0 2) 16 imm

def execAdd (r : RArgs) (s : State) : Out := issueR r s fun _ a b => m64 (a + b)
def execSub (r : RArgs) (s : State) : Out := issueR r s fun _ a b => m64 (a + 2 ^ 64 - b)
def execAnd (r : RArgs) (s : State) : Out := issueR r s fun _ a b => a &&& b
def execOr (r : RArgs) (s : State) : Out := issueR r s fun _ a b => a ||| b
def execXor (r : RArgs) (s : State) : Out := issueR r s fun _ a b => a ^^^ b
def execSll (r : RArgs) (s : State) : Out := issueR r s fun _ a b => m64 (a * 2 ^ (b % 64))
def execSrl (r : RArgs) (s : State) : Out := issueR r s fun _ a b => a / 2 ^ (b % 64)
def execSra (r : RArgs) (s : State) : Out := issueR r s fun _ a b => sra64 a (b % 64)
def execSlt (r : RArgs) (s : State) : Out := issueR r s fun _ a b => b2n (decide (sgn 64 a < sgn 64 b))
def execSltu (r : RArgs) (s : State) : Out := issueR r s fun _ a b => b2n (decide (a < b))
def execMin (r : RArgs) (s : State) : Out := issueR r s fun _ a b => if sgn 64 a ≤ sgn 64 b then a else b
def execMax (r : RArgs) (s : State) : Out := issueR r s fun _ a b => if sgn 64 a ≤ sgn 64 b then b else a
def execMinu (r : RArgs) (s : State) : Out := issueR r s fun _ a b => min a b
def execMaxu (r : RArgs) (s : State) : Out := issueR r s fun _ a b => max a b
def execMul (r : RArgs) (s : State) : Out := issueR r s fun _ a b => m64 (a * b)
def execMulhs (r : RArgs) (s : State) : Out :=
  issueR r s fun _ a b => wrapN 64 (sgn 64 a * sgn 64 b / (2 ^ 64 : Nat))
def execMulhu (r : RArgs) (s : State) : Out := issueR r s fun _ a b => a * b / 2 ^ 64
/-- Division truncates toward 0 and never traps (R160). -/
def execDivs (r : RArgs) (s : State) : Out :=
  issueR r s fun _ a b => if b = 0 then 2 ^ 64 - 1 else wrapN 64 (Int.tdiv (sgn 64 a) (sgn 64 b))
def execDivu (r : RArgs) (s : State) : Out := issueR r s fun _ a b => if b = 0 then 2 ^ 64 - 1 else a / b
def execRems (r : RArgs) (s : State) : Out :=
  issueR r s fun _ a b => if b = 0 then a else wrapN 64 (Int.tmod (sgn 64 a) (sgn 64 b))
def execRemu (r : RArgs) (s : State) : Out := issueR r s fun _ a b => if b = 0 then a else a % b
def execSel (r : RArgs) (s : State) : Out := issueR r s fun d a b => if d ≠ 0 then a else b

/-! ### Loads and stores (R161) -/

/-- The value a load writes: zero-extended for the U widths, sign-extended for the S widths. -/
def loadValue (w v : Nat) : Nat := if w < 4 then v else wrapN 64 (sgn (8 * widthBytes w) v)

/-- LD. WIDTH 7 is invalid; RO is valid only with SPACE = 1. -/
def execLd (r : MemArgs) (s : State) : Out :=
  let c := r.core.toNat
  let t := r.thr.toNat
  let w := r.width.toNat
  issueRaw c t (b2n (w == 7) + b2n (r.ro && !r.space)) s fun th =>
    let a := ldstAddr th r
    let n := widthBytes w
    if a % n ≠ 0 then stopThread s c t stAddrUnmapped (if r.space then a else spadFault a)
    else if r.space then
      match devAccessFault s false a n with
      | some f => stopThread s c t f.1 f.2
      | none =>
        if r.ro then
          match roRead s c false a n with
          | (s1, .fault e) => stopThread s1 c t stAddrUnmapped e
          | (s1, .wait on) => blockThread s1 c t on
          | (s1, .data bs) => putNext s1 c t r.d.toNat (loadValue w (leNat bs))
        else
          match coreRead s c a n with
          | (s1, .error e) => stopThread s1 c t stAddrUnmapped e
          | (s1, .ok bs) => putNext s1 c t r.d.toNat (loadValue w (leNat bs))
    else if scratchLen s c < a + n then stopThread s c t stAddrUnmapped (spadFault a)
    else putNext s c t r.d.toNat (loadValue w (leNat (spadRead s c a n)))

/-- ST. WIDTH 4 to 7 and RO are invalid. -/
def execSt (r : MemArgs) (s : State) : Out :=
  let c := r.core.toNat
  let t := r.thr.toNat
  let w := r.width.toNat
  issueRaw c t (b2n (decide (4 ≤ w)) + b2n r.ro) s fun th =>
    let a := ldstAddr th r
    let n := widthBytes w
    let bs := leBytes n (gReg th r.d.toNat)
    if a % n ≠ 0 then stopThread s c t stAddrUnmapped (if r.space then a else spadFault a)
    else if r.space then
      match devAccessFault s true a n with
      | some f => stopThread s c t f.1 f.2
      | none =>
        match coreWrite s c a bs with
        | (s1, .error e) => stopThread s1 c t stAddrUnmapped e
        | (s1, .ok _) => nextPc s1 c t
    else if scratchLen s c < a + n then stopThread s c t stAddrUnmapped (spadFault a)
    else nextPc (spadWrite s c a bs) c t

/-! ### Branches and jumps (R162) -/

def branchTaken (op : BrOp) (a b : Nat) : Bool :=
  match op with
  | .beq => a == b
  | .bne => a != b
  | .blt => decide (sgn 64 a < sgn 64 b)
  | .bge => decide (sgn 64 b ≤ sgn 64 a)
  | .bltu => decide (a < b)
  | .bgeu => decide (b ≤ a)

/-- PC + 4 × a signed offset. -/
def pcRel (pc : Nat) (off : Int) : Nat := wrapN 64 ((pc : Int) + 4 * off)

def execBranch (r : BArgs) (s : State) : Out :=
  let c := r.core.toNat
  let t := r.thr.toNat
  issueRaw c t 0 s fun th =>
    if branchTaken r.op (gReg th r.a.toNat) (gReg th r.b.toNat) then jumpTo s c t (pcRel th.pc (sgn 16 r.off.toNat))
    else nextPc s c t

def execJal (r : JArgs) (s : State) : Out :=
  let c := r.core.toNat
  let t := r.thr.toNat
  issueRaw c t 0 s fun th => jumpTo (setReg s c t 31 (th.pc + 4)) c t (pcRel th.pc (sgn 26 r.off.toNat))

def execJalr (r : IArgs) (s : State) : Out :=
  let c := r.core.toNat
  let t := r.thr.toNat
  issueRaw c t 0 s fun th =>
    let target := m64 (gReg th r.a.toNat + sext16 r.imm.toNat) / 4 * 4
    jumpTo (setReg s c t r.d.toNat (th.pc + 4)) c t target

/-! ### SYS -/

/-- END ends the thread and releases its vector context (R128, R190). -/
def execEndThread (r : RArgs) (s : State) : Out :=
  issueRaw r.core.toNat r.thr.toNat (r.rsv.toNat + r.d.toNat + r.a.toNat + r.b.toNat) s fun _ =>
    endOf s r.core.toNat r.thr.toNat

def execNop (r : RArgs) (s : State) : Out :=
  issueRaw r.core.toNat r.thr.toNat (r.rsv.toNat + r.d.toNat + r.a.toNat + r.b.toNat) s fun _ =>
    nextPc s r.core.toNat r.thr.toNat

end Sys2Proof.Machine
end

