-- ==== Sys2Proof/Machine/Vector.lean ====
section
/-! DEFINITION. The vector engine (chapter 07): contexts, vector length, loads and stores, elementwise operations, permutations, reductions and
element programs. Bits of an encoding that an instruction does not use are reserved (R158, R195). -/

namespace Sys2Proof.Machine

/-! ### Contexts and registers -/

def findCtx (s : State) (c t : Nat) : Option VCtx := (getCore s c).ctxs.find? fun x => x.owner == t
def putCtx (s : State) (c : Nat) (x : VCtx) : State :=
  onCore s c fun k => { k with ctxs := k.ctxs.map fun y => if y.owner = x.owner then x else y }

def vReg (x : VCtx) (r : Nat) : Nat := (x.v.toList.getD r 0).toNat
/-- Element `e` of a register at width `w`. -/
def vGet (x : VCtx) (r w e : Nat) : Nat := fld (vReg x r) (w * e) w
/-- Elements 0 to `n - 1`. -/
def vList (x : VCtx) (r w n : Nat) : List Nat := (List.range n).map (vGet x r w)
/-- Write elements 0 up to the list's length; the tail keeps its values (R194). -/
def vPut (x : VCtx) (r w : Nat) (vals : List Nat) : VCtx :=
  let top := w * vals.length
  let new := (vals.foldr (fun a n => a % 2 ^ w + n * 2 ^ w) 0) + (vReg x r >>> top) * 2 ^ top
  if h : r < 32 then { x with v := x.v.set r (BitVec.ofNat 4096 new) h } else x

def qGet (x : VCtx) (q : Nat) : Nat := (x.q.toList.getD q 0).toNat
def qPut (x : VCtx) (q v : Nat) : VCtx := if h : q < 4 then { x with q := x.q.set q (n64 v) h } else x

/-- Issue a vector instruction whose unused bits hold `resv`, of a thread that holds a context, at a VL its widths allow (R193, R210). -/
def issueV (r : VArgs) (resv : Nat) (widths : List Nat) (s : State) (k : Thread → VCtx → State) : Out :=
  let c := r.core.toNat
  let t := r.thr.toNat
  issueRaw c t resv s fun th =>
    match findCtx s c t with
    | some x => if widths.all fun w => decide (x.vl ≤ 4096 / w) then k th x else stopThread s c t stAddrUnmapped 0
    | none => stopThread s c t stAddrUnmapped 0

/-- Store a changed context and go on. -/
def vDone (r : VArgs) (s : State) (x : VCtx) : State := nextPc (putCtx s r.core.toNat x) r.core.toNat r.thr.toNat

/-- Report the first NaN of an instruction (R211). -/
def vNan (r : VArgs) (s : State) (pc : Nat) (tensor : Option Nat) : Option Nat → State
  | some e => nanTower s r.core.toNat r.thr.toNat 2 pc tensor e
  | none => s

def fw (r : VArgs) : Nat := ewBits r.ew.toNat

/-! ### Claim, length and status -/

def execVclaim (r : VArgs) (s : State) : Out :=
  let c := r.core.toNat
  let t := r.thr.toNat
  issueRaw c t (r.d.toNat + r.a.toNat + r.b.toNat + r.ew.toNat + b2n r.s + r.t.toNat) s fun _ =>
    if (findCtx s c t).isSome then nextPc s c t
    else if queueRoom s c 8 ≤ (getCore s c).ctxs.length then blockThread s c t (.room .vector)
    else
      nextPc (onCore s c fun k =>
        { k with ctxs := k.ctxs ++ [⟨t, Vector.replicate 32 0, 128, Vector.replicate 4 0, 0, []⟩] }) c t

def execVrelease (r : VArgs) (s : State) : Out :=
  issueV r (r.d.toNat + r.a.toNat + r.b.toNat + r.ew.toNat + b2n r.s + r.t.toNat) [] s fun _ _ =>
    let c := r.core.toNat
    let s1 := onCore s c fun k => { k with ctxs := k.ctxs.filter fun x => x.owner != r.thr.toNat }
    nextPc (wakeRoom s1 c (· == .room .vector)) c r.thr.toNat

def execVsetvl (r : VArgs) (s : State) : Out :=
  issueV r (r.b.toNat + b2n r.s + r.t.toNat) [] s fun th x =>
    let vl := min (gReg th r.a.toNat) (vlMax r.ew.toNat)
    putNext (putCtx s r.core.toNat { x with vl := vl }) r.core.toNat r.thr.toNat r.d.toNat vl

def execVstat (r : VArgs) (s : State) : Out :=
  issueV r (r.a.toNat + r.b.toNat + r.ew.toNat + r.t.toNat) [] s fun _ x =>
    putNext (if r.s then putCtx s r.core.toNat { x with vstat := 0 } else s) r.core.toNat r.thr.toNat r.d.toNat x.vstat

/-! ### Loads and stores (R196) -/

/-- Addresses of the elements that move: one for a stride of 0. -/
def vAddrs (base stride vl : Nat) (last : Bool) : List (Nat × Nat) :=
  if stride = 0 then (if vl = 0 then [] else [(if last then vl - 1 else 0, base)])
  else (List.range vl).map fun e => (e, (base + e * stride) % 2 ^ 64)

/-- First address that cannot move, with its status. -/
def vAddrFault (s : State) (c : Nat) (dev write : Bool) (n : Nat) : List (Nat × Nat) → Option (Nat × Nat)
  | [] => none
  | (_, a) :: as =>
    let bad := if a % n ≠ 0 then some (stAddrUnmapped, if dev then a else spadFault a)
      else if dev then devAccessFault s write a n
      else if scratchLen s c < a + n then some (stAddrUnmapped, spadFault a) else none
    match bad with
    | some f => some f
    | none => vAddrFault s c dev write n as

/-- VLD. One that must wait for a fill keeps the elements it has been given and asks for the others when it issues again (R286). READ_ONLY without
SPACE has no effect of its own: the scratchpad is read (DESIGN CHOICE, log entry 174). -/
def execVld (r : VArgs) (s : State) : Out :=
  issueV r (b2n r.s) [fw r] s fun th x =>
    let c := r.core.toNat
    let t := r.thr.toNat
    let n := fw r / 8
    let dev := bit r.t.toNat 0
    let as := vAddrs (gReg th r.a.toNat) (gReg th r.b.toNat) x.vl false
    match vAddrFault s c dev false n as with
    | some f => stopThread s c t f.1 f.2
    | none =>
      match threadReads c (bit r.t.toNat 1) ((as.map fun a => ⟨dev, a.2, n⟩).drop x.got.length) s with
      | (s1, _, some (.inl e)) => stopThread s1 c t stAddrUnmapped e
      | (s1, bss, some (.inr on)) => blockThread (putCtx s1 c { x with got := x.got ++ bss }) c t on
      | (s1, bss, none) =>
        let vals := (x.got ++ bss).map leNat
        let vals := if gReg th r.b.toNat = 0 then List.replicate x.vl (vals.headD 0) else vals
        vDone r s1 (vPut { x with got := [] } r.d.toNat (fw r) vals)

def execVst (r : VArgs) (s : State) : Out :=
  issueV r (b2n r.s + r.t.toNat / 2) [fw r] s fun th x =>
    let c := r.core.toNat
    let t := r.thr.toNat
    let n := fw r / 8
    let dev := bit r.t.toNat 0
    let as := vAddrs (gReg th r.a.toNat) (gReg th r.b.toNat) x.vl true
    match vAddrFault s c dev true n as with
    | some f => stopThread s c t f.1 f.2
    | none =>
      match unitWrites c (as.map fun a => (⟨dev, a.2, n⟩, leBytes n (vGet x r.d.toNat (fw r) a.1))) s with
      | (s1, .error e) => stopThread s1 c t stAddrUnmapped e
      | (s1, .ok _) => nextPc s1 c t

def execVbcast (r : VArgs) (s : State) : Out :=
  issueV r (r.b.toNat + b2n r.s + r.t.toNat) [fw r] s fun th x =>
    vDone r s (vPut x r.d.toNat (fw r) (List.replicate x.vl (gReg th r.a.toNat)))

/-! ### Permutations (R199) -/

/-- VEXT: zero- or sign-extended by T; a float T zero-extends (DESIGN CHOICE, log entry 174). -/
def execVext (r : VArgs) (s : State) : Out :=
  issueV r (b2n r.s + b2n (vTy r.ew.toNat r.t.toNat).isNone) [fw r] s fun th x =>
    let i := gReg th r.b.toNat
    let v := vGet x r.a.toNat (fw r) i
    let out := if x.vl ≤ i then 0 else if r.t.toNat = 0 then wrapN 64 (sgn (fw r) v) else v
    let x1 := if x.vl ≤ i then vSetStat x true false false 0 else x
    putNext (putCtx s r.core.toNat x1) r.core.toNat r.thr.toNat r.d.toNat out

/-- Elements taken from the source lanes that a function names; `none` is a vacated lane. -/
def vPermute (r : VArgs) (s : State) (x : VCtx) (lane : Nat → Option Nat) : State :=
  let ls := (List.range x.vl).map lane
  let vals := ls.map fun l => match l with | some l => if l < x.vl then vGet x r.a.toNat (fw r) l else 0 | none => 0
  let ool := ls.any fun l => match l with | some l => decide (x.vl ≤ l) | none => false
  vDone r s (vSetStat (vPut x r.d.toNat (fw r) vals) ool false false 0)

def execVperm (r : VArgs) (s : State) : Out :=
  issueV r (b2n r.s + r.t.toNat) [fw r] s fun _ x => vPermute r s x fun i => some (vGet x r.b.toNat (fw r) i)
def execVslidedn (r : VArgs) (s : State) : Out :=
  issueV r (b2n r.s + r.t.toNat) [fw r] s fun th x => vPermute r s x fun i => some (i + gReg th r.b.toNat)
def execVslideup (r : VArgs) (s : State) : Out :=
  issueV r (b2n r.s + r.t.toNat) [fw r] s fun th x =>
    vPermute r s x fun i => if i < gReg th r.b.toNat then none else some (i - gReg th r.b.toNat)

/-! ### Elementwise operations -/

/-- Write results of an instruction: the register, VSTAT, and the report of the first NaN it produced. -/
def vWrite (r : VArgs) (s : State) (th : Thread) (x : VCtx) (ty : VTy) (produces : Bool) (rs : List FpRes) : State :=
  let nan := rs.findIdx? fun q => vTyIsNan ty q.bits
  let inf := rs.any fun q => vTyIsInf ty q.bits
  let flags := rs.foldl (fun f q => f ||| q.flags) 0
  let x1 := vSetStat (vPut x r.d.toNat (vTyBits ty) (rs.map (·.bits))) false nan.isSome inf flags
  vDone r (if produces then vNan r s th.pc none nan else s) x1

/-- An elementwise instruction of Table 07.2; `useB` tells whether it has an operand B. -/
def issueElem (r : VArgs) (op : VOp) (useB : Bool) (s : State) : Out :=
  let ty := vTy r.ew.toNat r.t.toNat
  let bad := match ty with | some y => !vOpOk op y | none => true
  issueV r (b2n bad + (if useB then 0 else r.b.toNat + b2n r.s)) [fw r] s fun th x =>
    let y := ty.getD (.int 8 false)
    let w := vTyBits y
    let bs := if r.s then List.replicate x.vl (gReg th r.b.toNat % 2 ^ w) else vList x r.b.toNat w x.vl
    let m := slotStrict s r.core.toNat 1
    vWrite r s th x y (vOpProduces op) ((List.range x.vl).map fun e =>
      vElem y m op (vGet x r.a.toNat w e) (bs.getD e 0) (vGet x r.d.toNat w e))

def execVadd (r : VArgs) (s : State) : Out := issueElem r .add true s
def execVsub (r : VArgs) (s : State) : Out := issueElem r .sub true s
def execVmul (r : VArgs) (s : State) : Out := issueElem r .mul true s
def execVfma (r : VArgs) (s : State) : Out := issueElem r .fma true s
def execVmin (r : VArgs) (s : State) : Out := issueElem r .min true s
def execVmax (r : VArgs) (s : State) : Out := issueElem r .max true s
def execVabs (r : VArgs) (s : State) : Out := issueElem r .abs false s
def execVneg (r : VArgs) (s : State) : Out := issueElem r .neg false s
def execVdiv (r : VArgs) (s : State) : Out := issueElem r .div true s
def execVsqrt (r : VArgs) (s : State) : Out := issueElem r .sqrt false s
def execVrcp (r : VArgs) (s : State) : Out := issueElem r .rcp false s
def execVrsqrt (r : VArgs) (s : State) : Out := issueElem r .rsqrt false s
def execVexp2 (r : VArgs) (s : State) : Out := issueElem r .exp2 false s
def execVlog2 (r : VArgs) (s : State) : Out := issueElem r .log2 false s
def execVand (r : VArgs) (s : State) : Out := issueElem r .and true s
def execVor (r : VArgs) (s : State) : Out := issueElem r .or true s
def execVxor (r : VArgs) (s : State) : Out := issueElem r .xor true s
def execVshl (r : VArgs) (s : State) : Out := issueElem r .shl true s
def execVshr (r : VArgs) (s : State) : Out := issueElem r .shr true s
def execVcmpeq (r : VArgs) (s : State) : Out := issueElem r .cmpeq true s
def execVcmplt (r : VArgs) (s : State) : Out := issueElem r .cmplt true s
def execVcmple (r : VArgs) (s : State) : Out := issueElem r .cmple true s
def execVsel (r : VArgs) (s : State) : Out := issueElem r .sel true s

/-- VCVT: B[4:3] and B[1:0] give the source type, EW and T the destination's (R200). -/
def execVcvt (r : VArgs) (s : State) : Out :=
  let b := r.b.toNat
  let src := vTy (fld b 3 2) (fld b 0 2)
  let dst := vTy r.ew.toNat r.t.toNat
  issueV r (b2n r.s + fld b 2 1 + b2n src.isNone + b2n dst.isNone) [fw r, ewBits (fld b 3 2)] s fun th x =>
    let y := src.getD (.int 8 false)
    let z := dst.getD (.int 8 false)
    vWrite r s th x z true ((vList x r.a.toNat (vTyBits y) x.vl).map (vConvert y z (slotStrict s r.core.toNat 1)))

/-! ### The reduction unit (R203, R204) -/

/-- Fold elements into a q register: the context, and the first element whose folding leaves a NaN there. -/
def vReduce (x : VCtx) (strict : Bool) (ty : VTy) (op q : Nat) (xs : List Nat) : VCtx × Option Nat :=
  match ty with
  | .int w sg => (qPut x q (redInt w sg op (qGet x q) xs), none)
  | .flt f =>
    if xs.isEmpty then (x, none)
    else
      let ys := xs.map (widen32 f strict)
      let q0 := qGet x q % 2 ^ 32
      let r := redFloat strict op q0 ys
      let nan := if fpIsNan f32 r.bits then (List.range ys.length).find? fun e => fpIsNan f32 (redFloat strict op q0 (ys.take (e + 1))).bits
                 else none
      let fl := xs.foldl (fun g a => g ||| (widenRes f strict a).flags) r.flags
      (vSetStat (qPut x q r.bits) false nan.isSome (fpIsInf f32 r.bits) (if strict then fl else 0), nan)

def execVred (r : VArgs) (s : State) : Out :=
  let op := fld r.d.toNat 2 3
  let ty := vTy r.ew.toNat r.t.toNat
  issueV r (b2n (decide (4 < op)) + r.b.toNat + b2n r.s + b2n ty.isNone) [fw r] s fun th x =>
    let y := ty.getD (.int 8 false)
    let v := vReduce x (slotStrict s r.core.toNat 1) y op (fld r.d.toNat 0 2) (vList x r.a.toNat (vTyBits y) x.vl)
    vDone r (vNan r s th.pc none v.2) v.1

def execVqmov (r : VArgs) (s : State) : Out :=
  issueV r (fld r.a.toNat 2 3 + r.b.toNat + r.ew.toNat + b2n r.s + r.t.toNat) [] s fun _ x =>
    putNext s r.core.toNat r.thr.toNat r.d.toNat (qGet x (fld r.a.toNat 0 2))

def execVqset (r : VArgs) (s : State) : Out :=
  issueV r (fld r.d.toNat 2 3 + r.b.toNat + r.ew.toNat + b2n r.s + r.t.toNat) [] s fun th x =>
    vDone r s (qPut x (fld r.d.toNat 0 2) (gReg th r.a.toNat))

/-! ### Element programs (R205 to R209) -/

/-- A program's header (Table 07.5) and words. -/
structure ElemProg where
  nops : Nat
  ptype : Nat
  nin : Nat
  nout : Nat
  inReg : List Nat
  inFmt : List Nat
  outReg : List Nat
  outFmt : List Nat
  outT : List Nat
  redOp : Nat
  redQ : Nat
  tensor : Nat
  rsv : Nat
  consts : List Nat
  words : List Nat
deriving DecidableEq, Repr

def elemProg (bs : List Byte) : ElemProg :=
  let b := fun o n => (List.range n).map fun i => getB bs (o + i)
  { nops := getB bs 0, ptype := getB bs 1, nin := getB bs 2, nout := getB bs 3, inReg := b 4 4, inFmt := b 8 4, outReg := b 12 2,
    outFmt := b 14 2, outT := b 16 2, redOp := getB bs 18, redQ := getB bs 19, tensor := getLe bs 20 4, rsv := getLe bs 24 8,
    consts := (List.range 4).map fun i => getLe bs (32 + 4 * i) 4,
    words := (List.range (getB bs 0)).map fun i => getLe bs (48 + 4 * i) 4 }

/-- Entries beyond the used ones are 0. -/
def restZero (n : Nat) (xs : List Nat) : Bool := (xs.drop n).all (· == 0)

/-- Is a program valid at a VL (R205, R206, R209)? -/
def elemOk (p : ElemProg) (vl : Nat) : Bool :=
  decide (1 ≤ p.nops ∧ p.nops ≤ 32) && decide (p.ptype ≤ 1) && decide (1 ≤ p.nin ∧ p.nin ≤ 4) && decide (p.nout ≤ 2) &&
  (p.inReg ++ p.outReg).all (fun r => decide (r < 32)) && p.outT.all (fun r => decide (r < 16)) && decide (p.redOp ≤ 5) &&
  decide (p.redQ ≤ 3) && p.rsv == 0 && restZero p.nin p.inReg && restZero p.nin p.inFmt && restZero p.nout p.outReg &&
  restZero p.nout p.outFmt && restZero p.nout p.outT &&
  ((p.inFmt.take p.nin) ++ p.outFmt.take p.nout).all (fun c => match vepFmt p.ptype c with
    | some y => decide (vl ≤ 4096 / vTyBits y) | none => false) &&
  !(p.nout == 2 && p.outReg.getD 0 0 == p.outReg.getD 1 0) &&
  p.words.all fun w => fld w 0 10 == 0 && vepOpOk p.ptype (fld w 26 6)

/-- Run the operations on the temporaries: values and IEEE flags. -/
def elemRun (ptype : Nat) (strict : Bool) : List Nat → List Nat → Nat → List Nat × Nat
  | [], ts, fl => (ts, fl)
  | w :: ws, ts, fl =>
    let g := fun lo => ts.getD (fld w lo 4) 0
    let op := fld w 26 6
    let r := if ptype = 0 then vepFloat strict op (g 18) (g 14) (g 10) else ⟨vepInt op (g 18) (g 14) (g 10), 0⟩
    elemRun ptype strict ws (ts.set (fld w 22 4) r.bits) (fl ||| r.flags)

/-- Temporaries of an element after the program. -/
def elemTemps (p : ElemProg) (strict : Bool) (x : VCtx) (e : Nat) : List Nat × Nat :=
  let ins : List FpRes := (List.range 4).map fun i =>
    if p.nin ≤ i then ⟨0, 0⟩
    else
      match vepFmt p.ptype (p.inFmt.getD i 0) with
      | some (.flt f) => widenRes f strict (vGet x (p.inReg.getD i 0) f.width e)
      | some (.int w _) => ⟨wrapN 32 (sgn w (vGet x (p.inReg.getD i 0) w e)), 0⟩
      | none => ⟨0, 0⟩
  elemRun p.ptype strict p.words (ins.map (·.bits) ++ p.consts ++ List.replicate 8 0) (ins.foldl (fun g q => g ||| q.flags) 0)

/-- Type of the temporaries. -/
def tempTy (ptype : Nat) : VTy := if ptype = 0 then .flt f32 else .int 32 true

/-- The outputs of one output register. -/
def elemOut (p : ElemProg) (strict : Bool) (temps : List (List Nat)) (o : Nat) : VTy × List FpRes :=
  let ty := (vepFmt p.ptype (p.outFmt.getD o 0)).getD (.int 32 true)
  (ty, temps.map fun ts => vConvert (tempTy p.ptype) ty strict (ts.getD (p.outT.getD o 0) 0))

/-- VEP. -/
def execVep (r : VArgs) (s : State) : Out :=
  issueV r (r.d.toNat + r.b.toNat + r.ew.toNat + b2n r.s + r.t.toNat) [] s fun th x =>
    let c := r.core.toNat
    let off := gReg th r.a.toNat
    let p := elemProg (spadRead s c off (48 + 4 * 32))
    if off % 16 ≠ 0 ∨ scratchLen s c < off + 48 + 4 * p.nops ∨ !elemOk p x.vl then
      stopThread s c r.thr.toNat stAddrUnmapped (spadFault off)
    else
      let m := slotStrict s r.core.toNat 1
      let runs := (List.range x.vl).map (elemTemps p m x)
      let temps := runs.map (·.1)
      let outs := (List.range p.nout).map fun o => (p.outReg.getD o 0, elemOut p m temps o)
      let x1 := outs.foldl (fun x o => vPut x o.1 (vTyBits o.2.1) (o.2.2.map (·.bits))) x
      let nans := outs.filterMap fun o => o.2.2.findIdx? fun q => vTyIsNan o.2.1 q.bits
      let inf := outs.any fun o => o.2.2.any fun q => vTyIsInf o.2.1 q.bits
      let flags := (runs.map (·.2) ++ outs.flatMap fun o => o.2.2.map (·.flags)).foldl (· ||| ·) 0
      let x2 := vSetStat x1 false (!nans.isEmpty) inf (if m then flags else 0)
      let red := if p.redOp = 0 then (x2, none)
        else vReduce x2 m (tempTy p.ptype) (p.redOp - 1) p.redQ (temps.map fun ts => ts.getD (p.outT.getD 0 0) 0)
      let all := nans ++ red.2.toList
      let first := all.foldl (fun a e => match a with | some b => some (min b e) | none => some e) none
      vDone r (vNan r s th.pc (some p.tensor) first) red.1

end Sys2Proof.Machine
end

