-- ==== Sys2Proof/Machine/Dispatch.lean ====
section
/-! DEFINITION. One arm per command: a direct call of its meaning. -/

namespace Sys2Proof.Machine

def exec (i : Instr) (s : State) : Host.Outcome State Fault Refusal :=
  match i with
  | .devIdentify p => Sys2Proof.Machine.execDevIdentify p s
  | .devReset p => Sys2Proof.Machine.execDevReset p s
  | .devEcho p => Sys2Proof.Machine.execDevEcho p s
  | .csRead p => Sys2Proof.Machine.execCsRead p s
  | .csWrite p => Sys2Proof.Machine.execCsWrite p s
  | .csCommit p => Sys2Proof.Machine.execCsCommit p s
  | .csDiscard p => Sys2Proof.Machine.execCsDiscard p s
  | .commitTimeout => Sys2Proof.Machine.execCommitTimeout s
  | .memRead p => Sys2Proof.Machine.execMemRead p s
  | .memWrite p => Sys2Proof.Machine.execMemWrite p s
  | .memFill p => Sys2Proof.Machine.execMemFill p s
  | .memCopy p => Sys2Proof.Machine.execMemCopy p s
  | .syncSet p => Sys2Proof.Machine.execSyncSet p s
  | .syncRead p => Sys2Proof.Machine.execSyncRead p s
  | .streamWait p => Sys2Proof.Machine.execStreamWait p s
  | .progLoad p => Sys2Proof.Machine.execProgLoad p s
  | .progUnload p => Sys2Proof.Machine.execProgUnload p s
  | .taskSubmit p => Sys2Proof.Machine.execTaskSubmit p s
  | .taskCancel p => Sys2Proof.Machine.execTaskCancel p s
  | .tensorDefine p => Sys2Proof.Machine.execTensorDefine p s
  | .tensorDrop p => Sys2Proof.Machine.execTensorDrop p s
  | .stepFence p => Sys2Proof.Machine.execStepFence p s
  | .epochQuery p => Sys2Proof.Machine.execEpochQuery p s
  | .evalSnapshot p => Sys2Proof.Machine.execEvalSnapshot p s
  | .snapshotCopy => Sys2Proof.Machine.execSnapshotCopy s
  | .snapshotCopyDone => Sys2Proof.Machine.execSnapshotCopyDone s
  | .packDefine p => Sys2Proof.Machine.execPackDefine p s
  | .packRelease p => Sys2Proof.Machine.execPackRelease p s
  | .portQuery p => Sys2Proof.Machine.execPortQuery p s
  | .rcOpen p => Sys2Proof.Machine.execRcOpen p s
  | .rcClose p => Sys2Proof.Machine.execRcClose p s
  | .fwChunk p => Sys2Proof.Machine.execFwChunk p s
  | .fwStatus p => Sys2Proof.Machine.execFwStatus p s
  | .fwArm p => Sys2Proof.Machine.execFwArm p s
  | .idAttest p => Sys2Proof.Machine.execIdAttest p s
  | .idPubkey p => Sys2Proof.Machine.execIdPubkey p s
  | .thermRead p => Sys2Proof.Machine.execThermRead p s
  | .thermWaive p => Sys2Proof.Machine.execThermWaive p s
  | .diagTeams p => Sys2Proof.Machine.execDiagTeams p s
  | .diagScan p => Sys2Proof.Machine.execDiagScan p s
  | .bringStatus p => Sys2Proof.Machine.execBringStatus p s
  | .topoRead p => Sys2Proof.Machine.execTopoRead p s
  | .topoAccept p => Sys2Proof.Machine.execTopoAccept p s
  | .topoAbandon p => Sys2Proof.Machine.execTopoAbandon p s
  | .clrOverrun h => Sys2Proof.Machine.execClrOverrun h s
  | .clrCarry h => Sys2Proof.Machine.execClrCarry h s
  | .tickClrRecDrop h => Sys2Proof.Machine.execTickClrRecDrop h s
  | .quarClr h team => Sys2Proof.Machine.execQuarClr h team s
  | .clrPace h => Sys2Proof.Machine.execClrPace h s
  | .clrShortfall h => Sys2Proof.Machine.execClrShortfall h s
  | .clrMalformed h => Sys2Proof.Machine.execClrMalformed h s
  | .clrEvtDrop h => Sys2Proof.Machine.execClrEvtDrop h s
  | .clrBulkOrphan h => Sys2Proof.Machine.execClrBulkOrphan h s
  | .clrBxl h => Sys2Proof.Machine.execClrBxl h s
  | .clrDeadReread h => Sys2Proof.Machine.execClrDeadReread h s
  | .clrDeadDrop h => Sys2Proof.Machine.execClrDeadDrop h s
  | .clrRed h => Sys2Proof.Machine.execClrRed h s
  | .clrL1 h => Sys2Proof.Machine.execClrL1 h s
  | .clrNmErr h => Sys2Proof.Machine.execClrNmErr h s
  | .clrStkErr h => Sys2Proof.Machine.execClrStkErr h s
  | .clrAs h => Sys2Proof.Machine.execClrAs h s
  | .clrDrop h => Sys2Proof.Machine.execClrDrop h s
  | .clrTrap h => Sys2Proof.Machine.execClrTrap h s
  | .clrNanCnt h => Sys2Proof.Machine.execClrNanCnt h s
  | .clrEntryDrop h => Sys2Proof.Machine.execClrEntryDrop h s
  | .clrRuns h => Sys2Proof.Machine.execClrRuns h s
  | .clrAlarm h => Sys2Proof.Machine.execClrAlarm h s
  | .watchClrRecDrop h => Sys2Proof.Machine.execWatchClrRecDrop h s
  | .clrContrib h => Sys2Proof.Machine.execClrContrib h s
  | .clrRefused h => Sys2Proof.Machine.execClrRefused h s
  | .clrTally h => Sys2Proof.Machine.execClrTally h s
  | .clrVote h => Sys2Proof.Machine.execClrVote h s
  | .clrFail h => Sys2Proof.Machine.execClrFail h s
  | .clrFactor h => Sys2Proof.Machine.execClrFactor h s
  | .clrWait h => Sys2Proof.Machine.execClrWait h s
  | .clrLast h => Sys2Proof.Machine.execClrLast h s
  | .clrCnt h hub => Sys2Proof.Machine.execClrCnt h hub s
  | .clrRel h => Sys2Proof.Machine.execClrRel h s
  | .clrAlert h => Sys2Proof.Machine.execClrAlert h s
  | .clrTherm h => Sys2Proof.Machine.execClrTherm h s
  | .clrNet h => Sys2Proof.Machine.execClrNet h s
  | .bulkPacket tag flags data => Sys2Proof.Machine.execBulkPacket tag flags data s
  | .replySend mgmt => Sys2Proof.Machine.execReplySend mgmt s
  | .eventQueueSpace => Sys2Proof.Machine.execEventQueueSpace s
  | .tickBoundary m => Sys2Proof.Machine.execTickBoundary m s
  | .taskSpanStart => Sys2Proof.Machine.execTaskSpanStart s
  | .tickOutFall => Sys2Proof.Machine.execTickOutFall s
  | .replayMarginOpen => Sys2Proof.Machine.execReplayMarginOpen s
  | .holdover => Sys2Proof.Machine.execHoldover s
  | .ppsEdge => Sys2Proof.Machine.execPpsEdge s
  | .ptpMessage msg => Sys2Proof.Machine.execPtpMessage msg s
  | .tickOverrun tag => Sys2Proof.Machine.execTickOverrun tag s
  | .quarantine team => Sys2Proof.Machine.execQuarantine team s
  | .taskEnd tag => Sys2Proof.Machine.execTaskEnd tag s
  | .grantExhausted grantee => Sys2Proof.Machine.execGrantExhausted grantee s
  | .rampWindowEnd => Sys2Proof.Machine.execRampWindowEnd s
  | .resetRampDone => Sys2Proof.Machine.execResetRampDone s
  | .resetEffect => Sys2Proof.Machine.execResetEffect s
  | .addi r => Sys2Proof.Machine.execAddi r s
  | .andi r => Sys2Proof.Machine.execAndi r s
  | .ori r => Sys2Proof.Machine.execOri r s
  | .xori r => Sys2Proof.Machine.execXori r s
  | .shifti r => Sys2Proof.Machine.execShifti r s
  | .slti r => Sys2Proof.Machine.execSlti r s
  | .movz r => Sys2Proof.Machine.execMovz r s
  | .movk r => Sys2Proof.Machine.execMovk r s
  | .add r => Sys2Proof.Machine.execAdd r s
  | .sub r => Sys2Proof.Machine.execSub r s
  | .and r => Sys2Proof.Machine.execAnd r s
  | .or r => Sys2Proof.Machine.execOr r s
  | .xor r => Sys2Proof.Machine.execXor r s
  | .sll r => Sys2Proof.Machine.execSll r s
  | .srl r => Sys2Proof.Machine.execSrl r s
  | .sra r => Sys2Proof.Machine.execSra r s
  | .slt r => Sys2Proof.Machine.execSlt r s
  | .sltu r => Sys2Proof.Machine.execSltu r s
  | .min r => Sys2Proof.Machine.execMin r s
  | .max r => Sys2Proof.Machine.execMax r s
  | .minu r => Sys2Proof.Machine.execMinu r s
  | .maxu r => Sys2Proof.Machine.execMaxu r s
  | .mul r => Sys2Proof.Machine.execMul r s
  | .mulhs r => Sys2Proof.Machine.execMulhs r s
  | .mulhu r => Sys2Proof.Machine.execMulhu r s
  | .divs r => Sys2Proof.Machine.execDivs r s
  | .divu r => Sys2Proof.Machine.execDivu r s
  | .rems r => Sys2Proof.Machine.execRems r s
  | .remu r => Sys2Proof.Machine.execRemu r s
  | .sel r => Sys2Proof.Machine.execSel r s
  | .ld r => Sys2Proof.Machine.execLd r s
  | .st r => Sys2Proof.Machine.execSt r s
  | .branch r => Sys2Proof.Machine.execBranch r s
  | .jal r => Sys2Proof.Machine.execJal r s
  | .jalr r => Sys2Proof.Machine.execJalr r s
  | .endThread r => Sys2Proof.Machine.execEndThread r s
  | .nop r => Sys2Proof.Machine.execNop r s
  | .signal r => Sys2Proof.Machine.execSignal r s
  | .syncSignalApply src obj => Sys2Proof.Machine.execSyncSignalApply src obj s
  | .wait r => Sys2Proof.Machine.execWait r s
  | .wake core obj => Sys2Proof.Machine.execWake core obj s
  | .sread r => Sys2Proof.Machine.execSread r s
  | .sstart r => Sys2Proof.Machine.execSstart r s
  | .swait r => Sys2Proof.Machine.execSwait r s
  | .streamCompletion slot => Sys2Proof.Machine.execStreamCompletion slot s
  | .fadd r => Sys2Proof.Machine.execFadd r s
  | .fsub r => Sys2Proof.Machine.execFsub r s
  | .fmul r => Sys2Proof.Machine.execFmul r s
  | .ffma r => Sys2Proof.Machine.execFfma r s
  | .fdiv r => Sys2Proof.Machine.execFdiv r s
  | .fsqrt r => Sys2Proof.Machine.execFsqrt r s
  | .fmin r => Sys2Proof.Machine.execFmin r s
  | .fmax r => Sys2Proof.Machine.execFmax r s
  | .fabs r => Sys2Proof.Machine.execFabs r s
  | .fneg r => Sys2Proof.Machine.execFneg r s
  | .fcmpeq r => Sys2Proof.Machine.execFcmpeq r s
  | .fcmplt r => Sys2Proof.Machine.execFcmplt r s
  | .fcmple r => Sys2Proof.Machine.execFcmple r s
  | .fcvtS64 r => Sys2Proof.Machine.execFcvtS64 r s
  | .fcvtFS64 r => Sys2Proof.Machine.execFcvtFS64 r s
  | .fcvtBf16 r => Sys2Proof.Machine.execFcvtBf16 r s
  | .fcvtFBf16 r => Sys2Proof.Machine.execFcvtFBf16 r s
  | .fcvtFp16 r => Sys2Proof.Machine.execFcvtFp16 r s
  | .fcvtFFp16 r => Sys2Proof.Machine.execFcvtFFp16 r s
  | .mmul r => Sys2Proof.Machine.execMmul r s
  | .mmulExecute core => Sys2Proof.Machine.execMmulExecute core s
  | .mdrain r => Sys2Proof.Machine.execMdrain r s
  | .mdrainExecute core => Sys2Proof.Machine.execMdrainExecute core s
  | .mfence r => Sys2Proof.Machine.execMfence r s
  | .mstat r => Sys2Proof.Machine.execMstat r s
  | .vclaim r => Sys2Proof.Machine.execVclaim r s
  | .vrelease r => Sys2Proof.Machine.execVrelease r s
  | .vsetvl r => Sys2Proof.Machine.execVsetvl r s
  | .vstat r => Sys2Proof.Machine.execVstat r s
  | .vld r => Sys2Proof.Machine.execVld r s
  | .vst r => Sys2Proof.Machine.execVst r s
  | .vbcast r => Sys2Proof.Machine.execVbcast r s
  | .vext r => Sys2Proof.Machine.execVext r s
  | .vadd r => Sys2Proof.Machine.execVadd r s
  | .vsub r => Sys2Proof.Machine.execVsub r s
  | .vmul r => Sys2Proof.Machine.execVmul r s
  | .vfma r => Sys2Proof.Machine.execVfma r s
  | .vmin r => Sys2Proof.Machine.execVmin r s
  | .vmax r => Sys2Proof.Machine.execVmax r s
  | .vabs r => Sys2Proof.Machine.execVabs r s
  | .vneg r => Sys2Proof.Machine.execVneg r s
  | .vdiv r => Sys2Proof.Machine.execVdiv r s
  | .vsqrt r => Sys2Proof.Machine.execVsqrt r s
  | .vrcp r => Sys2Proof.Machine.execVrcp r s
  | .vrsqrt r => Sys2Proof.Machine.execVrsqrt r s
  | .vexp2 r => Sys2Proof.Machine.execVexp2 r s
  | .vlog2 r => Sys2Proof.Machine.execVlog2 r s
  | .vand r => Sys2Proof.Machine.execVand r s
  | .vor r => Sys2Proof.Machine.execVor r s
  | .vxor r => Sys2Proof.Machine.execVxor r s
  | .vshl r => Sys2Proof.Machine.execVshl r s
  | .vshr r => Sys2Proof.Machine.execVshr r s
  | .vcmpeq r => Sys2Proof.Machine.execVcmpeq r s
  | .vcmplt r => Sys2Proof.Machine.execVcmplt r s
  | .vcmple r => Sys2Proof.Machine.execVcmple r s
  | .vsel r => Sys2Proof.Machine.execVsel r s
  | .vcvt r => Sys2Proof.Machine.execVcvt r s
  | .vperm r => Sys2Proof.Machine.execVperm r s
  | .vslidedn r => Sys2Proof.Machine.execVslidedn r s
  | .vslideup r => Sys2Proof.Machine.execVslideup r s
  | .vred r => Sys2Proof.Machine.execVred r s
  | .vqmov r => Sys2Proof.Machine.execVqmov r s
  | .vqset r => Sys2Proof.Machine.execVqset r s
  | .vep r => Sys2Proof.Machine.execVep r s
  | .rrow r => Sys2Proof.Machine.execRrow r s
  | .rfence r => Sys2Proof.Machine.execRfence r s
  | .rstat r => Sys2Proof.Machine.execRstat r s
  | .smaxFwd team => Sys2Proof.Machine.execSmaxFwd team s
  | .smaxBwd team => Sys2Proof.Machine.execSmaxBwd team s
  | .lnormFwd team => Sys2Proof.Machine.execLnormFwd team s
  | .lnormBwd team => Sys2Proof.Machine.execLnormBwd team s
  | .rmsFwd team => Sys2Proof.Machine.execRmsFwd team s
  | .rmsBwd team => Sys2Proof.Machine.execRmsBwd team s
  | .camax r => Sys2Proof.Machine.execCamax r s
  | .camaxExecute core => Sys2Proof.Machine.execCamaxExecute core s
  | .ccvt r => Sys2Proof.Machine.execCcvt r s
  | .ccvtExecute core => Sys2Proof.Machine.execCcvtExecute core s
  | .cdec r => Sys2Proof.Machine.execCdec r s
  | .cdecExecute core => Sys2Proof.Machine.execCdecExecute core s
  | .cfence r => Sys2Proof.Machine.execCfence r s
  | .cstat r => Sys2Proof.Machine.execCstat r s
  | .apush r => Sys2Proof.Machine.execApush r s
  | .apop r => Sys2Proof.Machine.execApop r s
  | .apeek r => Sys2Proof.Machine.execApeek r s
  | .amark r => Sys2Proof.Machine.execAmark r s
  | .aunmark r => Sys2Proof.Machine.execAunmark r s
  | .aused r => Sys2Proof.Machine.execAused r s
  | .afence r => Sys2Proof.Machine.execAfence r s
  | .stackApply core => Sys2Proof.Machine.execStackApply core s
  | .psend r => Sys2Proof.Machine.execPsend r s
  | .psendExecute core => Sys2Proof.Machine.execPsendExecute core s
  | .pfence r => Sys2Proof.Machine.execPfence r s
  | .nwrite r => Sys2Proof.Machine.execNwrite r s
  | .nanReport idx => Sys2Proof.Machine.execNanReport idx s
  | .stillAlarm => Sys2Proof.Machine.execStillAlarm s
  | .partitionFlushDone layer => Sys2Proof.Machine.execPartitionFlushDone layer s
  | .stackScrub f => Sys2Proof.Machine.execStackScrub f s
  | .stackLost stack => Sys2Proof.Machine.execStackLost stack s
  | .moduleLost hub module => Sys2Proof.Machine.execModuleLost hub module s
  | .hubLost hub => Sys2Proof.Machine.execHubLost hub s
  | .pushStart => Sys2Proof.Machine.execPushStart s
  | .updateStart tensor => Sys2Proof.Machine.execUpdateStart tensor s
  | .updateFinish tensor => Sys2Proof.Machine.execUpdateFinish tensor s
  | .updateInterrupt tensor cause => Sys2Proof.Machine.execUpdateInterrupt tensor cause s
  | .copybackDone tensor => Sys2Proof.Machine.execCopybackDone tensor s
  | .factorRefresh tensor => Sys2Proof.Machine.execFactorRefresh tensor s
  | .stagedConvert pack step tensor => Sys2Proof.Machine.execStagedConvert pack step tensor s
  | .contrib m => Sys2Proof.Machine.execContrib m s
  | .scale m => Sys2Proof.Machine.execScale m s
  | .scaleAck m => Sys2Proof.Machine.execScaleAck m s
  | .ack m => Sys2Proof.Machine.execAck m s
  | .reduced m => Sys2Proof.Machine.execReduced m s
  | .shardDone m => Sys2Proof.Machine.execShardDone m s
  | .vote m => Sys2Proof.Machine.execVote m s
  | .voteSend pack => Sys2Proof.Machine.execVoteSend pack s
  | .voteTimeout pack => Sys2Proof.Machine.execVoteTimeout pack s
  | .fallbackDecision pack => Sys2Proof.Machine.execFallbackDecision pack s
  | .repair m => Sys2Proof.Machine.execRepair m s
  | .nack m => Sys2Proof.Machine.execNack m s
  | .ackTimer key => Sys2Proof.Machine.execAckTimer key s
  | .retransmit key => Sys2Proof.Machine.execRetransmit key s
  | .scaleResend pack tensor dst => Sys2Proof.Machine.execScaleResend pack tensor dst s
  | .repairTimer pack src => Sys2Proof.Machine.execRepairTimer pack src s
  | .rdmaWrite m => Sys2Proof.Machine.execRdmaWrite m s
  | .rdmaRead m => Sys2Proof.Machine.execRdmaRead m s
  | .rcInvalidRequest m => Sys2Proof.Machine.execRcInvalidRequest m s
  | .rcAck m => Sys2Proof.Machine.execRcAck m s
  | .rcRetry hub qpn => Sys2Proof.Machine.execRcRetry hub qpn s
  | .cnpReceived m => Sys2Proof.Machine.execCnpReceived m s
  | .rateRecovery hub qpn => Sys2Proof.Machine.execRateRecovery hub qpn s
  | .arpRequest f => Sys2Proof.Machine.execArpRequest f s
  | .neighbourSolicitation f => Sys2Proof.Machine.execNeighbourSolicitation f s
  | .icmpDiscard f => Sys2Proof.Machine.execIcmpDiscard f s
  | .rxDrop f => Sys2Proof.Machine.execRxDrop f s
  | .malformedFrame f kind => Sys2Proof.Machine.execMalformedFrame f kind s
  | .pfcFrame hub port enable quanta => Sys2Proof.Machine.execPfcFrame hub port enable quanta s
  | .pfcWatchdog hub port prio => Sys2Proof.Machine.execPfcWatchdog hub port prio s
  | .linkDown hub port cause => Sys2Proof.Machine.execLinkDown hub port cause s
  | .linkUp hub port => Sys2Proof.Machine.execLinkUp hub port s
  | .anRetry hub port => Sys2Proof.Machine.execAnRetry hub port s
  | .dataFlit raw => Sys2Proof.Machine.execDataFlit raw s
  | .creditFlit raw => Sys2Proof.Machine.execCreditFlit raw s
  | .idleFlit raw => Sys2Proof.Machine.execIdleFlit raw s
  | .initFlit raw => Sys2Proof.Machine.execInitFlit raw s
  | .replayTimeout => Sys2Proof.Machine.execReplayTimeout s
  | .recovery cause => Sys2Proof.Machine.execRecovery cause s
  | .signalDetect lane => Sys2Proof.Machine.execSignalDetect lane s
  | .trainDone lanesOk => Sys2Proof.Machine.execTrainDone lanesOk s
  | .trainTimeout => Sys2Proof.Machine.execTrainTimeout s
  | .recoveryTimeout => Sys2Proof.Machine.execRecoveryTimeout s
  | .initResend => Sys2Proof.Machine.execInitResend s
  | .coreFault core trigger sealReadable => Sys2Proof.Machine.execCoreFault core trigger sealReadable s
  | .coreHang core => Sys2Proof.Machine.execCoreHang core s
  | .restoreDone core => Sys2Proof.Machine.execRestoreDone core s
  | .teamCommonFault team => Sys2Proof.Machine.execTeamCommonFault team s
  | .laneFail b lane => Sys2Proof.Machine.execLaneFail b lane s
  | .clockBondLoss t => Sys2Proof.Machine.execClockBondLoss t s
  | .farrierScanSlot f => Sys2Proof.Machine.execFarrierScanSlot f s
  | .ffrWrite => Sys2Proof.Machine.execFfrWrite s
  | .sensorSample readings f => Sys2Proof.Machine.execSensorSample readings f s
  | .thermalModel powers => Sys2Proof.Machine.execThermalModel powers s
  | .sensorSuspect sensor cause => Sys2Proof.Machine.execSensorSuspect sensor cause s
  | .flowEstimate f => Sys2Proof.Machine.execFlowEstimate f s
  | .flowLow => Sys2Proof.Machine.execFlowLow s
  | .throttleDeepen region => Sys2Proof.Machine.execThrottleDeepen region s
  | .throttleRelease region => Sys2Proof.Machine.execThrottleRelease region s
  | .graceEnd region => Sys2Proof.Machine.execGraceEnd region s
  | .thermalTrip => Sys2Proof.Machine.execThermalTrip s
  | .tripRelease => Sys2Proof.Machine.execTripRelease s
  | .windowReopen => Sys2Proof.Machine.execWindowReopen s
  | .railFault rail => Sys2Proof.Machine.execRailFault rail s
  | .rstNFall => Sys2Proof.Machine.execRstNFall s
  | .rstNRise => Sys2Proof.Machine.execRstNRise s
  | .mpWatchdog => Sys2Proof.Machine.execMpWatchdog s
  | .suppliesAndReset f => Sys2Proof.Machine.execSuppliesAndReset f s
  | .clockAndMpBoot f => Sys2Proof.Machine.execClockAndMpBoot f s
  | .bondSelfTest f => Sys2Proof.Machine.execBondSelfTest f s
  | .nearMemoryTest f => Sys2Proof.Machine.execNearMemoryTest f s
  | .hubBringup f => Sys2Proof.Machine.execHubBringup f s
  | .computeWaveRelease core => Sys2Proof.Machine.execComputeWaveRelease core s
  | .computePowerup f => Sys2Proof.Machine.execComputePowerup f s
  | .firmwareBroadcast f => Sys2Proof.Machine.execFirmwareBroadcast f s
  | .repairRound f => Sys2Proof.Machine.execRepairRound f s
  | .topologyAgreement f => Sys2Proof.Machine.execTopologyAgreement f s
  | .rollbackFuseProgram => Sys2Proof.Machine.execRollbackFuseProgram s
  | .netRingScan => Sys2Proof.Machine.execNetRingScan s
  | .i3cRead reg => Sys2Proof.Machine.execI3cRead reg s
  | .bypass => Sys2Proof.Machine.execBypass s
  | .idcode => Sys2Proof.Machine.execIdcode s
  | .samplePreload => Sys2Proof.Machine.execSamplePreload s
  | .extest => Sys2Proof.Machine.execExtest s
  | .extestPulse => Sys2Proof.Machine.execExtestPulse s
  | .extestTrain => Sys2Proof.Machine.execExtestTrain s
  | .clamp => Sys2Proof.Machine.execClamp s
  | .highz => Sys2Proof.Machine.execHighz s
  | .trstNLow => Sys2Proof.Machine.execTrstNLow s
  | .memoryCommandComplete tag => Sys2Proof.Machine.execMemoryCommandComplete tag s
  | .trickleCapRelease => Sys2Proof.Machine.execTrickleCapRelease s
  | .computePowerDownDone => Sys2Proof.Machine.execComputePowerDownDone s
  | .spillRefillDone team => Sys2Proof.Machine.execSpillRefillDone team s

end Sys2Proof.Machine
end

