-- ==== Sys2Proof/Machine/Fetch.lean ====
section
/-! DEFINITION. The cores run their programs: in each ck the issue stage of a core picks a thread (R129, R139), its instruction comes through the
instruction buffer (R131), and the instruction that the word spells has its effect (R158, R159). -/

namespace Sys2Proof.Machine

/-! ### The instruction buffer (R131) -/

/-- A line put in the buffer as the most recently used of 32; the least recently used one leaves it. -/
def ibufPut (b : List (Nat × List Byte)) (line : Nat) (bs : List Byte) : List (Nat × List Byte) :=
  ((line, bs) :: b.filter fun x => x.1 != line).take 32

/-- Time from a fetch that misses the buffer to the end of its fill: an L1 hit of 6 ck or the latency of the way to memory, and 2 ck to fill the
buffer (R131, log entry 140). -/
def fetchTime (s : State) (c line : Nat) : Nat :=
  let k := getCore s c
  let hit := decide (k.scratch64k < 12) && (List.range 4).all fun i => (smGet? (l1Valid k.l1 line) i).isSome
  (if hit then 6 * ckUnits else fillTime s c (line * 512)) + 2 * ckUnits

/-- The word at a thread's program counter, if its line is in the buffer. A miss fetches the line, through the L1 where the core has one, and blocks the
thread until the fill ends; a line that is not mapped (R36, R489) or cannot be read stops it (R131, R305). -/
def fetchWord (s : State) (c t : Nat) (th : Thread) : State × Option Nat :=
  let line := th.pc / 512
  match (getCore s c).ibuf.find? fun x => x.1 == line with
  | some x => (onCore s c fun k => { k with ibuf := ibufPut k.ibuf line x.2 }, some (getLe x.2 (th.pc % 512) 4))
  | none =>
    match devAccessFault s false th.pc 4 with
    | some f => (stopThread s c t f.1 f.2, none)
    | none =>
      match roRead s c false (line * 512) 512 with
      | (s1, .wait on) => (blockThread s1 c t on, none)
      | (s1, .fault e) => (stopThread s1 c t stAddrUnmapped e, none)
      | (s1, .data bs) => (blockThread (onCore s1 c fun k => { k with ibuf := ibufPut k.ibuf line bs }) c t (.fetch (s.now + fetchTime s c line)), none)

/-! ### Issue (R129, R139) -/

/-- READY threads of a core, in the order in which its issue stage looks for one: from the thread numbered one above the thread that issued last. -/
def issueOrder (k : CoreSt) : List Nat :=
  let r := (k.threads.filter fun x => x.2.st == .ready).map (·.1)
  r.filter (fun t => decide (k.lastIssued < t)) ++ r.filter fun t => decide (t ≤ k.lastIssued)

/-- Run the instruction that a word spells for a thread; a word that spells none is an invalid encoding (R159). -/
def issueWord (s : State) (c t w : Nat) : State :=
  let s1 := onCore s c fun k => { k with lastIssued := t }
  match decodeInsn c t w with
  | some i => (match exec i s1 with | .next u => u | _ => s1)
  | none => issueOn s1 c t fun _ => stopThread s1 c t stAddrUnmapped 0

/-- Issue from the first of some threads whose next instruction can issue. A thread that a failed queued instruction has marked stops here (R187). -/
def issueFirst (c : Nat) : List Nat → State → State
  | [], s => s
  | t :: ts, s =>
    match getThread s c t with
    | none => issueFirst c ts s
    | some th =>
      if th.stop then endOf (onCore s c fun k => { k with lastIssued := t }) c t
      else
        match fetchWord s c t th with
        | (s1, some w) => issueWord s1 c t w
        | (s1, none) => issueFirst c ts s1

/-- Has a slot a READY thread, and a core that serves it? -/
def slotReady (s : State) (c : Nat) : Bool := slotServed s c && (getCore s c).threads.any fun x => x.2.st == .ready

/-- Does a slot issue in this ck? Two slots that share a core alternate ck by ck, and a slot with no READY thread yields its ck to the other one (R139);
the ck's number tells whose it is (DESIGN CHOICE, log entry 148). A team that is paced skips its cks until the boundary (R57, log entry 179). -/
def ownsCk (s : State) (c : Nat) : Bool :=
  slotServed s c && !s.tick.pacedTeams.contains (teamOf c) &&
  match (smGet {} s.rel.teams (teamOf c)).shared with
  | none => true
  | some (i, h) =>
    if c % 8 ≠ i ∧ c % 8 ≠ h then true
    else if decide (s.now / ckUnits % 2 = 1) == (c % 8 == i) then true
    else !slotReady s (teamOf c * 8 + (if c % 8 = i then h else i))

/-- The fills of a core that have ended: its threads that waited for them are READY (R131, R286). -/
def fetchesDone (s : State) (c : Nat) : State :=
  wakeRoom (fillsDone s c) c fun b => match b with | .fetch till => decide (till ≤ s.now) | _ => false

/-- The issue stage of a core in one ck. -/
def issueStage (s : State) (c : Nat) : State := issueFirst c (issueOrder (getCore s c)) s

/-- Logical cores with a task. -/
def busyCores (s : State) : List Nat := (s.tower.cores.filter fun x => x.2.prog.isSome).map (·.1)

/-- One ck of every core. -/
def runCores (s : State) : State :=
  let s1 := (busyCores s).foldl fetchesDone s
  ((busyCores s1).filter (ownsCk s1)).foldl issueStage s1

end Sys2Proof.Machine
end

