-- ==== Sys2Proof/Machine/Clock.lean ====
section
/-! DEFINITION. The block's clock: what passes while no command is at the front of the queue (log entry 2). -/

namespace Sys2Proof.Machine

/-- One ck passes: what changed since the last one is booked first (R52, R339), TRST_N is high again (log entry 138), and held commands and chunks that
nothing holds any more begin (R74, R75, R525), so that what the ck counts is counted after a clear of the same ck (R89). Each core issues an
instruction (R129), the groom engines take the rows that have arrived (R379), the ports let go what a pause held and drain their buffers (R407),
stopped slots whose stall has ended go on (R475), stage 6 looks at the inlet again, an abandoned part's cores are powered down (R466), and at each whole
millisecond the draw is metered and the sideband registers are refreshed (R62, R552). -/
def clockStep (s : State) : State :=
  let s0 := settle s
  let s1 := fwPump (pump (onPin { s0 with now := s0.now + ckUnits } fun x => { x with trstLow := false }))
  let s2 := powerDown (inletCheck (resumeSlots (portsClock (groomRows (runCores s1)))))
  if s1.now / msUnits ≠ s.now / msUnits then msPassed s2 else s2

end Sys2Proof.Machine
end

