-- ==== Sys2Proof/Safety.lean ====
section
/-! DEFINITION. Safety: what a safe run of the block is, the invariants, and the terms that claims are stated in. -/

namespace Sys2Proof.Machine

/-- A step that goes on: neither a fault nor a refusal. -/
def goesOn (o : Host.Outcome State Fault Refusal) : Prop := ∃ t, o = .next t

/-- The bytes of device memory and of the scratchpads are in canonical form: addresses strictly rising, and no entry that reads as an unlisted
address does (log entry 14). -/
def Memory.wf (m : MemSt) : Bool := smWf 0 m.dev && smWf 0 m.spad

/-- Every table of the state that is listed by key is in canonical form: keys rise strictly and no entry holds what an unlisted key reads as. -/
structure TablesForm (s : State) : Prop where
  cores : smWf {} s.tower.cores = true
  slots : smWf {} s.tower.slots = true
  streams : smWf {} s.tower.streams = true
  sync : smWf 0 s.tower.sync = true
  watches : smWf [] s.tower.watches = true
  teams : smWf {} s.tower.teams = true
  ports : smWf {} s.eth.ports = true
  hubs : smWf {} s.eth.hubs = true
  relTeams : smWf {} s.rel.teams = true
  regions : smWf {} s.therm.regions = true
  shadow : keysRise none s.cfg.shadow = true
  active : keysRise none s.cfg.active = true
  progs : keysRise none s.progs = true
  threads : ∀ k ∈ s.tower.cores, keysRise none k.2.threads = true
  sealed : ∀ n ∈ s.tower.slots, ∀ r, n.2.sealed = some r → keysRise none r.core.threads = true

/-! ### Events and replies -/

/-- Space for an event, with no drop to report first (R86). -/
def EventRoom (s : State) : Prop := eventCount s < 1024 ∧ s.mp.dropRun = 0

/-- The bytes of an event with its number, of a condition that arose in a tick (Tables 03.5, 03.6). -/
def eventBytesAt (s : State) (tick seq status detail : Nat) (body : List Byte) : List Byte :=
  leBytes 4 0xFFFFFFFF ++ leBytes 2 status ++ leBytes 2 detail ++ leBytes 8 tick ++ leBytes 8 s.tick.curStep ++
    leBytes 4 seq ++ leBytes 2 body.length ++ leBytes 2 0 ++ body

/-- The bytes of an event of a condition that arises in `s`. -/
def eventBytes (s : State) (status detail : Nat) (body : List Byte) : List Byte := eventBytesAt s s.tick.count s.mp.evtSeq status detail body

/-- `s` with one event formed. -/
def withEvent (s : State) (status detail : Nat) (body : List Byte) : State :=
  { s with mp := { s.mp with replyQ := s.mp.replyQ ++ [⟨none, true, false, eventBytes s status detail body⟩],
                             evtSeq := (s.mp.evtSeq + 1) % 2 ^ 32 } }

/-- The body of a FAULT event (Table 03.11): layer, team, slot, thread, instruction address, fault address. -/
def faultBody (c t insn addr : Nat) : List Byte :=
  leBytes 1 (c / 512) ++ leBytes 1 (c / 8 % 64) ++ leBytes 1 (c % 8) ++ leBytes 1 0 ++ leBytes 2 (t % 1024) ++ leBytes 2 0 ++
    leBytes 8 insn ++ leBytes 8 addr

/-! ### Threads -/

/-- A thread that can issue: READY, not marked by a failed queued instruction (R187), in a slot that a core serves (R473). -/
structure CanIssue (s : State) (c t : Nat) (th : Thread) : Prop where
  thread : getThread s c t = some th
  ready : th.st = .ready
  unmarked : th.stop = false
  served : (getNode s c).mode = 0 ∨ (getNode s c).mode = 2

/-- An address in the code section of the program that a core runs (R162). -/
def InCode (s : State) (c pc : Nat) : Prop := ∃ p, (getCore s c).prog = some p ∧ p.codeLo ≤ pc ∧ pc < p.codeHi

/-- Thread `t` of core `c` is the READY one that the issue stage looks at first: those above the thread that issued last come before the others, and lower
ones before higher ones (R129). -/
structure IssuesFirst (s : State) (c t : Nat) (th : Thread) : Prop where
  thread : getThread s c t = some th
  ready : th.st = .ready
  first : ∀ x o, getThread s c x = some o → o.st = .ready →
    if (getCore s c).lastIssued < t then x ≤ (getCore s c).lastIssued ∨ t ≤ x else x ≤ (getCore s c).lastIssued ∧ t ≤ x

/-- From `s` to `v` only core `c` has changed, by `f`. -/
structure CoreAt (s v : State) (c : Nat) (f : CoreSt → CoreSt) : Prop where
  core : getCore v c = f (getCore s c)
  cores : ∀ k, k ≠ c → getCore v k = getCore s k
  rest : v = { s with tower := { s.tower with cores := v.tower.cores } }

/-- Register `x` of a thread as its instructions read it (R127). -/
def reg (th : Thread) (x : BitVec 5) : W64 := BitVec.ofNat 64 (gReg th x.toNat)

/-- The registers of `th'` are those of `th` but for `d`, which holds `v`; g0 keeps reading 0 (R127). -/
def WritesReg (th th' : Thread) (d : BitVec 5) (v : W64) : Prop :=
  ∀ x, reg th' x = if x = d ∧ x ≠ 0 then v else reg th x

/-- Every register of `th'` reads as it does in `th`. -/
def SameRegs (th th' : Thread) : Prop := ∀ x, reg th' x = reg th x

/-- READY at `pc`. -/
def ReadyAt (th : Thread) (pc : Nat) : Prop := th.st = .ready ∧ th.pc = pc ∧ th.stop = false

/-- From `s` to `u` only thread `t` of logical core `c` has changed, to `th'`: every other thread, everything else that core holds, every other
core, and every part of the state outside the tower's cores are as before. The team nodes' own count of completed instructions (R474) may
change for this slot alone. -/
structure OnlyThread (s u : State) (c t : Nat) (th' : Thread) : Prop where
  thread : getThread u c t = some th'
  threads : ∀ x, x ≠ t → getThread u c x = getThread s c x
  core : { getCore u c with threads := [] } = { getCore s c with threads := [] }
  cores : ∀ x, x ≠ c → getCore u x = getCore s x
  nodes : smWf {} s.tower.slots = true → ∀ x, x ≠ c → getNode u x = getNode s x
  rest : u = { s with tower := { s.tower with cores := u.tower.cores, slots := u.tower.slots } }

/-- The branch condition of Table 05.14 (R162). -/
def brTaken (op : BrOp) (a b : W64) : Bool :=
  match op with
  | .beq => a == b
  | .bne => a != b
  | .blt => a.slt b
  | .bge => b.sle a
  | .bltu => a.ult b
  | .bgeu => b.ule a

/-- The value that LD writes to its register from the bytes it has read (R161). -/
def loadedValue (width : BitVec 3) (bytes : List Byte) : W64 :=
  if width = 4 then (BitVec.ofNat 8 (leNat bytes)).signExtend 64
  else if width = 5 then (BitVec.ofNat 16 (leNat bytes)).signExtend 64
  else if width = 6 then (BitVec.ofNat 32 (leNat bytes)).signExtend 64
  else BitVec.ofNat 64 (leNat bytes)

/-- Bytes that LD and ST move (R161). -/
def widthLen (width : BitVec 3) : Nat :=
  if width = 0 ∨ width = 4 then 1 else if width = 1 ∨ width = 5 then 2 else if width = 2 ∨ width = 6 then 4 else 8

/-- The address of LD and ST (R161). -/
def memAddr (th : Thread) (r : MemArgs) : Nat := (reg th r.a + r.off.signExtend 64).toNat

/-- `(int32)(count - target) ≥ 0` (R143, R144). -/
def countReached (count target : Nat) : Bool := decide (0 ≤ (BitVec.ofNat 32 count - BitVec.ofNat 32 target).toInt)

/-- A row of one side of a stream leaves the scratchpad: row `i` begins `i` strides from `base` and has `rowBytes` bytes. -/
def RowOutside (base : Nat) (stride : Int) (rows rowBytes len : Nat) : Prop :=
  ∃ i, i < rows ∧ ((base : Int) + i * stride < 0 ∨ (len : Int) < base + i * stride + rowBytes)

/-- R152: what makes the stream descriptor `d`, with bytes 47 to 63 `tail`, invalid in a scratchpad of `len` bytes. The fields that the kind or the
flags of the stream do not use are not looked at. -/
def InvalidDesc (d : StreamDesc) (tail : List Byte) (len : Nat) : Prop :=
  d.rowBytes % 64 ≠ 0 ∨ d.rowBytes < 64 ∨ 2 ^ 24 < d.rowBytes ∨ d.rows < 1 ∨ 2 ^ 24 < d.rows ∨ d.srcStride % 64 ≠ 0 ∨
  (d.kind ≠ 2 ∧ (d.dstStride % 64 ≠ 0 ∨ d.dstStride = 0)) ∨ 3 < d.kind ∨ 32 < d.depth ∨ (d.flags % 2 = 1 ∧ d.signalN < 1) ∨
  4 ≤ d.flags ∨ (∃ b ∈ tail, b ≠ 0) ∨ 2 ^ 28 < d.rowBytes * d.rows ∨
  (d.kind = 0 ∧ RowOutside d.dst d.dstStride d.rows d.rowBytes len) ∨ (d.kind = 1 ∧ RowOutside d.src d.srcStride d.rows d.rowBytes len)

/-! ### Host commands -/

/-- The command packets with their opcodes (chapter 04). -/
def packetTable : List ((Pkt → Instr) × Nat) :=
  [(.devIdentify, 0x0001), (.devReset, 0x0002), (.devEcho, 0x0003), (.csRead, 0x0101), (.csWrite, 0x0102), (.csCommit, 0x0103),
   (.csDiscard, 0x0104), (.memRead, 0x0201), (.memWrite, 0x0202), (.memFill, 0x0203), (.memCopy, 0x0204), (.syncSet, 0x0205),
   (.syncRead, 0x0206), (.streamWait, 0x0207), (.progLoad, 0x0301), (.progUnload, 0x0302), (.taskSubmit, 0x0303),
   (.taskCancel, 0x0304), (.tensorDefine, 0x0401), (.tensorDrop, 0x0402), (.stepFence, 0x0403), (.epochQuery, 0x0404),
   (.evalSnapshot, 0x0405), (.packDefine, 0x0501), (.packRelease, 0x0502), (.portQuery, 0x0503), (.rcOpen, 0x0504),
   (.rcClose, 0x0505), (.fwChunk, 0x0601), (.fwStatus, 0x0602), (.fwArm, 0x0603), (.idAttest, 0x0604), (.idPubkey, 0x0605),
   (.thermRead, 0x0701), (.thermWaive, 0x0702), (.diagTeams, 0x0703), (.diagScan, 0x0704), (.bringStatus, 0x0801),
   (.topoRead, 0x0802), (.topoAccept, 0x0803), (.topoAbandon, 0x0804)]

/-- A block that takes a command packet at once: the link is UP, no packet waits, no boundary window, reset or commit is under way, and no command
in a slot waits for its work to begin or for a snapshot, no pack is being released, and no fence of a decided step waits for its reply. -/
structure TakesPackets (s : State) : Prop where
  up : s.bxl.state = 4
  waiting : s.mp.rxWait = []
  window : s.mp.inWindow = true → s.tick.running = true ∧ s.tick.acc.openedAt + 9000 ≤ s.now
  resetting : s.mp.resetting = false
  commit : s.mp.commit = none
  slots : ∀ x ∈ s.mp.slots, x.sid < s.mp.nextSid ∧ (∀ p op, x.work ≠ .held p op) ∧ x.work ≠ .snapshot
  packs : ∀ p ∈ s.step.packs, p.releasing = none ∧ ∀ x ∈ p.steps, x.fence = none ∨ x.decision = none

/-- A packet that passes checks 1 to 3 of Table 03.4 and finds a free slot of its channel (R71). -/
structure Accepted (s : State) (op : Nat) (p : Pkt) : Prop where
  crc : p.crc.toNat = crc32c (hdrBytes op p)
  tag : p.tag ≠ 0xFFFFFFFF
  room : ((s.mp.slots.filter fun x => x.mgmt == (p.chan == .management)).length < if p.chan = .management then 64 else 4096)

/-- An accepted packet that passes checks 4 to 9 as well, and that neither ORDERED nor TNB_VALID holds back. -/
structure Passes (s : State) (op : Nat) (p : Pkt) : Prop extends Accepted s op p where
  flags : p.flags.getLsbD 1 = false ∧ p.flags.getLsbD 2 = false
  checks : pktRefusal s op p = none

/-- A reply to a packet (Table 03.5): STEP is the packet's where it names one. -/
def replyTo (s : State) (p : Pkt) (sid : Option Nat) (status detail : Nat) (payload : List Byte) : Reply :=
  ⟨sid, false, false, leBytes 4 p.tag.toNat ++ leBytes 2 status ++ leBytes 2 detail ++ leBytes 8 s.tick.count ++
    leBytes 8 (if p.flags.getLsbD 0 then p.step.toNat else s.tick.curStep) ++ payload⟩

/-- The management processor after a packet has taken a slot, with the work still to do and the replies formed. -/
def withSlot (s : State) (op : Nat) (p : Pkt) (acked : Bool) (w : Work) (replies : List Reply) : MpSt :=
  { s.mp with
    nextSid := s.mp.nextSid + 1
    slots := s.mp.slots ++ [{ sid := s.mp.nextSid, mgmt := p.chan == .management, tag := p.tag.toNat, stepValid := p.flags.getLsbD 0,
                              step := p.step.toNat, opcode := op, acked := acked, work := w, at_ := s.now,
                              ref := if op = 0x0303 then getLe p.params 38 2 else if op = 0x0403 then getLe p.params 0 4 else 0 }]
    replyQ := if p.chan = .management then s.mp.replyQ else s.mp.replyQ ++ replies
    mgmtQ := if p.chan = .management then s.mp.mgmtQ ++ replies else s.mp.mgmtQ }

/-- A short command that has ended with its final reply (R80). -/
def shortDone (s : State) (op : Nat) (p : Pkt) (status detail : Nat) (payload : List Byte) : MpSt :=
  withSlot s op p false .done [replyTo s p (some s.mp.nextSid) status detail payload]

/-- A long command that has had ST_ACCEPTED and its final reply (R80). -/
def longDone (s : State) (op : Nat) (p : Pkt) (status detail : Nat) (payload : List Byte) : MpSt :=
  withSlot s op p true .done [replyTo s p none 0x0001 0 [], replyTo s p (some s.mp.nextSid) status detail payload]

/-- A long command that has had ST_ACCEPTED and is at work (R80). -/
def longWorks (s : State) (op : Nat) (p : Pkt) (w : Work) : MpSt := withSlot s op p true w [replyTo s p none 0x0001 0 []]

/-- The watch unit once a packet has been accepted: a STEP_FENCE that is the first to carry its step number is the one that closes the step (R275). -/
def fenceNoted (s : State) (op : Nat) (p : Pkt) : WatchSt :=
  if op = 0x0403 ∧ p.flags.getLsbD 0 = true ∧ ∀ f ∈ s.watch.fences, f.1 ≠ p.step.toNat then
    { s.watch with fences := s.watch.fences ++ [(p.step.toNat, s.mp.nextSid, none)] }
  else s.watch

/-- `s` while a packet's work begins: its slot is taken, and a long command has had ST_ACCEPTED. A TOPO_ABANDON that was accepted in TOPOLOGY_HOLD has
made the part ABANDONED (R466). -/
def began (s : State) (op : Nat) (p : Pkt) (long : Bool) : State :=
  { s with mp := withSlot s op p long (.held p op) (if long then [replyTo s p none 0x0001 0 []] else []), watch := fenceNoted s op p,
           dev := { s.dev with state := if op = 0x0804 ∧ s.dev.state = 1 then 3 else s.dev.state } }

/-- The commands that only report: opcode, long or short, the status and the payload of their final reply. -/
def queryTable : List ((Pkt → Instr) × Nat × Bool × (State → Nat) × (State → Pkt → List Byte)) :=
  [(.devIdentify, 0x0001, false, fun _ => 0, fun s _ =>
      leBytes 2 s.dev.fuses.variant ++ leBytes 2 s.dev.fuses.stepping ++ leBytes 1 s.dev.state ++ leBytes 1 s.dev.stage ++ leBytes 2 0 ++
        leBytes 8 s.dev.fuses.uid ++ leBytes 4 s.dev.fwVersion ++ leBytes 4 s.dev.fuses.rollback ++ leBytes 8 (if s.tick.running then s.tick.count else 0)),
   (.devEcho, 0x0003, false, fun _ => 0, fun _ p => p.params),
   (.syncRead, 0x0206, false, fun _ => 0, fun s p => leBytes 4 (syncCount s (getLe p.params 0 2))),
   (.epochQuery, 0x0404, false, fun _ => 0, fun s _ => leBytes 8 s.step.epochCur ++ leBytes 8 (s.step.epochPrev.getD (2 ^ 64 - 1))),
   (.portQuery, 0x0503, false, fun _ => 0, fun s p => portPayload s (getB p.params 0) (getB p.params 1)),
   (.fwStatus, 0x0602, false, fun s => s.fw.lastCheck, fun s _ => fwStatusPayload s),
   (.idAttest, 0x0604, true, fun _ => 0, fun s p => attestReport s p.params),
   (.idPubkey, 0x0605, false, fun _ => 0, fun _ _ => pubkeyPayload),
   (.thermRead, 0x0701, false, fun _ => 0, fun s p =>
      (List.range (getLe p.params 2 2)).flatMap fun i => leBytes 4 (sensorWord s (getLe p.params 0 2 + i))),
   (.diagTeams, 0x0703, false, fun _ => 0, fun s _ => teamsPayload s),
   (.bringStatus, 0x0801, false, fun _ => 0, fun s _ => bringPayload s)]

/-- The self-clearing bits (Tables 02.9, 03.16, 10.7, 11.4, 11.5, 12.6, 13.5, 14.9, 17.8, 18.11, 19.11, 20.7): word, bit, and what writing 1 clears. -/
def clearTable : List ((Hdr → Instr) × Nat × Nat × (State → State)) :=
  [(.clrOverrun, 0x7F0000020028, 0, fun s => { s with tick := { s.tick with overrunCnt := 0 } }),
   (.clrCarry, 0x7F0000020028, 1, fun s => { s with tick := { s.tick with carryCnt := 0 } }),
   (.tickClrRecDrop, 0x7F0000020028, 2, fun s => { s with tick := { s.tick with recDrop := 0 } }),
   (.clrPace, 0x7F0000021018, 0, fun s => { s with tick := { s.tick with paceCnt := 0 } }),
   (.clrShortfall, 0x7F0000021018, 1, fun s => { s with tick := { s.tick with shortCnt := 0 } }),
   (.clrMalformed, 0x7F0000010010, 0, fun s => { s with mp := { s.mp with malformed := 0 } }),
   (.clrEvtDrop, 0x7F0000010010, 1, fun s => { s with mp := { s.mp with evtDrop := 0 } }),
   (.clrBulkOrphan, 0x7F0000010010, 2, fun s => { s with mp := { s.mp with bulkOrphan := 0 } }),
   (.clrBxl, 0x7F00000100A8, 0, fun s => { s with bxl := { s.bxl with
      downCnt := 0, recoveryCnt := 0, fecCorr := 0, badFlit := 0, replayCnt := 0, protoErr := 0, overrun := 0, partialDrop := 0 } }),
   (.clrDeadReread, 0x7F0000040010, 0, fun s => { s with mem := { s.mem with cnt := { s.mem.cnt with deadReread := 0 } } }),
   (.clrDeadDrop, 0x7F0000040030, 0, fun s => { s with mem := { s.mem with cnt := { s.mem.cnt with deadDrop := 0 } } }),
   (.clrRed, 0x7F0000040030, 1, fun s => { s with mem := { s.mem with cnt := { s.mem.cnt with redFwd := 0, redSat := 0, redFull := 0 } } }),
   (.clrL1, 0x7F0000040030, 2, fun s => { s with mem := { s.mem with cnt := { s.mem.cnt with l1Merge := 0, l1Full := 0 } } }),
   (.clrNmErr, 0x7F00000410B0, 0, fun s => { s with mem := { s.mem with cnt := { s.mem.cnt with nmCe := 0, nmUe := 0 } } }),
   (.clrStkErr, 0x7F00000410B0, 1, fun s => { s with mem := { s.mem with cnt := { s.mem.cnt with
      stkCe := 0, stkUe := 0, parFix := 0, parMismatch := 0 } } }),
   (.clrAs, 0x7F00000410C0, 0, fun s => { s with mem := { s.mem with cnt := { s.mem.cnt with asRefuse := 0, asWait := 0 } } }),
   (.clrDrop, 0x7F0000044020, 0, fun s => { s with watch := { s.watch with ledDrop := 0, ledRecDrop := 0 } }),
   (.clrTrap, 0x7F0000030028, 0, fun s => { s with watch := { s.watch with trapped := false, trapRec := zeroBytes 48 } }),
   (.clrNanCnt, 0x7F0000030028, 1, fun s => { s with watch := { s.watch with nanCnt := 0 } }),
   (.clrEntryDrop, 0x7F0000030028, 2, fun s => { s with watch := { s.watch with entryDrop := 0 } }),
   (.clrRuns, 0x7F0000030028, 3, fun s => { s with watch := { s.watch with runs := s.watch.runs.map fun r => { r with run := 0, fired := false } } }),
   (.clrAlarm, 0x7F0000030028, 4, fun s => { s with watch := { s.watch with alarmCnt := 0 } }),
   (.watchClrRecDrop, 0x7F0000030028, 5, fun s => { s with watch := { s.watch with recDrop := 0 } }),
   (.clrContrib, 0x7F0000051030, 0, fun s => { s with step := { s.step with cnt := { s.step.cnt with contrib := 0, dup := 0 } } }),
   (.clrRefused, 0x7F0000051030, 1, fun s => { s with step := { s.step with cnt := { s.step.cnt with stale := 0, unknown := 0 } } }),
   (.clrTally, 0x7F0000051030, 2, fun s => { s with step := { s.step with cnt := { s.step.cnt with under := 0, tallySat := 0, nonfinite := 0 } } }),
   (.clrVote, 0x7F0000051030, 3, fun s => { s with step := { s.step with cnt := { s.step.cnt with timeout := 0, skip := 0, fallback := 0 } } }),
   (.clrFail, 0x7F0000050058, 0, fun s => { s with step := { s.step with groom := { s.step.groom with rerun := 0, fail := 0, diverge := 0 } } }),
   (.clrFactor, 0x7F0000050058, 1, fun s => { s with step := { s.step with groom := { s.step.groom with factorBad := 0 } } }),
   (.clrWait, 0x7F0000050058, 2, fun s => { s with step := { s.step with groom := { s.step.groom with waitShadow := 0, waitFactor := 0 } } }),
   (.clrLast, 0x7F0000050058, 3, fun s => { s with step := { s.step with groom := { s.step.groom with
      lastTensor := 0, lastCause := 0, lastHub := 0, lastDiverged := false, lastStep := 0 } } }),
   (.clrRel, 0x7F0000000070, 0, fun s => { s with rel := { s.rel with
      substCnt := 0, degradeCnt := 0, lostCnt := 0, stateLostCnt := 0, swapCnt := 0, failCnt := 0, clkOneCnt := 0, halfCnt := 0, sealCeCnt := 0, moduleCnt := 0 } }),
   (.clrAlert, 0x7F0000000070, 1, fun s => { s with rel := { s.rel with alert := false } }),
   (.clrTherm, 0x7F0000022028, 0, fun s => { s with therm := { s.therm with suspectCnt := 0, reinCnt := 0, curbCnt := 0, pullCnt := 0 } }),
   (.clrNet, 0x7F0000070030, 0, fun s => { s with fw := { s.fw with netOk := 0, netBad := 0 } })]

/-- `v` once the command of a packet taken in `s`, whose slot is the newest, has had its final reply: ST_ACCEPTED, where there is one, is in the queues
of `v` already. -/
def answeredIn (s v : State) (op : Nat) (p : Pkt) (long : Bool) (status detail : Nat) (payload : List Byte) : State :=
  { v with mp := { v.mp with
      slots := (withSlot s op p long .done []).slots
      replyQ := if p.chan = .management then v.mp.replyQ else v.mp.replyQ ++ [replyTo s p (some s.mp.nextSid) status detail payload]
      mgmtQ := if p.chan = .management then v.mp.mgmtQ ++ [replyTo s p (some s.mp.nextSid) status detail payload] else v.mp.mgmtQ } }

/-- `s` once a STEP_FENCE with a step number, accepted just now, has had its final reply: if it is the first to carry the number, it closes the step at the
next boundary and says what became of it (R275, R340). -/
def stepCloses (s : State) (step outcome : Nat) : State :=
  if ∀ f ∈ s.watch.fences, f.1 ≠ step then
    { s with watch := { s.watch with
        fences := s.watch.fences ++ [(step, s.mp.nextSid, some outcome)]
        open_ := s.watch.open_.map fun o => if o.step = step then { o with closing := some outcome } else o } }
  else s

/-- The decision of a step that a member has as soon as a fence looks at it (R366): the one made, or that of the votes of all members. -/
def stepDecision (k : Pack) (step : Nat) : Option (Bool × Nat × Nat × Nat) :=
  let x := (findPS k step).getD { step := step }
  match x.decision with
  | some d => some d
  | none =>
    if (List.range k.n).all fun m => x.votes.any fun v => v.1 == m then
      (if x.votes.all (·.2) then some (true, 0, 0x0000, 0) else some (false, 0, 0x0402, 0))
    else none

/-- Is no word of a read unmapped (R101)? -/
def wordsMapped (s : State) (a n : Nat) : Prop := ∀ i, i < n → csUnmapped s (a + 8 * i) = false

/-- Words that hold self-clearing bits. -/
def clearWords : List Nat :=
  clearTable.map (·.2.1) ++ (List.range 4).map (fun i => 0x7F0000020060 + 8 * i) ++ (List.range 6).map fun k => 0x7F0000060928 + 0x40 * k

/-! ### Scalar tables -/

/-- The integer instructions of Table 05.15: what each writes to gD, from gD, gA and gB. -/
def intTable : List ((RArgs → Instr) × (W64 → W64 → W64 → W64)) :=
  [(.add, fun _ a b => a + b), (.sub, fun _ a b => a - b), (.and, fun _ a b => a &&& b), (.or, fun _ a b => a ||| b),
   (.xor, fun _ a b => a ^^^ b), (.sll, fun _ a b => a <<< (b.toNat % 64)), (.srl, fun _ a b => a >>> (b.toNat % 64)),
   (.sra, fun _ a b => a.sshiftRight (b.toNat % 64)), (.slt, fun _ a b => if a.slt b then 1 else 0),
   (.sltu, fun _ a b => if a.ult b then 1 else 0), (.min, fun _ a b => if a.sle b then a else b),
   (.max, fun _ a b => if a.sle b then b else a), (.minu, fun _ a b => if a.ule b then a else b),
   (.maxu, fun _ a b => if a.ule b then b else a), (.mul, fun _ a b => a * b),
   (.mulhs, fun _ a b => BitVec.ofInt 64 (a.toInt * b.toInt / 2 ^ 64)),
   (.mulhu, fun _ a b => BitVec.ofNat 64 (a.toNat * b.toNat / 2 ^ 64)),
   (.divs, fun _ a b => if b = 0 then -1 else a.sdiv b), (.divu, fun _ a b => if b = 0 then -1 else a / b),
   (.rems, fun _ a b => if b = 0 then a else a.srem b), (.remu, fun _ a b => if b = 0 then a else a % b),
   (.sel, fun d a b => if d ≠ 0 then a else b)]

/-- The immediate instructions of layout I (Table 05.14): for each, the encodings that are valid, and what it writes to gD, from gD and gA. -/
def immTable : List ((IArgs → Instr) × (IArgs → Prop) × (IArgs → W64 → W64 → W64)) :=
  [(.addi, fun _ => True, fun r _ a => a + r.imm.signExtend 64), (.andi, fun _ => True, fun r _ a => a &&& r.imm.zeroExtend 64),
   (.ori, fun _ => True, fun r _ a => a ||| r.imm.zeroExtend 64), (.xori, fun _ => True, fun r _ a => a ^^^ r.imm.zeroExtend 64),
   (.shifti, fun r => r.imm.extractLsb' 8 8 = 0 ∧ r.imm.extractLsb' 6 2 ≠ 3, fun r _ a =>
      let n := (r.imm.extractLsb' 0 6).toNat
      if r.imm.extractLsb' 6 2 = 0 then a <<< n else if r.imm.extractLsb' 6 2 = 1 then a >>> n else a.sshiftRight n),
   (.slti, fun _ => True, fun r _ a => if a.slt (r.imm.signExtend 64) then 1 else 0),
   (.movz, fun r => r.a.extractLsb' 2 3 = 0, fun r _ _ => r.imm.zeroExtend 64 <<< (16 * (r.a.extractLsb' 0 2).toNat)),
   (.movk, fun r => r.a.extractLsb' 2 3 = 0, fun r d _ =>
      let n := 16 * (r.a.extractLsb' 0 2).toNat
      (d &&& ~~~((0xFFFF : W64) <<< n)) ||| (r.imm.zeroExtend 64 <<< n))]

/-- The scalar floating-point instructions (Table 05.16): whether field B must be 0, the format in which a NaN that they produce is reported, and the
value of gD from the mode of unit 0, gD, gA and gB. -/
def floatTable : List ((RArgs → Instr) × Bool × Option FpFmt × (Bool → W64 → W64 → W64 → Nat)) :=
  let f32s := fun (x : W64) => (x.setWidth 32 : W32).toNat
  let f16s := fun (x : W64) => (x.setWidth 16 : W16).toNat
  [(.fadd, false, some f32, fun m _ a b => (fpAdd f32 m (f32s a) (f32s b)).bits),
   (.fsub, false, some f32, fun m _ a b => (fpSub f32 m (f32s a) (f32s b)).bits),
   (.fmul, false, some f32, fun m _ a b => (fpMul f32 m (f32s a) (f32s b)).bits),
   (.ffma, false, some f32, fun m d a b => (fpFma f32 m (f32s a) (f32s b) (f32s d)).bits),
   (.fdiv, false, some f32, fun m _ a b => (fpDiv f32 m (f32s a) (f32s b)).bits),
   (.fsqrt, true, some f32, fun m _ a _ => (fpSqrt f32 m (f32s a)).bits),
   (.fmin, false, some f32, fun m _ a b => (fpMinMax f32 m false (f32s a) (f32s b)).bits),
   (.fmax, false, some f32, fun m _ a b => (fpMinMax f32 m true (f32s a) (f32s b)).bits),
   (.fabs, true, none, fun _ _ a _ => ((a.setWidth 32 : W32) &&& 0x7FFFFFFF).toNat),
   (.fneg, true, none, fun _ _ a _ => ((a.setWidth 32 : W32) ^^^ 0x80000000).toNat),
   (.fcmpeq, false, none, fun _ _ a b => if (fpCmp f32 0 (f32s a) (f32s b)).1 then 1 else 0),
   (.fcmplt, false, none, fun _ _ a b => if (fpCmp f32 1 (f32s a) (f32s b)).1 then 1 else 0),
   (.fcmple, false, none, fun _ _ a b => if (fpCmp f32 2 (f32s a) (f32s b)).1 then 1 else 0),
   (.fcvtS64, true, none, fun _ _ a _ => (fpToInt f32 64 true (f32s a)).bits),
   (.fcvtFS64, true, none, fun _ _ a _ => (fpOfInt f32 a.toInt).bits),
   (.fcvtBf16, true, some bf16, fun m _ a _ => (fpCvt f32 bf16 m (f32s a)).bits),
   (.fcvtFBf16, true, some f32, fun m _ a _ => (fpCvt bf16 f32 m (f16s a)).bits),
   (.fcvtFp16, true, some f16, fun m _ a _ => (fpCvt f32 f16 m (f32s a)).bits),
   (.fcvtFFp16, true, some f32, fun m _ a _ => (fpCvt f16 f32 m (f16s a)).bits)]

/-- `s` with a stack instruction of a slot in its team's queue. -/
def stkPut (s : State) (c t pc : Nat) (op : StkOp) : State := onTeam s (c / 8) fun x => { x with stkq := x.stkq ++ [(c, { thr := t, pc := pc, op := op })] }

/-- An instruction that enters the queue of a unit (R130): with room its thread goes on and `v` holds the queue with it; with none the thread is
BLOCKED until there is, and nothing else changes. -/
def Enters (s : State) (c t : Nat) (th : Thread) (i : Instr) (unit : UnitId) (room : Bool) (v : State) : Prop :=
  (room = true → InCode s c (th.pc + 4) →
    ∃ u th', exec i s = .next u ∧ OnlyThread v u c t th' ∧ ReadyAt th' (th.pc + 4) ∧ SameRegs th th') ∧
  (room = false → ∃ u, exec i s = .next u ∧ OnlyThread s u c t { th with st := .blocked (.room unit) })

/-! ### Events of the hardware -/

/-- The instructions of the test access port (R553) that take no level from a land: the rails each needs (VAUX and VIO), and the data register it selects. -/
def jtagTable : List (Instr × List Nat × JtagIns × (State → Nat)) :=
  [(.bypass, [0, 1], .bypass, fun _ => 0), (.idcode, [0, 1], .idcode, fun _ => 0x25A4416F), (.extest, [0, 1], .extest, fun s => s.pin.boundary),
   (.extestPulse, [0, 1], .extestPulse, fun s => s.pin.boundary), (.extestTrain, [0, 1], .extestTrain, fun s => s.pin.boundary),
   (.clamp, [0, 1], .clamp, fun _ => 0), (.highz, [0, 1], .highz, fun _ => 0)]

/-- `u` is `s` after a reset that holds the part in stage 1 with RESET_CAUSE `cause` (R448, R512, R516, R550): fuses, boot flash, the sensors'
estimates, field fault record and the test port stay, and everything else takes its reset value, the sideband registers too (Table 21.8). ALERT_N,
THERMTRIP_N, RST_N and the rails are said apart. -/
structure ResetTo (s u : State) (cause : Nat) : Prop where
  dev : u.dev = { fuses := s.dev.fuses, stage := 1 }
  therm : u.therm = { est := s.therm.est, tripped := u.therm.tripped, coldSince := u.therm.coldSince }
  rel : u.rel = { ffr := s.rel.ffr, alert := u.rel.alert }
  bring : u.bring = { t0 := s.bring.t0, stageAt := s.now, resetCause := cause, rstLow := u.bring.rstLow, rails := u.bring.rails,
                       flashOpen := u.bring.flashOpen, rawStage := s.bring.rawStage, rawRecord := s.bring.rawRecord }
  fw : u.fw = { selA := s.fw.selA, selB := s.fw.selB, bank0 := s.fw.bank0, bank1 := s.fw.bank1, bootRec := s.fw.bootRec, chunks := s.fw.chunks,
                bitmap := s.fw.bitmap, total := s.fw.total, armed := s.fw.armed, lastCheck := s.fw.lastCheck }
  rest : u = { State.reset with pending := s.pending, now := s.now, draws := s.draws, dev := u.dev, therm := u.therm, rel := u.rel,
                                bring := u.bring, fw := u.fw, pin := { s.pin with side := BitVec.ofNat 8 0x5A :: List.replicate 15 0 } }

/-- What a reset keeps of the pins: ALERT_N, RST_N, the rails, and whether a programmer may have written the boot flash. -/
def SamePins (s u : State) : Prop :=
  u.rel.alert = s.rel.alert ∧ u.bring.rstLow = s.bring.rstLow ∧ u.bring.rails = s.bring.rails ∧ u.bring.flashOpen = s.bring.flashOpen

/-- The body of a STAGE_REPORT event (Table 17.2) of a stage that ends now. -/
def stageBody (s : State) (n result cause : Nat) (words : List Nat) : List Byte :=
  leBytes 1 n ++ leBytes 1 result ++ leBytes 2 cause ++ leBytes 4 ((s.now - s.bring.stageAt) / 3000) ++ leBytes 8 ((s.now - s.bring.t0) / 3000) ++
    (List.range 12).flatMap fun i => leBytes 4 (words.getD i 0)

/-- `s` with the report of stage `n` formed: it is kept for BRING_STATUS and sent as an event (R451, R468). -/
def stageOver (s : State) (n result cause : Nat) (words : List Nat) : State :=
  { withEvent s (if result = 2 then 0x0701 else if result = 3 then 0x0702 else 0) 0x0001 (stageBody s n result cause words) with
    bring := { s.bring with reports := smIns s.bring.reports n (stageBody s n result cause words) } }

/-- `s` once stage `n` has passed: the next stage begins (R446). -/
def stagePassed (s : State) (n : Nat) (repaired : Bool) (words : List Nat) : State :=
  let v := stageOver s n (if repaired then 1 else 0) 0 words
  { v with dev := { v.dev with stage := n + 1 }, bring := { v.bring with stageAt := s.now } }

/-- `s` once stage `n` has halted (R447): the stage stays, ALERT_N is asserted. -/
def stageHalted (s : State) (n cause : Nat) (words : List Nat) : State :=
  let v := stageOver s n 2 cause words
  { v with bring := { v.bring with halted := cause }, rel := { v.rel with alert := true } }

/-- `s`, held in stage 1, once stage 1 has passed: the MP runs, its report is formed, and the link is in DETECT (R439, R449). -/
def mpStarted (s : State) : State :=
  let v := stagePassed s 1 false [s.bring.resetCause, s.bring.rails]
  { v with bxl := { v.bxl with state := 1, stateSince := s.now, initPhase := false, txOn := true } }

/-- A stage that runs. -/
def StageRuns (s : State) (n : Nat) : Prop := s.dev.state = 0 ∧ s.dev.stage = n ∧ s.bring.halted = 0

/-- `v` once the command in slot `x` has had its final reply (R76, R80): the slot's work is done, and the reply waits in its channel's queue. -/
def endedWith (v : State) (x : Slot) (status detail : Nat) (payload : List Byte) : State :=
  let r : Reply := ⟨some x.sid, false, false, leBytes 4 x.tag ++ leBytes 2 status ++ leBytes 2 detail ++ leBytes 8 v.tick.count ++
    leBytes 8 (if x.stepValid then x.step else v.tick.curStep) ++ payload⟩
  { v with mp := { v.mp with
      slots := v.mp.slots.map fun y => if y.sid = x.sid then { y with work := .done } else y
      replyQ := if x.mgmt then v.mp.replyQ else v.mp.replyQ ++ [r]
      mgmtQ := if x.mgmt then v.mp.mgmtQ ++ [r] else v.mp.mgmtQ } }

/-- `v` once a slot works on `w` and keeps the bulk packets `left`, and `n` flits of the bulk channel have given their credits back (R442). -/
def bulkTaken (v : State) (x : Slot) (w : Work) (left : List (Nat × List Byte)) (n : Nat) : State :=
  returnCredit { v with mp := { v.mp with slots := v.mp.slots.map fun y => if y.sid = x.sid then { y with work := w, bulk := left } else y } } 2 n

/-- A slot that still has its final reply to come. -/
def Outstanding (s : State) (x : Slot) : Prop := findSlot s x.sid = some x ∧ x.work ≠ .done

/-- Nothing waits to begin: no packet, no held command, no snapshot, no release and no fence of a decided step. -/
structure NothingWaits (s : State) : Prop where
  packets : s.mp.rxWait = []
  slots : ∀ x ∈ s.mp.slots, (∀ p op, x.work ≠ .held p op) ∧ x.work ≠ .snapshot
  packs : ∀ p ∈ s.step.packs, p.releasing = none ∧ ∀ x ∈ p.steps, x.fence = none ∨ x.decision = none

/-! ### The vector engine -/

/-- A thread that can issue and holds the vector context `x` (R190). -/
structure HasContext (s : State) (c t : Nat) (th : Thread) (x : VCtx) : Prop extends CanIssue s c t th where
  context : findCtx s c t = some x

/-- From `v` to `u` the thread goes on at PC + 4 with its registers as they are; of the rest only reports of NaNs may be new. -/
def VecGoesOn (v u : State) (r : VArgs) (th : Thread) : Prop :=
  ∃ th', OnlyThread { v with tower := { v.tower with nans := u.tower.nans } } u r.core.toNat r.thr.toNat th' ∧ ReadyAt th' (th.pc + 4) ∧ SameRegs th th'

/-- From `v` to `u` the thread goes on at PC + 4 and gD holds `w`. -/
def VecPutsReg (v u : State) (r : VArgs) (th : Thread) (w : W64) : Prop :=
  ∃ th', OnlyThread v u r.core.toNat r.thr.toNat th' ∧ ReadyAt th' (th.pc + 4) ∧ WritesReg th th' r.d w

/-- The context `y` is `x` with `vals` in elements 0 up of register `d` at width `w`; the tail and the other registers keep their values (R194). -/
structure WritesElems (x y : VCtx) (d : BitVec 5) (w : Nat) (vals : List Nat) : Prop where
  elems : ∀ e, w * (e + 1) ≤ 4096 → vGet y d.toNat w e = if e < vals.length then vals.getD e 0 % 2 ^ w else vGet x d.toNat w e
  others : ∀ r, r ≠ d.toNat → vReg y r = vReg x r
  rest : y = { x with v := y.v, vstat := y.vstat }

/-- Bits of an element of the EW code of an instruction (Table 07.1). -/
def ewOf (r : VArgs) : Nat := 8 * 2 ^ r.ew.toNat

/-- The elementwise instructions (Table 07.2), and whether each has an operand B. -/
def elemTable : List ((VArgs → Instr) × VOp × Bool) :=
  [(.vadd, .add, true), (.vsub, .sub, true), (.vmul, .mul, true), (.vfma, .fma, true), (.vmin, .min, true), (.vmax, .max, true),
   (.vabs, .abs, false), (.vneg, .neg, false), (.vdiv, .div, true), (.vsqrt, .sqrt, false), (.vrcp, .rcp, false), (.vrsqrt, .rsqrt, false),
   (.vexp2, .exp2, false), (.vlog2, .log2, false), (.vand, .and, true), (.vor, .or, true), (.vxor, .xor, true), (.vshl, .shl, true),
   (.vshr, .shr, true), (.vcmpeq, .cmpeq, true), (.vcmplt, .cmplt, true), (.vcmple, .cmple, true), (.vsel, .sel, true)]

/-- The permutations (R199): the source lane that each names for element `i`, or none for a vacated one. -/
def permTable : List ((VArgs → Instr) × (VArgs → Thread → VCtx → Nat → Option Nat)) :=
  [(.vperm, fun r _ x i => some (vGet x r.b.toNat (ewOf r) i)), (.vslidedn, fun r th _ i => some (i + (reg th r.b).toNat)),
   (.vslideup, fun r th _ i => if i < (reg th r.b).toNat then none else some (i - (reg th r.b).toNat))]

/-- The vector instructions that need a context, and those of them that use elements of the width EW. -/
def vecTable : List ((VArgs → Instr) × Bool) :=
  elemTable.map (fun e => (e.1, true)) ++ permTable.map (fun e => (e.1, true)) ++
    [(.vld, true), (.vst, true), (.vbcast, true), (.vext, true), (.vcvt, true), (.vred, true), (.vrelease, false), (.vsetvl, false), (.vstat, false),
     (.vqmov, false), (.vqset, false), (.vep, false)]

/-! ### Queued units -/

/-- From `v` to `u` the head of the queue of `unit` of core `c` has left, and `left` says which threads still have an instruction there: threads that
waited for room are READY, those at a fence with nothing left go on, and every other thread, core and part of the state is as before (R130). -/
structure Leaves (v u : State) (c : Nat) (unit : UnitId) (left : Nat → Bool) : Prop where
  cores : ∀ k, k ≠ c → getCore u k = getCore v k
  ready : ∀ t th, getThread v c t = some th → th.st = .ready → getThread u c t = some th
  room : ∀ t th, getThread v c t = some th → th.st = .blocked (.room unit) → getThread u c t = some { th with st := .ready, since := v.now }
  fence : ∀ t th, getThread v c t = some th → th.st = .blocked (.fence unit) → left t = false → InCode v c (th.pc + 4) →
    getThread u c t = some { th with st := .ready, pc := th.pc + 4, since := v.now }
  waits : ∀ t th, getThread v c t = some th → th.st = .blocked (.fence unit) → left t = true → getThread u c t = some th
  rest : u = { v with tower := { v.tower with
    cores := u.tower.cores, slots := u.tower.slots, teams := u.tower.teams, watches := u.tower.watches }, mp := u.mp }

/-- From `s` to `v` thread `t` has been stopped by its queued instruction at `insn` (R187): at its next issue if READY, at once if BLOCKED. The FAULT
event is formed, unless a replay repeats it. -/
structure StopsQueued (s v : State) (c t insn status addr : Nat) : Prop where
  ready : ∀ th, getThread s c t = some th → th.st = .ready → getThread v c t = some { th with stop := true }
  blocked : ∀ th on, getThread s c t = some th → th.st = .blocked on → getThread v c t = some { th with st := .ended, stop := false }
  threads : ∀ x th, x ≠ t → getThread s c x = some th → th.st ≠ .blocked (.room .vector) → getThread v c x = some th
  cores : ∀ k, k ≠ c → getCore v k = getCore s k
  event : (getNode s c).suppress.faults = 0 → EventRoom s → v.mp = (withEvent s status 0x0006 (faultBody c t insn addr)).mp
  silent : (getNode s c).suppress.faults ≠ 0 → v.mp = s.mp
  rest : v = { s with tower := { s.tower with cores := v.tower.cores, slots := v.tower.slots, watches := v.tower.watches }, mp := v.mp }

/-- The command answers a state in which the head of the queue of `unit` has left `v`, and `queue` holds. -/
def HeadLeaves (o : Host.Outcome State Fault Refusal) (v : State) (c : Nat) (unit : UnitId) (left : State → Nat → Bool) (queue : State → Prop) : Prop :=
  ∃ u, o = .next u ∧ Leaves v u c unit (left u) ∧ queue u

/-- The command answers a state in which the head of the queue of `unit` has failed in `s` with status and FAULT_ADDR `f`, and `queue` holds. -/
def HeadFails (o : Host.Outcome State Fault Refusal) (s : State) (c t insn : Nat) (unit : UnitId) (left : State → Nat → Bool) (f : Nat × Nat)
    (queue : State → Prop) : Prop :=
  ∃ v u, o = .next u ∧ StopsQueued s v c t insn f.1 f.2 ∧ Leaves v u c unit (left u) ∧ queue u

/-- From `s` to `u` only the team node's record of slot `c` has changed, to `n`. -/
def OnlyNode (s u : State) (c : Nat) (n : SlotNode) : Prop :=
  u = { s with tower := { s.tower with slots := u.tower.slots } } ∧ getNode u c = n ∧ ∀ k, k ≠ c → getNode u k = getNode s k

/-- From `s` to `u` only the team state of logical team `t` has changed, to `y`. -/
def OnlyTeam (s u : State) (t : Nat) (y : TeamSt) : Prop :=
  u = { s with tower := { s.tower with teams := u.tower.teams } } ∧ getTeam u t = y ∧ ∀ k, k ≠ t → getTeam u k = getTeam s k

/-- From `s` to `u` the thread goes on at PC + 4 with its registers as they are, and nothing else has changed. -/
def GoesOnAt (s u : State) (c t : Nat) (th : Thread) : Prop := ∃ th', OnlyThread s u c t th' ∧ ReadyAt th' (th.pc + 4) ∧ SameRegs th th'

/-- The row operations (chapter 08) with their OP codes, and the conversions (chapter 09). -/
def rowTable : List ((BitVec 8 → Instr) × Nat) := [(.smaxFwd, 0), (.smaxBwd, 1), (.lnormFwd, 2), (.lnormBwd, 3), (.rmsFwd, 4), (.rmsBwd, 5)]
def convTable : List ((BitVec 11 → Instr) × ConvOp) := [(.camaxExecute, .camax), (.ccvtExecute, .ccvt), (.cdecExecute, .cdec)]

/-- From `s` to `v` a record has been put at `a`: written, unless its place is unmapped or protected, or the write meets an error; `ok` tells which. -/
def RecordPut (s v : State) (ok : Bool) (a : Nat) (bs : List Byte) : Prop :=
  (devAccessFault s true a bs.length ≠ none → v = s ∧ ok = false) ∧
  (devAccessFault s true a bs.length = none → ∀ w q, memWrite s a bs = (w, q) → v = w ∧ (q = .ok () → ok = true) ∧ ∀ e, q = .error e → ok = false)

/-! ### Reliability -/

/-- The body of a SPARE_SUBST event (Table 18.3): kind, cause, flags, and what failed and what replaces it. -/
def substBody (s : State) (kind cause flags a b c d : Nat) : List Byte :=
  leBytes 1 kind ++ leBytes 1 cause ++ leBytes 1 flags ++ leBytes 1 0 ++ leBytes 1 a ++ leBytes 1 b ++ leBytes 1 c ++ leBytes 1 d ++
    leBytes 8 (if s.tick.running then s.tick.count else 0)

/-- Stacks that tower and host cannot reach: not lost, and every harness module that carries them is down (R489). -/
def CutRight (u : State) : Prop :=
  ∀ i, i ∈ u.mem.cut ↔ i < hubCount u * stacksPerHub u ∧ i ∉ u.mem.lost ∧
    ∀ m, m < 192 / hubCount u → m % stacksPerHub u = i % stacksPerHub u → (i / stacksPerHub u, m) ∈ u.rel.modules

/-- The body of a TEAM_DEGRADED event (Table 18.4). -/
def degradedBody (s : State) (t state cause slot host cancelled : Nat) : List Byte :=
  leBytes 1 (t / 64) ++ leBytes 1 (t % 64) ++ leBytes 1 state ++ leBytes 1 cause ++ leBytes 1 slot ++ leBytes 1 host ++ leBytes 1 (min 255 cancelled) ++
    leBytes 1 0 ++ leBytes 8 (if s.tick.running then s.tick.count else 0)

/-- From `s` to `u` the tasks of `gone` have been stopped: they have left, each with its final reply ST_CANCELLED, and the rest of the tick is as it was;
the event with `body`, if there is room, is the newest reply (R478 to R480). -/
structure TasksStop (s u : State) (gone : Task → Bool) : Prop where
  rest : u = { s with
    tick := { s.tick with tasks := u.tick.tasks, acc := { s.tick.acc with worked := u.tick.acc.worked } }
    tower := u.tower
    draws := u.draws
    watch := u.watch
    mem := u.mem
    mp := u.mp
    rel := u.rel }
  tasks : u.tick.tasks = s.tick.tasks.filter fun j => !(s.tick.tasks.any fun k => gone k && k.sid == j.sid)
  replies : ∀ x, Outstanding s x → ∀ k ∈ s.tick.tasks, gone k = true → k.sid = x.sid → (∃ y, findSlot u x.sid = some y ∧ y.work = .done) ∧
    ∃ r ∈ (if x.mgmt then u.mp.mgmtQ else u.mp.replyQ), r.sid = some x.sid ∧ r.bytes = leBytes 4 x.tag ++ leBytes 2 0x0305 ++ leBytes 2 0 ++
      leBytes 8 s.tick.count ++ leBytes 8 (if x.stepValid then x.step else s.tick.curStep)

/-- From `s` to `u` one event has been formed; other replies may have gone into the queue before it. -/
def EventLast (s u : State) (status detail : Nat) (body : List Byte) : Prop :=
  EventRoom s → u.mp.evtSeq = (s.mp.evtSeq + 1) % 2 ^ 32 ∧ ∃ q, u.mp.replyQ = q ++ [⟨none, true, false, eventBytes s status detail body⟩]

/-- The triggers of a core fault with their codes (Table 18.1). -/
def triggerTable : List (FaultTrigger × Nat) := [(.check, 1), (.state, 2), (.hang, 3), (.bond, 4), (.channel, 5)]

/-- A fenced-core mask with core `i` added. -/
def withCore (m i : Nat) : Nat := if m.testBit i then m else m + 2 ^ i

/-- From `s` to `u` logical core `c` has stopped with its sealed state restored (no accumulate of a sealed head has ended since); where that cannot be
read, the tasks of its team are to stop, or, with none that runs, the slot is blank (R473, R478). -/
structure SlotStopped (s u : State) (c : Nat) (readable : Bool) : Prop where
  mode : readable = true → (getNode u c).mode = 1
  sealed : readable = true → (getNode s c).eff.accEnd = [] → ∀ r, (getNode s c).sealed = some r → getCore u c = r.core
  alert : readable = false → u.rel.alert = true
  lost : readable = false → (∃ k ∈ s.tick.tasks, k.running = true ∧ k.teams.testBit (c / 8) = true) →
    c % 8 ∈ (getRel u (c / 8)).stateLost ∧ (getNode u c).mode = 3
  blank : readable = false → (∀ k ∈ s.tick.tasks, k.running = true → k.teams.testBit (c / 8) = false) → getNode u c = {} ∧ getCore u c = {}

/-- From `s` to `u` the common domain of team `t` has failed: its eight slots have stopped, what its node holds is no longer specified (free values), and it
is to be LOST at the next boundary (R480). -/
def TeamFails (s u : State) (t cause : Nat) : Prop :=
  u = { s with
    draws := s.draws + 518
    tower := { s.tower with sync := u.tower.sync, streams := u.tower.streams, teams := u.tower.teams, slots := u.tower.slots }
    rel := { s.rel with teams := u.rel.teams }
    tick := u.tick
    watch := u.watch } ∧
  (∀ k, k < 8 → (getNode u (8 * t + k)).mode = 3) ∧ (∀ k, k / 8 ≠ t → getNode u k = getNode s k) ∧
  getRel u t = (if (getRel s t).lost = false ∧ (getRel s t).lostDue = none then { getRel s t with lostDue := some (cause, 0xFF, tickOrZero s) } else getRel s t) ∧
  (∀ x, x ≠ t → getRel u x = getRel s x) ∧
  (∀ i, i < 256 → syncCount u (256 * t + i) = Config.freeWord (s.draws + i) % 2 ^ 32) ∧ (∀ o, o / 256 ≠ t → syncCount u o = syncCount s o) ∧
  (∀ i, i < 64 → getStream u (64 * t + i) = { getStream s (64 * t + i) with
    seq := Config.freeWord (s.draws + 256 + i) % 2 ^ 32
    word := Config.freeWord (s.draws + 320 + i) % 2 ^ 64 }) ∧
  (∀ i, i / 64 ≠ t → getStream u i = getStream s i) ∧ (∀ k, k ≠ t → getTeam u k = getTeam s k) ∧
  getTeam u t = { getTeam s t with
    used := Config.freeWord (s.draws + 512) % 2 ^ 40
    held := Config.freeWord (s.draws + 513) % 2 ^ 40
    near := Config.freeWord (s.draws + 514) % 2 ^ 40
    frames := freeFrames (s.draws + 515)
    side := freeRecs (s.draws + 516) 16384
    ovf := freeRecs (s.draws + 517) (recCapacity s t - 16384) }

/-- What a command answers where the node of the unused team `n`, on physical team `p` of its layer, has failed in `v`: all its cores are fenced and the
field fault record has an entry, and nothing else has changed (R480, R481). -/
def UnusedFails (v : State) (o : Host.Outcome State Fault Refusal) (n p : Nat) : Prop :=
  keysRise none v.bring.fenced = true → ∃ u, o = .next u ∧
    u = { v with rel := { v.rel with ffrPending := u.rel.ffrPending }, bring := { v.bring with fenced := u.bring.fenced } } ∧
    smGet 0 u.bring.fenced (n / 2 * 66 + p) = 0x1FF ∧ (v.rel.ffr.length + v.rel.ffrPending.length < 1024 → ∃ e, u.rel.ffrPending = v.rel.ffrPending ++ [e] ∧
      e.take 3 = leBytes 1 (n / 2) ++ leBytes 1 p ++ leBytes 1 0xFF)

/-- `s` with a fault kept until READY (R464). -/
def keptFault (s : State) (h : HeldFault) : State := { s with rel := { s.rel with heldFaults := s.rel.heldFaults ++ [h] } }

/-! ### Ports and packs -/

/-- `s` with a port changed; and with the counters of a hub changed. -/
def portChanged (s : State) (hub port : Nat) (f : PortSt → PortSt) : State :=
  { s with eth := { s.eth with ports := smMod {} s.eth.ports (hub * 16 + port) f } }
def hubCounted (s : State) (hub : Nat) (f : HubEth → HubEth) : State := { s with eth := { s.eth with hubs := smMod {} s.eth.hubs hub f } }

/-- `s` with the counters of the packs changed. -/
def packCounted (s : State) (f : PackCnt → PackCnt) : State := { s with step := { s.step with cnt := f s.step.cnt } }

/-- `s` with a frame on the wire of a port (R405, R406). -/
def onWire (s : State) (hub port : Nat) (t : EthTx) : State :=
  portChanged { s with eth := { s.eth with tx := s.eth.tx ++ [⟨frameHead s hub port t, t⟩] } } hub port fun p =>
    { p with txFrames := min (p.txFrames + 1) (2 ^ 64 - 1) }

/-- `s` once a port has a frame to send: on the wire, or waiting while its traffic class is paused (R407). -/
def portSends (s : State) (hub port : Nat) (t : EthTx) : State :=
  if txPaused s hub port t then portChanged s hub port fun p => { p with txHeld := p.txHeld ++ [t] } else onWire s hub port t

/-- The counters of a port after a frame (Table 15.3): codewords, and a good frame or one of a wrong length. -/
def frameCounts (f : NetFrame) (good : Bool) (p : PortSt) : PortSt :=
  { p with fecCorr := min (p.fecCorr + f.corrected) (2 ^ 64 - 1)
           fecUncorr := min (p.fecUncorr + f.uncorrectable) (2 ^ 64 - 1)
           rxFrames := if good then min (p.rxFrames + 1) (2 ^ 64 - 1) else p.rxFrames
           rxBadFcs := if good then p.rxBadFcs else min (p.rxBadFcs + 1) (2 ^ 64 - 1) }

/-- `s` once a frame of 64 to 9,216 bytes has arrived: counted, and in its priority's receive buffer, which past 75 % of 2 MiB sends XOFF once
(R405 to R407). -/
def frameArrived (s : State) (f : NetFrame) : State :=
  let i := f.prio.toNat
  let v := portChanged (portChanged s f.hub f.port (frameCounts f true)) f.hub f.port fun p =>
    { p with rxFill := smSet 0 p.rxFill i (min 2097152 (smGet 0 p.rxFill i + f.size)) }
  let p := getPort v (f.hub * 16 + f.port)
  if pfcEnabled s f.hub i = true ∧ 6291456 < 4 * smGet 0 p.rxFill i ∧ i ∉ p.xoff then
    onWire (portChanged v f.hub f.port fun p => { p with xoff := p.xoff ++ [i] }) f.hub f.port (.pfc f.hub f.port i true)
  else v

/-- The state in which a frame's arrival ends without being taken: at a port that is not UP, with a wrong length, or not for the device (R406, R409). -/
def frameEnds (s : State) (f : NetFrame) : Option State :=
  if portUp s f.hub f.port = false then some s
  else if f.size < 64 ∨ 9216 < f.size then some (portChanged s f.hub f.port (frameCounts f false))
  else if frameOurs s f = false then
    some (portChanged (frameArrived s f) f.hub f.port fun p => { p with rxDrop := min (p.rxDrop + 1) (2 ^ 64 - 1) })
  else none

/-- The message `m` of a type, in form, arrives for the device from member `p` of a pack that it names rightly, with header `h`. -/
structure PackArrives (s : State) (m : PackRx) (type : Nat) (p : Pack) (h : PackHdr) : Prop where
  taken : frameEnds s m.toNetFrame = none
  form : packFormOk m.bytes = true
  hdr : h = packHdr m.bytes
  type : h.type = type
  pack : findPack s h.pack = some p
  member : h.member < p.n ∧ h.srcHub ≤ 5 ∧ memberAddr p h.member h.srcHub = m.src

/-- `s` once the message has been counted at its port, and as relayed where it arrived at another hub than the one it is for (R417). -/
def packIn (s : State) (m : PackRx) (h : PackHdr) : State := countRelay (frameArrived s m.toNetFrame) m h

/-- The failure of a groom update (R397, Table 14.9): the update's phase and the counters. -/
structure UpdateFails (s u : State) (p : Pack) (x : PackStep) (t : Tensor) (cause : Nat) : Prop where
  phase : ∀ y ∈ (getPS u p.id x.step).updates, y.tensor = t.id → y.phase = .failed cause ∧ y.late = committed x
  groom : u.step.groom = { s.step.groom with
    fail := min (s.step.groom.fail + 1) (2 ^ 32 - 1)
    diverge := if committed x then min (s.step.groom.diverge + 1) (2 ^ 32 - 1) else s.step.groom.diverge
    lastTensor := t.id
    lastCause := cause
    lastHub := t.hub
    lastDiverged := committed x
    lastStep := x.step }

/-- Every pack has decided the step, one of them to commit, and a STEP_FENCE of it waits (R317). -/
def SwitchDue (s : State) (n : Nat) : Prop :=
  (∃ p ∈ s.step.packs, ∃ x ∈ p.steps, x.step = n ∧ x.fence ≠ none ∧ x.decision ≠ none) ∧
  (∀ p ∈ s.step.packs, ∃ x d, findPS p n = some x ∧ x.decision = some d) ∧
  (∃ p ∈ s.step.packs, ∃ x d, findPS p n = some x ∧ x.decision = some d ∧ d.1 = true)

/-- The descriptor of a tensor changed. -/
def tensorMap (s : State) (id : Nat) (f : Tensor → Tensor) : List Tensor := s.step.tensors.map fun y => if y.id = id then f y else y

/-- What a connection sends: nothing, where its port is not UP or has no next hop (R408). -/
def connSends (s : State) (c : RcConn) (t : RcTx) : State :=
  if portUp s c.hub c.port = true ∧ portGw s c.hub c.port ≠ 0 then portSends s c.hub c.port (.roce c.hub c.port c.v6 c.remoteAddr t) else s

/-- The connections numbered `qpn` changed. -/
def connChanged (s : State) (qpn : Nat) (f : RcConn → RcConn) : State :=
  { s with eth := { s.eth with conns := s.eth.conns.map fun c => if c.qpn = qpn then f c else c } }

/-- A RoCEv2 packet arrives for the device on connection `c` of its hub (R411). -/
structure RoceArrives (s : State) (m : RocePkt) (c : RcConn) : Prop where
  conn : findConn s m.qpn = some c
  taken : frameEnds s m.toNetFrame = none
  alive : c.error = false
  hub : c.hub = m.hub

/-- `s` once it has counted the packet and answered its congestion mark (R411). -/
def roceIn (s : State) (m : RocePkt) (c : RcConn) : State :=
  if m.ce then connSends (frameArrived s m.toNetFrame) c (.cnp c.remoteQpn) else frameArrived s m.toNetFrame

/-- The answer NAK to a request: what was being received is forgotten (R412). -/
def rcRefused (s : State) (c : RcConn) (m : RocePkt) (code : Nat) : State :=
  connSends (connChanged s c.qpn fun x => { x with write := none }) c (.nak c.remoteQpn (m.psn % 2 ^ 24) code)

/-! ### The host link -/

/-- `s` once the link has moved to a state (Table 16.4). -/
def linkAt (s : State) (st : Nat) : State := { s with bxl := { s.bxl with state := st, stateSince := s.now, initPhase := false } }

/-- `s` with the credits of an INIT exchange on offer (Table 16.5, R437): the free receive flits, but for those whose credits lie in flits that the
adapter has not acknowledged. -/
def Offers (s v : State) : Prop :=
  v = { s with bxl := { s.bxl with due := [], granted := v.bxl.granted } } ∧
  ∀ vc ∈ [0, 2, 3], smGet 0 v.bxl.granted vc = rxFree s vc - ((s.bxl.unacked.filter fun f => f.crVc == vc).map (·.crCount)).sum

/-- From `v` to `u` one INIT flit has been sent. -/
def InitSent (v u : State) : Prop :=
  ∃ w, u = { v with bxl := { v.bxl with lastInit := v.now, sinceIdle := v.bxl.sinceIdle + 1, wire := v.bxl.wire ++ [w] } }

/-- From `v` to `u` an IDLE flit with a NAK has gone out, unless one has since the last flit accepted (R433). -/
def NakSent (v u : State) : Prop :=
  (v.bxl.nakSent = true → u = v) ∧
  (v.bxl.nakSent = false → ∃ w, u = { v with bxl := { v.bxl with nakSent := true, sinceIdle := 0, wire := v.bxl.wire ++ [w] } })

/-- From `v` to `u` every unacknowledged flit has been sent again, where there is one (R434, R435); an IDLE flit may be among them once 2,047 others
have gone out in a row (R432). -/
def Replayed (v u : State) : Prop :=
  (v.bxl.unacked = [] → u = v) ∧
  ∀ f q, v.bxl.unacked = f :: q → (∃ idles, u.bxl.wire.length = v.bxl.wire.length + (q.length + 1) + idles ∧
      (v.bxl.sinceIdle + q.length < 2047 → idles = 0)) ∧ u = { v with bxl := { v.bxl with
    replayCnt := min (v.bxl.replayCnt + 1) (2 ^ 32 - 1)
    replayFrom := some f.fseq
    replayRun := if v.bxl.replayFrom = some f.fseq then v.bxl.replayRun + 1 else 1
    ackSince := v.now
    sinceIdle := u.bxl.sinceIdle
    wire := u.bxl.wire } }

end Sys2Proof.Machine
end

