-- ==== Sys2Proof/Certificates/Slice0/Obligations.lean ====
section
/-! DEFINITION. The statements. -/

open Sys2Proof Sys2Proof.Machine

/-! ### The machine as a whole -/

/-- A step runs the command at the front of the queue, on the state with the queue's rest. -/
def Obligations.StepRunsFront : Prop :=
  ∀ (c : Instr) (rest : List Instr) (s : State), s.pending = c :: rest → step s = exec c { s with pending := rest }

/-- With an empty queue a step lets one ck pass, and the queue stays empty (log entry 2, a choice of the model). In it the issue stage of every core with
a task runs, in each slot that owns the ck: none of a paced team (R57, log entry 179) or one that no core serves, and of two slots that share a core one
after the other, but that a slot with no READY thread yields (R139, log entry 148). The stage looks first at the READY thread one above the one that
issued last, and so round (R129). Its instruction comes from the buffer of 32 lines, whose line becomes the most recently used one (R131), and has its
effect; a word that spells no instruction stops the thread (R159); a thread that a failed queued instruction has marked ends (R187); a fetch that misses
the buffer leaves its thread BLOCKED until the fill ends. That the line's bytes stand in the buffer from the miss on, and that the thread waits for the
typical latency, is the model's choice (log 140). -/
def Obligations.EmptyQueueIdles : Prop :=
  (∀ s : State, s.pending = [] → ∃ t, step s = .next t ∧ t.pending = [] ∧ t.now = s.now + 2) ∧
  (∀ s : State, s.pending = [] → ∃ v w, v = fwPump (pump { settle s with now := (settle s).now + 2, pin := { (settle s).pin with trstLow := false } }) ∧
    w = powerDown (inletCheck (resumeSlots (portsClock (groomRows (runCores v))))) ∧ v.now = s.now + 2 ∧
    step s = .next (if v.now / 3000000 = s.now / 3000000 then w else msPassed w)) ∧
  (∀ (s : State) (c : Nat), TablesForm s → (getCore s c).prog ≠ none → (∀ k, k ≠ c → (getCore s k).prog = none) →
    runCores s = if ownsCk (fetchesDone s c) c = true then issueStage (fetchesDone s c) c else fetchesDone s c) ∧
  (∀ (s : State) (c : Nat), (c / 8 ∈ s.tick.pacedTeams ∨ ((getNode s c).mode ≠ 0 ∧ (getNode s c).mode ≠ 2) → ownsCk s c = false) ∧
    (c / 8 ∉ s.tick.pacedTeams → (getNode s c).mode = 0 ∨ (getNode s c).mode = 2 → (getRel s (c / 8)).shared = none → ownsCk s c = true)) ∧
  (∀ (s : State) (t i h a b : Nat), t ∉ s.tick.pacedTeams → (getRel s t).shared = some (i, h) → i < 8 → h < 8 → i ≠ h → a = 8 * t + i → b = 8 * t + h →
    ((getNode s a).mode = 0 ∨ (getNode s a).mode = 2) → ((getNode s b).mode = 0 ∨ (getNode s b).mode = 2) →
    (slotReady s a = true → slotReady s b = true →
      ownsCk s a = !ownsCk s b ∧ ownsCk { s with now := s.now + 2 } a = !ownsCk s a) ∧
    (slotReady s a = false → ownsCk s b = true) ∧ (slotReady s b = false → ownsCk s a = true)) ∧
  (∀ (s : State) (c : Nat), TablesForm s →
    ((∀ t th, getThread s c t = some th → th.st ≠ .ready) → issueStage s c = s) ∧
    ∀ t th, IssuesFirst s c t th →
      (th.stop = true → ∃ v, CoreAt s v c (fun k => { k with lastIssued := t }) ∧ issueStage s c = endOf v c t) ∧
      (th.stop = false → ∀ l w, (getCore s c).ibuf.find? (fun x => x.1 == th.pc / 512) = some l → w = getLe l.2 (th.pc % 512) 4 →
        ∃ v, CoreAt s v c (fun k => { k with ibuf := ibufPut k.ibuf (th.pc / 512) l.2, lastIssued := t }) ∧
          (∀ i, decodeInsn c t w = some i → exec i v = .next (issueStage s c)) ∧
          (decodeInsn c t w = none → (getNode s c).mode = 0 ∨ (getNode s c).mode = 2 → issueStage s c = stopThread v c t 0x0740 0)) ∧
      (th.stop = false → (∀ x ∈ (getCore s c).ibuf, x.1 ≠ th.pc / 512) → (∀ x o, x ≠ t → getThread s c x = some o → o.st ≠ .ready) →
        ∀ s1 bs, unmappedAt s th.pc 4 = none → roRead s c false (th.pc / 512 * 512) 512 = (s1, .data bs) → getThread s1 c t = some th →
        ∃ u, issueStage s c = u ∧ getThread u c t = some { th with st := .blocked (.fetch (s.now + fetchTime s c (th.pc / 512))) } ∧
          (getCore u c).ibuf = ibufPut (getCore s1 c).ibuf (th.pc / 512) bs))

/-- No command stops the block: every one answers a next state, in every state. -/
def Obligations.EveryCommandGoesOn : Prop := ∀ (c : Instr) (s : State), goesOn (exec c s)

/-- A command has its effect on everything but the queue and the clock, and free values are never drawn twice. -/
def Obligations.CommandsKeepQueueAndClock : Prop :=
  ∀ (c : Instr) (s t : State), exec c s = .next t → t.pending = s.pending ∧ t.now = s.now ∧ s.draws ≤ t.draws

/-- R3: no command changes the variant, nor any other fuse but the rollback counter, which ROLLBACK_FUSE_PROGRAM alone raises (R531), and only at
READY. -/
def Obligations.FusesAreFixed : Prop :=
  ∀ (c : Instr) (s t : State), exec c s = .next t →
    t.dev.fuses = { s.dev.fuses with rollback := t.dev.fuses.rollback } ∧
    (t.dev.fuses.rollback ≠ s.dev.fuses.rollback → c = .rollbackFuseProgram ∧ s.dev.state = 2)

/-- Memory keeps its canonical form, whatever command a step runs and also when the queue is empty. -/
def Obligations.StepKeepsMemoryForm : Prop :=
  ∀ s t : State, Memory.wf s.mem = true → step s = .next t → Memory.wf t.mem = true

/-- Every table of the state that is listed by key keeps its canonical form, whatever command a step runs and also when the queue is empty. -/
def Obligations.StepKeepsTablesForm : Prop :=
  ∀ s t : State, TablesForm s → step s = .next t → TablesForm t

/-- Memory and every table of the state right after reset are in canonical form. -/
def Obligations.ResetMemoryForm : Prop := Memory.wf State.reset.mem = true ∧ TablesForm State.reset

/-! ### Scalar instructions -/

/-- R159, R160, Tables 05.14 and 05.15: each integer instruction of layout R, and each immediate instruction with a valid encoding, completes, writes gD
alone, and goes on at PC + 4. -/
def Obligations.ScalarRegisterForms : Prop :=
  (∀ e ∈ intTable, ∀ (r : RArgs) (s : State) (th : Thread),
    CanIssue s r.core.toNat r.thr.toNat th → r.rsv = 0 → InCode s r.core.toNat (th.pc + 4) →
    ∃ u th', exec (e.1 r) s = .next u ∧ OnlyThread s u r.core.toNat r.thr.toNat th' ∧ ReadyAt th' (th.pc + 4) ∧
      WritesReg th th' r.d (e.2 (reg th r.d) (reg th r.a) (reg th r.b))) ∧
  (∀ e ∈ immTable, ∀ (r : IArgs) (s : State) (th : Thread),
    CanIssue s r.core.toNat r.thr.toNat th → e.2.1 r → InCode s r.core.toNat (th.pc + 4) →
    ∃ u th', exec (e.1 r) s = .next u ∧ OnlyThread s u r.core.toNat r.thr.toNat th' ∧ ReadyAt th' (th.pc + 4) ∧
      WritesReg th th' r.d (e.2.2 r (reg th r.d) (reg th r.a)))

/-- R159, R36: an invalid encoding of a scalar instruction stops its thread with ST_ADDR_UNMAPPED and FAULT_ADDR 0. -/
def Obligations.InvalidEncodingsStop : Prop :=
  (∀ e ∈ intTable, ∀ (r : RArgs) (s : State) (th : Thread), CanIssue s r.core.toNat r.thr.toNat th → r.rsv ≠ 0 →
    exec (e.1 r) s = .next (stopThread s r.core.toNat r.thr.toNat 0x0740 0)) ∧
  (∀ e ∈ immTable, ∀ (r : IArgs) (s : State) (th : Thread), CanIssue s r.core.toNat r.thr.toNat th → ¬ e.2.1 r →
    exec (e.1 r) s = .next (stopThread s r.core.toNat r.thr.toNat 0x0740 0)) ∧
  (∀ (r : IArgs) (s : State) (th : Thread), CanIssue s r.core.toNat r.thr.toNat th → r.imm = 0 →
    exec (.signal r) s = .next (stopThread s r.core.toNat r.thr.toNat 0x0740 0)) ∧
  (∀ (r : RArgs) (s : State) (th : Thread), CanIssue s r.core.toNat r.thr.toNat th → r.rsv ≠ 0 ∨ r.d ≠ 0 ∨ r.a ≠ 0 ∨ r.b ≠ 0 →
    exec (.nop r) s = .next (stopThread s r.core.toNat r.thr.toNat 0x0740 0) ∧
    exec (.endThread r) s = .next (stopThread s r.core.toNat r.thr.toNat 0x0740 0)) ∧
  (∀ (r : MemArgs) (s : State) (th : Thread), CanIssue s r.core.toNat r.thr.toNat th →
    (r.width = 7 ∨ (r.ro = true ∧ r.space = false) → exec (.ld r) s = .next (stopThread s r.core.toNat r.thr.toNat 0x0740 0)) ∧
    (4 ≤ r.width.toNat ∨ r.ro = true → exec (.st r) s = .next (stopThread s r.core.toNat r.thr.toNat 0x0740 0)))

/-- R36, R86, R128, R190, R474: what stopping a thread does: the thread is ENDED and gives its vector context back, one FAULT event names it, the instruction
and the address, the other threads of the core stay as they are but for those that waited for a context, and memory and every other core are unchanged. With
the event queue full the event is dropped and counted, its number passed over (R86); one that a replay repeats is not formed again. -/
def Obligations.FaultStopsOneThread : Prop :=
  ∀ (s : State) (c t status addr : Nat) (th : Thread), getThread s c t = some th →
    (∃ th', getThread (stopThread s c t status addr) c t = some th' ∧ th'.st = .ended ∧ SameRegs th th') ∧
    (∀ x ∈ (getCore (stopThread s c t status addr) c).ctxs, x.owner ≠ t) ∧
    (∀ x o, x ≠ t → getThread s c x = some o → o.st ≠ .blocked (.room .vector) → getThread (stopThread s c t status addr) c x = some o) ∧
    (∀ x, x ≠ c → getCore (stopThread s c t status addr) x = getCore s x) ∧
    (stopThread s c t status addr).mem = s.mem ∧
    ((getNode s c).suppress.faults = 0 → EventRoom s →
      (stopThread s c t status addr).mp = (withEvent s status 0x0006 (faultBody c t th.pc addr)).mp) ∧
    ((getNode s c).suppress.faults = 0 → 1024 ≤ eventCount s → (stopThread s c t status addr).mp = { s.mp with
      evtDrop := min (s.mp.evtDrop + 1) (2 ^ 32 - 1)
      dropRun := s.mp.dropRun + 1
      dropFirst := if s.mp.dropRun = 0 then s.mp.evtSeq else s.mp.dropFirst
      evtSeq := (s.mp.evtSeq + 1) % 2 ^ 32 }) ∧
    ((getNode s c).suppress.faults ≠ 0 → TablesForm s → (stopThread s c t status addr).mp = s.mp ∧
      (getNode (stopThread s c t status addr) c).suppress.faults = (getNode s c).suppress.faults - 1)

/-- R162: branches compare gA with gB and go on at PC + 4 x OFF16 or at PC + 4; JAL and JALR leave PC + 4 in their register; NOP goes on; END ends the
thread (R128). Going on at an address outside the code section stops the thread with ST_ADDR_UNMAPPED and that address: a branch, JAL and JALR (whose
link register is written first), and an instruction whose successor lies past the end of the program. -/
def Obligations.BranchesAndJumps : Prop :=
  (∀ (r : BArgs) (s : State) (th : Thread) (pc : Nat), CanIssue s r.core.toNat r.thr.toNat th →
    pc = (if brTaken r.op (reg th r.a) (reg th r.b) then (BitVec.ofNat 64 th.pc + r.off.signExtend 64 * 4).toNat else th.pc + 4) →
    InCode s r.core.toNat pc →
    ∃ u th', exec (.branch r) s = .next u ∧ OnlyThread s u r.core.toNat r.thr.toNat th' ∧ ReadyAt th' pc ∧ SameRegs th th') ∧
  (∀ (r : JArgs) (s : State) (th : Thread) (pc : Nat), CanIssue s r.core.toNat r.thr.toNat th →
    pc = (BitVec.ofNat 64 th.pc + r.off.signExtend 64 * 4).toNat → InCode s r.core.toNat pc →
    ∃ u th', exec (.jal r) s = .next u ∧ OnlyThread s u r.core.toNat r.thr.toNat th' ∧ ReadyAt th' pc ∧
      WritesReg th th' 31 (BitVec.ofNat 64 (th.pc + 4))) ∧
  (∀ (r : IArgs) (s : State) (th : Thread) (pc : Nat), CanIssue s r.core.toNat r.thr.toNat th →
    pc = ((reg th r.a + r.imm.signExtend 64) &&& ~~~3).toNat → InCode s r.core.toNat pc →
    ∃ u th', exec (.jalr r) s = .next u ∧ OnlyThread s u r.core.toNat r.thr.toNat th' ∧ ReadyAt th' pc ∧
      WritesReg th th' r.d (BitVec.ofNat 64 (th.pc + 4))) ∧
  (∀ (r : RArgs) (s : State) (th : Thread), CanIssue s r.core.toNat r.thr.toNat th → r.rsv = 0 → r.d = 0 → r.a = 0 → r.b = 0 →
    (InCode s r.core.toNat (th.pc + 4) →
      ∃ u th', exec (.nop r) s = .next u ∧ OnlyThread s u r.core.toNat r.thr.toNat th' ∧ ReadyAt th' (th.pc + 4) ∧ SameRegs th th') ∧
    (∃ u th', exec (.endThread r) s = .next u ∧ getThread u r.core.toNat r.thr.toNat = some th' ∧ th'.st = .ended ∧
      (∀ x ∈ (getCore u r.core.toNat).ctxs, x.owner ≠ r.thr.toNat) ∧ (∀ x, x ≠ r.core.toNat → getCore u x = getCore s x) ∧
      (∀ x o, x ≠ r.thr.toNat → getThread s r.core.toNat x = some o → o.st ≠ .blocked (.room .vector) →
        getThread u r.core.toNat x = some o) ∧
      u = { s with tower := { s.tower with cores := u.tower.cores, watches := u.tower.watches } })) ∧
  (∀ (r : BArgs) (s : State) (th : Thread) (p : CoreProg) (pc : Nat), CanIssue s r.core.toNat r.thr.toNat th →
    (getCore s r.core.toNat).prog = some p →
    pc = (if brTaken r.op (reg th r.a) (reg th r.b) then (BitVec.ofNat 64 th.pc + r.off.signExtend 64 * 4).toNat else th.pc + 4) →
    ¬ (p.codeLo ≤ pc ∧ pc < p.codeHi) →
    exec (.branch r) s = .next (stopThread s r.core.toNat r.thr.toNat 0x0740 pc)) ∧
  (∀ (r : JArgs) (s : State) (th : Thread) (p : CoreProg) (pc : Nat), CanIssue s r.core.toNat r.thr.toNat th →
    (getCore s r.core.toNat).prog = some p → pc = (BitVec.ofNat 64 th.pc + r.off.signExtend 64 * 4).toNat →
    ¬ (p.codeLo ≤ pc ∧ pc < p.codeHi) →
    ∃ v th', OnlyThread s v r.core.toNat r.thr.toNat th' ∧ ReadyAt th' th.pc ∧ WritesReg th th' 31 (BitVec.ofNat 64 (th.pc + 4)) ∧
      exec (.jal r) s = .next (stopThread v r.core.toNat r.thr.toNat 0x0740 pc)) ∧
  (∀ (r : IArgs) (s : State) (th : Thread) (p : CoreProg) (pc : Nat), CanIssue s r.core.toNat r.thr.toNat th →
    (getCore s r.core.toNat).prog = some p → pc = ((reg th r.a + r.imm.signExtend 64) &&& ~~~3).toNat → ¬ (p.codeLo ≤ pc ∧ pc < p.codeHi) →
    ∃ v th', OnlyThread s v r.core.toNat r.thr.toNat th' ∧ ReadyAt th' th.pc ∧ WritesReg th th' r.d (BitVec.ofNat 64 (th.pc + 4)) ∧
      exec (.jalr r) s = .next (stopThread v r.core.toNat r.thr.toNat 0x0740 pc)) ∧
  (∀ (r : RArgs) (s : State) (th : Thread) (p : CoreProg), CanIssue s r.core.toNat r.thr.toNat th → (getCore s r.core.toNat).prog = some p →
    ¬ (p.codeLo ≤ th.pc + 4 ∧ th.pc + 4 < p.codeHi) → r.rsv = 0 →
    (∀ e ∈ intTable, ∃ v th', OnlyThread s v r.core.toNat r.thr.toNat th' ∧ ReadyAt th' th.pc ∧
      WritesReg th th' r.d (e.2 (reg th r.d) (reg th r.a) (reg th r.b)) ∧
      exec (e.1 r) s = .next (stopThread v r.core.toNat r.thr.toNat 0x0740 (th.pc + 4))) ∧
    (r.d = 0 → r.a = 0 → r.b = 0 → exec (.nop r) s = .next (stopThread s r.core.toNat r.thr.toNat 0x0740 (th.pc + 4)))) ∧
  (∀ (r : IArgs) (s : State) (th : Thread) (p : CoreProg), CanIssue s r.core.toNat r.thr.toNat th → (getCore s r.core.toNat).prog = some p →
    ¬ (p.codeLo ≤ th.pc + 4 ∧ th.pc + 4 < p.codeHi) →
    ∀ e ∈ immTable, e.2.1 r → ∃ v th', OnlyThread s v r.core.toNat r.thr.toNat th' ∧ ReadyAt th' th.pc ∧
      WritesReg th th' r.d (e.2.2 r (reg th r.d) (reg th r.a)) ∧
      exec (e.1 r) s = .next (stopThread v r.core.toNat r.thr.toNat 0x0740 (th.pc + 4)))

/-- R161: LD and ST in the scratchpad, aligned and within it. LD writes the zero- or sign-extended bytes to gD and changes nothing else; ST changes
the bytes it stores and no other byte of any scratchpad, and nothing else. -/
def Obligations.ScratchpadLoadStore : Prop :=
  (∀ (r : MemArgs) (s : State) (th : Thread), CanIssue s r.core.toNat r.thr.toNat th → r.space = false → r.ro = false → r.width ≠ 7 →
    memAddr th r % widthLen r.width = 0 → memAddr th r + widthLen r.width ≤ scratchLen s r.core.toNat → InCode s r.core.toNat (th.pc + 4) →
    ∃ u th', exec (.ld r) s = .next u ∧ OnlyThread s u r.core.toNat r.thr.toNat th' ∧ ReadyAt th' (th.pc + 4) ∧
      WritesReg th th' r.d (loadedValue r.width (spadRead s r.core.toNat (memAddr th r) (widthLen r.width)))) ∧
  (∀ (r : MemArgs) (s : State) (th : Thread), CanIssue s r.core.toNat r.thr.toNat th → r.space = false → r.ro = false → r.width < 4 →
    memAddr th r % widthLen r.width = 0 → memAddr th r + widthLen r.width ≤ scratchLen s r.core.toNat → scratchLen s r.core.toNat ≤ 2 ^ 20 →
    InCode s r.core.toNat (th.pc + 4) → Memory.wf s.mem = true →
    ∃ u th', exec (.st r) s = .next u ∧
      OnlyThread { s with mem := { s.mem with spad := u.mem.spad, undefSpad := u.mem.undefSpad } } u r.core.toNat r.thr.toNat th' ∧
      ReadyAt th' (th.pc + 4) ∧ SameRegs th th' ∧
      ∀ c a, a < 2 ^ 20 → spadRead u c a 1 =
        if c = r.core.toNat ∧ memAddr th r ≤ a ∧ a < memAddr th r + widthLen r.width then
          [(reg th r.d >>> (8 * (a - memAddr th r))).setWidth 8]
        else spadRead s c a 1)

/-- R161: LD and ST at a device address that is aligned, mapped and, for ST, not protected: LD writes what the access of memory reads, ST stores the
low bytes of gS; both go on at PC + 4. -/
def Obligations.DeviceLoadStore : Prop :=
  (∀ (r : MemArgs) (s s1 : State) (th : Thread) (bytes : List Byte), CanIssue s r.core.toNat r.thr.toNat th → r.space = true → r.ro = false →
    r.width ≠ 7 → memAddr th r % widthLen r.width = 0 → unmappedAt s (memAddr th r) (widthLen r.width) = none →
    coreRead s r.core.toNat (memAddr th r) (widthLen r.width) = (s1, .ok bytes) → InCode s r.core.toNat (th.pc + 4) →
    ∃ u th', exec (.ld r) s = .next u ∧ OnlyThread s1 u r.core.toNat r.thr.toNat th' ∧ ReadyAt th' (th.pc + 4) ∧
      WritesReg th th' r.d (loadedValue r.width bytes)) ∧
  (∀ (r : MemArgs) (s s1 : State) (th : Thread) (c n : Nat) (ans : L1Ans), c = r.core.toNat → CanIssue s c r.thr.toNat th → r.space = true →
    r.ro = true → r.width ≠ 7 → n = widthLen r.width → memAddr th r % n = 0 → unmappedAt s (memAddr th r) n = none →
    roRead s c false (memAddr th r) n = (s1, ans) →
    (∀ bytes, ans = .data bytes → InCode s1 c (th.pc + 4) → getThread s1 c r.thr.toNat = some th → ∃ u th', exec (.ld r) s = .next u ∧
      OnlyThread s1 u c r.thr.toNat th' ∧ ReadyAt th' (th.pc + 4) ∧ WritesReg th th' r.d (loadedValue r.width bytes)) ∧
    (∀ on, ans = .wait on → exec (.ld r) s = .next (blockThread s1 c r.thr.toNat on)) ∧
    (∀ a, ans = .fault a → exec (.ld r) s = .next (stopThread s1 c r.thr.toNat 0x0740 a))) ∧
  (∀ (r : MemArgs) (s s1 : State) (th : Thread), CanIssue s r.core.toNat r.thr.toNat th → r.space = true → r.ro = false →
    r.width < 4 → memAddr th r % widthLen r.width = 0 → unmappedAt s (memAddr th r) (widthLen r.width) = none →
    protectedAt s (memAddr th r) (widthLen r.width) = none →
    coreWrite s r.core.toNat (memAddr th r) (leBytes (widthLen r.width) (reg th r.d).toNat) = (s1, .ok ()) → InCode s r.core.toNat (th.pc + 4) →
    ∃ u th', exec (.st r) s = .next u ∧ OnlyThread s1 u r.core.toNat r.thr.toNat th' ∧ ReadyAt th' (th.pc + 4) ∧ SameRegs th th')

/-- R161, R25, R36, R37, R137: a load or store that cannot be done stops the thread: a misaligned address, an unmapped one, a protected range (stores), an
offset beyond the scratchpad. LD in each of its widths and read-only or not; a read-only ST, and one of width 4 to 7, is invalid. An address whose access
fails stops the thread as an unmapped one does (R305). -/
def Obligations.LoadStoreFaults : Prop :=
  (∀ (r : MemArgs) (s : State) (th : Thread) (c t a n : Nat), CanIssue s r.core.toNat r.thr.toNat th → c = r.core.toNat → t = r.thr.toNat →
    a = memAddr th r → n = widthLen r.width → r.width ≠ 7 → (r.ro = true → r.space = true) →
    (a % n ≠ 0 → r.space = true → exec (.ld r) s = .next (stopThread s c t 0x0740 a)) ∧
    (a % n = 0 → r.space = true → ∀ x, unmappedAt s a n = some x → exec (.ld r) s = .next (stopThread s c t 0x0740 x)) ∧
    (a % n = 0 → r.space = true → r.ro = false → unmappedAt s a n = none → ∀ v x, coreRead s c a n = (v, .error x) →
      exec (.ld r) s = .next (stopThread v c t 0x0740 x)) ∧
    (r.space = false → scratchLen s c < a + n ∨ a % n ≠ 0 → exec (.ld r) s = .next (stopThread s c t 0x0740 ((0xFF00000000000000 + a) % 2 ^ 64)))) ∧
  (∀ (r : MemArgs) (s : State) (th : Thread) (c t a n : Nat), CanIssue s r.core.toNat r.thr.toNat th → c = r.core.toNat → t = r.thr.toNat →
    a = memAddr th r → n = widthLen r.width →
    (4 ≤ r.width.toNat ∨ r.ro = true → exec (.st r) s = .next (stopThread s c t 0x0740 0)) ∧
    (r.width < 4 → r.ro = false →
      (a % n ≠ 0 → r.space = true → exec (.st r) s = .next (stopThread s c t 0x0740 a)) ∧
      (a % n = 0 → r.space = true → ∀ x, unmappedAt s a n = some x → exec (.st r) s = .next (stopThread s c t 0x0740 x)) ∧
      (a % n = 0 → r.space = true → unmappedAt s a n = none → ∀ x, protectedAt s a n = some x →
        exec (.st r) s = .next (stopThread s c t 0x0741 x)) ∧
      (a % n = 0 → r.space = true → unmappedAt s a n = none → protectedAt s a n = none → ∀ v x,
        coreWrite s c a (leBytes n (reg th r.d).toNat) = (v, .error x) → exec (.st r) s = .next (stopThread v c t 0x0740 x)) ∧
      (r.space = false → scratchLen s c < a + n ∨ a % n ≠ 0 → exec (.st r) s = .next (stopThread s c t 0x0740 ((0xFF00000000000000 + a) % 2 ^ 64)))))

/-- Table 05.7: SIGNAL sends one message (none for an effect that a replay repeats, R148); WAIT goes on where the count has reached the target and
else blocks the thread and watches the object; SREAD reads the count once the SIGNALs that its team node has sent to the object's node before have
arrived there (R140). -/
def Obligations.SyncInstructions : Prop :=
  (∀ (r : IArgs) (s : State) (th : Thread), CanIssue s r.core.toNat r.thr.toNat th → r.d = 0 → r.imm ≠ 0 → InCode s r.core.toNat (th.pc + 4) →
    ∃ u th', exec (.signal r) s = .next u ∧
      OnlyThread { s with tower := { s.tower with signals := u.tower.signals } } u r.core.toNat r.thr.toNat th' ∧
      ReadyAt th' (th.pc + 4) ∧ SameRegs th th' ∧
      u.tower.signals = if smGet 0 (getNode s r.core.toNat).suppress.signals r.thr.toNat = 0 then
          s.tower.signals ++ [⟨r.core.toNat, ((reg th r.a).setWidth 16).toNat, r.imm.toNat⟩]
        else s.tower.signals) ∧
  (∀ (r : RArgs) (s : State) (th : Thread) (obj target : Nat), CanIssue s r.core.toNat r.thr.toNat th → r.rsv = 0 → r.d = 0 →
    obj = ((reg th r.a).setWidth 16).toNat → target = ((reg th r.b).setWidth 32).toNat →
    (countReached (syncCount s obj) target = true → InCode s r.core.toNat (th.pc + 4) →
      ∃ u th', exec (.wait r) s = .next u ∧ OnlyThread s u r.core.toNat r.thr.toNat th' ∧ ReadyAt th' (th.pc + 4) ∧ SameRegs th th') ∧
    (countReached (syncCount s obj) target = false →
      ∃ u, exec (.wait r) s = .next u ∧
        OnlyThread { s with tower := { s.tower with watches := u.tower.watches } } u r.core.toNat r.thr.toNat
          { th with st := .blocked (.sync obj target) } ∧
        r.core.toNat ∈ smGet [] u.tower.watches obj ∧ ∀ o, o ≠ obj → smGet [] u.tower.watches o = smGet [] s.tower.watches o)) ∧
  (∀ (r : RArgs) (s : State) (th : Thread) (obj : Nat) (own : List SignalMsg), CanIssue s r.core.toNat r.thr.toNat th → r.rsv = 0 → r.b = 0 →
    InCode s r.core.toNat (th.pc + 4) → TablesForm s → obj = ((reg th r.a).setWidth 16).toNat →
    own = s.tower.signals.filter (fun m => m.src / 8 == r.core.toNat / 8 && m.obj / 256 == obj / 256) →
    ∃ u th', exec (.sread r) s = .next u ∧
      OnlyThread { s with tower := { s.tower with sync := u.tower.sync, signals := u.tower.signals, wakes := u.tower.wakes } } u
        r.core.toNat r.thr.toNat th' ∧ ReadyAt th' (th.pc + 4) ∧
      WritesReg th th' r.d (BitVec.ofNat 64 ((own.filter fun m => m.obj == obj).foldl (fun n m => (n + m.n) % 2 ^ 32) (syncCount s obj))) ∧
      u.tower.signals = s.tower.signals.filter (fun m => !(m.src / 8 == r.core.toNat / 8 && m.obj / 256 == obj / 256)) ∧
      (∀ o, (∀ m ∈ own, m.obj ≠ o) → syncCount u o = syncCount s o) ∧ (own = [] → u.tower.sync = s.tower.sync ∧ u.tower.wakes = s.tower.wakes))

/-- R140, R146, R147, R143: a message that is the first on its way from its team node to the node of its object adds its amount modulo 2^32 and goes;
cores whose waiting threads are satisfied are woken; no other object changes. Where another message is first, nothing changes. -/
def Obligations.SignalsAreApplied : Prop :=
  (∀ (s : State) (src : Nat) (obj : W16),
    (∀ m, s.tower.signals.find? (fun m => m.src / 8 == src / 8 && m.obj / 256 == obj.toNat / 256) = some m → m.src ≠ src ∨ m.obj ≠ obj.toNat) →
    exec (.syncSignalApply src obj) s = .next s) ∧
  ∀ (s : State) (src : Nat) (obj : W16) (m : SignalMsg), TablesForm s →
    s.tower.signals.find? (fun m => m.src / 8 == src / 8 && m.obj / 256 == obj.toNat / 256) = some m → m.src = src → m.obj = obj.toNat →
    ∃ u, exec (.syncSignalApply src obj) s = .next u ∧ syncCount u obj.toNat = (syncCount s obj.toNat + m.n) % 2 ^ 32 ∧
      (∀ o, o ≠ obj.toNat → syncCount u o = syncCount s o) ∧ u.tower.signals = s.tower.signals.erase m ∧
      (∀ c t target th, c ∈ smGet [] s.tower.watches obj.toNat → getThread s c t = some th → th.st = .blocked (.sync obj.toNat target) →
        countReached (syncCount u obj.toNat) target = true → (c, obj.toNat) ∈ u.tower.wakes) ∧
      u = { s with tower := { s.tower with sync := u.tower.sync, signals := u.tower.signals, wakes := u.tower.wakes } }

/-- R147, R140, R473: a wake that reaches a core, the first on its way between the two nodes, makes each of its threads that wait on the object READY at
its next instruction where the count has reached its target, and leaves the others BLOCKED; the core keeps watching only while one waits. Every other core,
every thread that waits for something else, and every other object's watches stay as they are. A wake that is not the first, or is for a slot that no core
serves, changes nothing yet. -/
def Obligations.WakesResumeWaiters : Prop :=
  ∀ (s : State) (core : BitVec 11) (obj : W16) (first : Option (Nat × Nat)), TablesForm s →
    first = s.tower.wakes.find? (fun w => w.1 / 8 == core.toNat / 8 && w.2 / 256 == obj.toNat / 256) →
    (first ≠ some (core.toNat, obj.toNat) ∨ ((getNode s core.toNat).mode ≠ 0 ∧ (getNode s core.toNat).mode ≠ 2) → exec (.wake core obj) s = .next s) ∧
    (first = some (core.toNat, obj.toNat) → (getNode s core.toNat).mode = 0 ∨ (getNode s core.toNat).mode = 2 →
      ∃ u, exec (.wake core obj) s = .next u ∧
        u = { s with
          tower := { s.tower with
            cores := u.tower.cores
            slots := u.tower.slots
            watches := u.tower.watches
            wakes := s.tower.wakes.erase (core.toNat, obj.toNat) }
          mp := u.mp } ∧
        (∀ k, k ≠ core.toNat → getCore u k = getCore s k ∧ getNode u k = getNode s k) ∧
        (∀ t th, getThread s core.toNat t = some th → (∀ target, th.st ≠ .blocked (.sync obj.toNat target)) → th.st ≠ .blocked (.room .vector) →
          getThread u core.toNat t = some th) ∧
        (∀ o k, k ≠ core.toNat → (k ∈ smGet [] u.tower.watches o ↔ k ∈ smGet [] s.tower.watches o)) ∧
        (∀ o t th target, o ≠ obj.toNat → getThread s core.toNat t = some th → th.st = .blocked (.sync o target) →
          smGet [] u.tower.watches o = smGet [] s.tower.watches o) ∧
        ((∀ t th target, getThread s core.toNat t = some th → th.st = .blocked (.sync obj.toNat target) →
            countReached (syncCount s obj.toNat) target = true ∧ InCode s core.toNat (th.pc + 4)) →
          u.mp = s.mp ∧ smGet [] u.tower.watches obj.toNat = (smGet [] s.tower.watches obj.toNat).erase core.toNat ∧
          ∀ o, o ≠ obj.toNat → smGet [] u.tower.watches o = smGet [] s.tower.watches o) ∧
        ∀ t th target, getThread s core.toNat t = some th → th.st = .blocked (.sync obj.toNat target) →
          (countReached (syncCount s obj.toNat) target = false → getThread u core.toNat t = some th ∧
            smGet [] u.tower.watches obj.toNat = smGet [] s.tower.watches obj.toNat) ∧
          (countReached (syncCount s obj.toNat) target = true → InCode s core.toNat (th.pc + 4) →
            ∃ th', getThread u core.toNat t = some th' ∧ th'.st = .ready ∧ th'.pc = th.pc + 4 ∧ SameRegs th th'))

/-- R151, R152: SSTART of a valid descriptor in an idle slot starts the stream and goes on; in a busy slot it leaves the thread BLOCKED; an invalid
descriptor stops the thread. SWAIT goes on in an idle slot and else blocks. -/
def Obligations.StreamInstructions : Prop :=
  (∀ (r : IArgs) (s : State) (th : Thread) (idx off : Nat) (bytes : List Byte), CanIssue s r.core.toNat r.thr.toNat th → r.d = 0 →
    r.imm.extractLsb' 3 13 = 0 → idx = (r.imm.extractLsb' 0 3).toNat → off = (reg th r.a).toNat → bytes = spadRead s r.core.toNat off 64 →
    ((getStream s (8 * r.core.toNat + idx)).run = none → off + 64 ≤ scratchLen s r.core.toNat →
      descOk (readDesc bytes) (bytes.drop 47) (scratchLen s r.core.toNat) = true → InCode s r.core.toNat (th.pc + 4) →
      ∃ u th', exec (.sstart r) s = .next u ∧
        OnlyThread { s with tower := { s.tower with streams := u.tower.streams } } u r.core.toNat r.thr.toNat th' ∧
        ReadyAt th' (th.pc + 4) ∧ SameRegs th th' ∧ (getStream u (8 * r.core.toNat + idx)).run = some (.move (readDesc bytes)) ∧
        (∀ i, i ≠ 8 * r.core.toNat + idx → getStream u i = getStream s i)) ∧
    ((getStream s (8 * r.core.toNat + idx)).run = none →
      (scratchLen s r.core.toNat < off + 64 ∨ descOk (readDesc bytes) (bytes.drop 47) (scratchLen s r.core.toNat) = false) →
      exec (.sstart r) s = .next (stopThread s r.core.toNat r.thr.toNat 0x0740 ((0xFF00000000000000 + off) % 2 ^ 64))) ∧
    ((getStream s (8 * r.core.toNat + idx)).run ≠ none →
      ∃ u, exec (.sstart r) s = .next u ∧
        OnlyThread s u r.core.toNat r.thr.toNat { th with st := .blocked (.room (.stream idx)) })) ∧
  (∀ (r : IArgs) (s : State) (th : Thread) (idx : Nat), CanIssue s r.core.toNat r.thr.toNat th → r.d = 0 → r.a = 0 →
    r.imm.extractLsb' 3 13 = 0 → idx = (r.imm.extractLsb' 0 3).toNat →
    ((getStream s (8 * r.core.toNat + idx)).run = none → InCode s r.core.toNat (th.pc + 4) →
      ∃ u th', exec (.swait r) s = .next u ∧ OnlyThread s u r.core.toNat r.thr.toNat th' ∧ ReadyAt th' (th.pc + 4) ∧ SameRegs th th') ∧
    ((getStream s (8 * r.core.toNat + idx)).run ≠ none →
      ∃ u, exec (.swait r) s = .next u ∧ OnlyThread s u r.core.toNat r.thr.toNat { th with st := .blocked (.stream idx) }))

/-- R153 to R156: a stream that completes has moved its units of 64 bytes in order, or, where it stops early, a prefix of them whose length is open
(log 7), and posts one completion: the slot is idle, SEQ has advanced by one modulo 2^32, the completion word holds SEQ and one of the four statuses (the
one forced on it where one was, R154), no thread of the core waits for it any more, and no other slot changes. With SIGNAL_EN its SIGNAL_N is added to its
object, or follows the SIGNALs that its team node has sent to that node before (R140); without, no count changes. Every STREAM_WAIT on the slot ends with
ST_OK and the word. One that the failed tick had posted moves its bytes again and posts nothing (R156). A stream of a slot that no core serves (R473),
or whose team is paced (R57, log 179), makes no progress, but for a status forced on it. When its bytes move (log 182) and where its units lie (log 174) are the model's choices. -/
def Obligations.StreamsPostOneCompletion : Prop :=
  (∀ (s : State) (slot : BitVec 14) (d : StreamDesc) (x : StreamSlot) (c idx : Nat) (units : List (Int × Int)) (moved : Nat → State), TablesForm s →
    getStream s slot.toNat = x → x.run = some (.move d) → c = slot.toNat / 8 → idx = slot.toNat % 8 → units = streamUnits d →
    moved = (fun n => (moveUnits c d (units.take n) 0 [] { s with draws := s.draws + 1 }).1) →
    (c / 8 ∈ s.tick.pacedTeams ∨ ((getNode s c).mode ≠ 0 ∧ (getNode s c).mode ≠ 2) → x.forced = none → exec (.streamCompletion slot) s = .next s) ∧
    ((c / 8 ∉ s.tick.pacedTeams ∧ ((getNode s c).mode = 0 ∨ (getNode s c).mode = 2)) ∨ x.forced ≠ none →
      ∃ u status word, exec (.streamCompletion slot) s = .next u ∧ word = (x.seq + 1) % 2 ^ 32 + status * 2 ^ 32 ∧
        (∀ f, x.forced = some f → status = f ∧ ∃ n, n ≤ units.length ∧ u.mem = (moved n).mem) ∧ (x.forced = none → status ∈ [0x0000, 0x0740, 0x0741]) ∧
        (x.forced = none → (∀ p ∈ units, streamUnitFault s d p = none) → ∀ v n, moveUnits c d units 0 [] s = (v, n, true) → status = 0 ∧ u.mem = v.mem) ∧
        (∀ i p f, x.forced = none → units[i]? = some p → streamUnitFault s d p = some f → (∀ j q, j < i → units[j]? = some q → streamUnitFault s d q = none) →
          (moveUnits c d (units.take i) 0 [] s).2.2 = true → status = f ∧ ∃ n, n ≤ i ∧ u.mem = (moved n).mem) ∧
        (∀ i, x.forced = none → (∀ j q, j < i → units[j]? = some q → streamUnitFault s d q = none) → (moveUnits c d (units.take i) 0 [] s).2.2 = false →
          status = 0x0740) ∧
        (∀ i, i ≠ slot.toNat → getStream u i = getStream s i) ∧
        (∀ t th, getThread u c t = some th → th.st ≠ .blocked (.stream idx)) ∧
        (idx ∈ (getNode s c).suppress.posted → x.adopt = false → getStream u slot.toNat = { x with run := none, forced := none } ∧
          (getNode u c).suppress.posted = (getNode s c).suppress.posted.erase idx ∧ u.tower.sync = s.tower.sync ∧ u.tower.signals = s.tower.signals ∧
          u.mp.slots = s.mp.slots) ∧
        (idx ∉ (getNode s c).suppress.posted ∨ x.adopt = true →
          getStream u slot.toNat = { x with run := none, forced := none, adopt := false, seq := (x.seq + 1) % 2 ^ 32, word := word } ∧
          (d.flags.testBit 0 = false → u.tower.sync = s.tower.sync ∧ u.tower.signals = s.tower.signals) ∧
          (d.flags.testBit 0 = true → (∀ m ∈ s.tower.signals, m.src / 8 ≠ slot.toNat / 64 ∨ m.obj / 256 ≠ d.syncId / 256) →
            u.tower.signals = s.tower.signals ∧ syncCount u d.syncId = (syncCount s d.syncId + d.signalN) % 2 ^ 32 ∧
            ∀ o, o ≠ d.syncId → syncCount u o = syncCount s o) ∧
          (d.flags.testBit 0 = true → (∃ m ∈ s.tower.signals, m.src / 8 = slot.toNat / 64 ∧ m.obj / 256 = d.syncId / 256) →
            u.tower.signals = s.tower.signals ++ [⟨c, d.syncId, d.signalN⟩] ∧ u.tower.sync = s.tower.sync) ∧
          (∀ y, Outstanding s y → y.work = .streamWait slot.toNat →
            (∃ y', findSlot u y.sid = some y' ∧ y'.work = .done) ∧
            ∃ r ∈ (if y.mgmt then u.mp.mgmtQ else u.mp.replyQ), r.sid = some y.sid ∧ r.bytes = leBytes 4 y.tag ++ leBytes 2 0 ++ leBytes 2 0 ++
              leBytes 8 s.tick.count ++ leBytes 8 (if y.stepValid then y.step else s.tick.curStep) ++ leBytes 8 word)))) ∧
  (∀ (d : StreamDesc) (w r k : Nat), w = d.rowBytes / 64 → (streamUnits d).length = d.rows * w ∧ (r < d.rows → k < w →
    (streamUnits d)[r * w + k]? = some ((d.src : Int) + r * d.srcStride + 64 * k, (d.dst : Int) + r * d.dstStride + 64 * k))) ∧
  (∀ (s s1 : State) (c n : Nat) (d : StreamDesc) (cv : Cover) (p : Int × Int) (ps : List (Int × Int)), moveUnits c d [] n cv s = (s, n, true) ∧
    (d.flags.testBit 1 = false ∨ d.kind = 1 →
      (moveUnit s c d [] p = (s1, .ok ()) → moveUnits c d (p :: ps) n cv s = moveUnits c d ps (n + 1) cv s1) ∧
      (∀ e, moveUnit s c d [] p = (s1, .error e) → moveUnits c d (p :: ps) n cv s = (s1, n, false)))) ∧
  (∀ (s s1 : State) (c a b : Nat) (d : StreamDesc) (bs : List Byte),
    (d.kind = 1 → moveUnit s c d [] (a, b) = coreWrite s c b (spadRead s c a 64)) ∧
    (coreRead s c a 64 = (s1, .ok bs) → (d.kind = 0 → moveUnit s c d [] (a, b) = (spadWrite s1 c b bs, .ok ())) ∧
      (d.kind = 3 → moveUnit s c d [] (a, b) = coreWrite s1 c b bs)) ∧
    (d.kind = 2 → moveUnit s c d [] (a, b) = (memAs s c fun s => memPrefetch s a 64 : MRes Unit)))

/-- R152: which descriptors are invalid, and what SSTART of one does: the thread stops under R36 with ST_ADDR_UNMAPPED and FAULT_ADDR
0xFF00_0000_0000_0000 plus the offset, and no stream starts or posts. A descriptor that is not invalid starts its stream. -/
def Obligations.InvalidDescriptorsStop : Prop :=
  ∀ (r : IArgs) (s : State) (th : Thread) (idx off : Nat) (bytes : List Byte), CanIssue s r.core.toNat r.thr.toNat th → r.d = 0 →
    r.imm.extractLsb' 3 13 = 0 → idx = (r.imm.extractLsb' 0 3).toNat → off = (reg th r.a).toNat → bytes = spadRead s r.core.toNat off 64 →
    (getStream s (8 * r.core.toNat + idx)).run = none → off + 64 ≤ scratchLen s r.core.toNat →
    (InvalidDesc (readDesc bytes) (bytes.drop 47) (scratchLen s r.core.toNat) →
      exec (.sstart r) s = .next (stopThread s r.core.toNat r.thr.toNat 0x0740 ((0xFF00000000000000 + off) % 2 ^ 64)) ∧
      (stopThread s r.core.toNat r.thr.toNat 0x0740 ((0xFF00000000000000 + off) % 2 ^ 64)).tower.streams = s.tower.streams) ∧
    (¬ InvalidDesc (readDesc bytes) (bytes.drop 47) (scratchLen s r.core.toNat) →
      ∃ u, exec (.sstart r) s = .next u ∧ (getStream u (8 * r.core.toNat + idx)).run = some (.move (readDesc bytes)))

/-! ### Control space -/

/-- R5: DEV.STEPPING, bits 31:16 of the first word of the block DEV, reads 0x0002 after reset, and no command changes what it reads. -/
def Obligations.SteppingReads : Prop :=
  csReadWord State.reset 0x7F0000000000 / 2 ^ 16 % 2 ^ 16 = 0x0002 ∧
  ∀ (c : Instr) (s t : State), exec c s = .next t →
    csReadWord t 0x7F0000000000 / 2 ^ 16 % 2 ^ 16 = csReadWord s 0x7F0000000000 / 2 ^ 16 % 2 ^ 16

/-! ### Host commands -/

/-- R76, Table 03.4: a packet that passes checks 1 to 3 and fails one of checks 4 to 9 gets one final reply with the status of the first check that
fails, no ST_ACCEPTED, and has no other effect, but that a STEP_FENCE closes the step it names (R275). R76, R71: one that fails check 2 or 3 is discarded: a
MALFORMED event with the first 24 bytes, the count one higher, no slot and no reply. R436: over a link that is not UP no packet arrives. The model's choices: parameters that depend on the
state of the part are refused at check 9 with no ST_ACCEPTED (log 128), which tasks are outstanding for PROG_UNLOAD and the order of the ranges (log 161),
and a row whose condition does not hold changes nothing else (log 17, as in every refusal below). -/
def Obligations.PacketsAreRefused : Prop :=
  (∀ e ∈ packetTable, ∀ (p : Pkt) (s : State) (i : OpInfo) (status detail : Nat), TakesPackets s → Accepted s e.2 p → opInfo e.2 = some i →
    (if p.params.length ≠ p.paramLen.toNat ∨ 4064 < p.paramLen.toNat ∨ p.paramLen.toNat % 4 ≠ 0 then status = 0x0102 ∧ detail = 0
     else if ∃ x ∈ s.mp.slots, x.tag = p.tag.toNat then status = 0x0104 ∧ detail = 0
     else if p.paramLen.toNat < i.lo ∨ i.hi < p.paramLen.toNat then status = 0x0105 ∧ detail = 0
     else if p.chan = .management ∧ e.2 / 256 ∉ [0, 7, 8] then status = 0x0107 ∧ detail = 0
     else if i.states = .r ∧ s.dev.state ≠ 2 ∨ i.states = .h ∧ s.dev.state ≠ 1 ∧ s.dev.state ≠ 2 then
       if s.dev.state = 0 then status = 0x0701 ∧ detail = s.dev.stage
       else if s.dev.state = 1 then status = 0x0702 ∧ detail = 0 else status = 0x0701 ∧ detail = 0xFF
     else status = 0x0106 ∧ paramBad s e.2 p.params = some detail) →
    s.dev.state < 4 →
    exec (e.1 p) s = .next { (if e.2 = 0x0403 ∧ p.flags.getLsbD 0 = true then stepCloses s p.step.toNat 0 else s) with
      mp := shortDone s e.2 p status detail [] }) ∧
  (∀ e ∈ packetTable, ∀ (p : Pkt) (s : State), TakesPackets s → EventRoom s →
    p.crc.toNat ≠ crc32c (hdrBytes e.2 p) ∨ p.tag = 0xFFFFFFFF →
    ∃ v, v = withEvent s (if p.crc.toNat = crc32c (hdrBytes e.2 p) then 0x0103 else 0x0101) 0x0011 (hdrBytes e.2 p) ∧
      exec (e.1 p) s = .next { v with mp := { v.mp with malformed := min (s.mp.malformed + 1) (2 ^ 32 - 1) } }) ∧
  (∀ e ∈ packetTable, ∀ (p : Pkt) (s : State), s.bxl.state ≠ 4 → exec (e.1 p) s = .next s)

/-- The commands that report (Tables 04.2, 04.4, 04.8, 04.12): the final reply carries the payload, and nothing else changes. -/
def Obligations.QueriesOnlyReport : Prop :=
  ∀ e ∈ queryTable, ∀ (p : Pkt) (s : State), TakesPackets s → Passes s e.2.1 p →
    exec (e.1 p) s = .next { s with mp := (if e.2.2.1 then longDone else shortDone) s e.2.1 p (e.2.2.2.1 s) 0 (e.2.2.2.2 s p) }

/-- R89, R102: writing 1 to a self-clearing bit clears what its table says, the command has its final reply ST_OK, and nothing else changes. QUAR_CLR
is noted for the boundary (R55); CLR_CNT clears the counters of its hub, where that is fitted. -/
def Obligations.SelfClearingBits : Prop :=
  (∀ e ∈ clearTable, ∀ (h : Hdr) (s : State), TakesPackets s → Passes s 0x0102 (lvPkt h e.2.1 e.2.2.1) →
    ∃ mp, mp = shortDone s 0x0102 (lvPkt h e.2.1 e.2.2.1) 0 0 [] ∧
      exec (e.1 h) s = .next { e.2.2.2 s with mp := { mp with malformed := (e.2.2.2 s).mp.malformed, evtDrop := (e.2.2.2 s).mp.evtDrop,
                                                                bulkOrphan := (e.2.2.2 s).mp.bulkOrphan } }) ∧
  (∀ (h : Hdr) (team : BitVec 8) (s : State) (p : Pkt), p = lvPkt h (0x7F0000020060 + 8 * (team.toNat / 64)) (team.toNat % 64) →
    TakesPackets s → Passes s 0x0102 p →
    ∃ u, exec (.quarClr h team) s = .next u ∧ u = { s with mp := shortDone s 0x0102 p 0 0 [], tick := { s.tick with quarClr := u.tick.quarClr } } ∧
      ∀ t, u.tick.quarClr.testBit t = (s.tick.quarClr.testBit t || decide (t = team.toNat))) ∧
  (∀ (h : Hdr) (hub : Nat) (s : State) (p : Pkt), p = lvPkt h (0x7F0000060928 + 0x40 * hub) 0 → hub < 6 → TakesPackets s → Passes s 0x0102 p →
    TablesForm s →
    if hubFitted s hub then
      ∃ u, exec (.clrCnt h hub) s = .next u ∧ u = { s with mp := shortDone s 0x0102 p 0 0 [], eth := { s.eth with hubs := u.eth.hubs } } ∧
        smGet {} u.eth.hubs hub = {} ∧ ∀ k, k ≠ hub → smGet {} u.eth.hubs k = smGet {} s.eth.hubs k
    else exec (.clrCnt h hub) s = .next { s with mp := shortDone s 0x0102 p 0x0202 0 [] })

/-- R101, R102, R88, R91: CS_READ returns the words, or ST_CS_UNMAPPED for the whole range; CS_WRITE changes the shadow bits that are set in the mask,
ignores bits that are not shadowed, and is refused at an unmapped word; CS_COMMIT becomes pending. -/
def Obligations.ControlSpaceCommands : Prop :=
  (∀ (p : Pkt) (s : State) (a n : Nat), TakesPackets s → Passes s 0x0101 p → a = getLe p.params 0 8 → n = getLe p.params 8 4 →
    (wordsMapped s a n → ∃ payload, exec (.csRead p) s = .next { s with mp := shortDone s 0x0101 p 0 0 payload } ∧
      payload = (List.range n).flatMap fun i => leBytes 8 (csReadWord (began s 0x0101 p false) (a + 8 * i))) ∧
    (¬ wordsMapped s a n → exec (.csRead p) s = .next { s with mp := shortDone s 0x0101 p 0x0202 0 [] })) ∧
  (∀ (p : Pkt) (s : State) (a : Nat), TakesPackets s → Passes s 0x0102 p → a = getLe p.params 0 8 → TablesForm s →
    (csUnmapped s a = true → exec (.csWrite p) s = .next { s with mp := shortDone s 0x0102 p 0x0202 0 [] }) ∧
    (csUnmapped s a = false → ∀ w, shAt a = some w →
      ∃ u, exec (.csWrite p) s = .next u ∧
        u = { s with mp := shortDone s 0x0102 p 0 0 [], cfg := { s.cfg with shadow := u.cfg.shadow } } ∧
        (∀ i, (cfgGet u.cfg.shadow a).testBit i =
          if (getLe p.params 16 8).testBit i ∧ (shMask w.fields).testBit i then (getLe p.params 8 8).testBit i else (cfgGet s.cfg.shadow a).testBit i) ∧
        ∀ b, b ≠ a → cfgGet u.cfg.shadow b = cfgGet s.cfg.shadow b) ∧
    (csUnmapped s a = false → shAt a = none → a ∉ clearWords → exec (.csWrite p) s = .next { s with mp := shortDone s 0x0102 p 0 0 [] })) ∧
  (∀ (p : Pkt) (s : State), TakesPackets s → Accepted s 0x0103 p → pktRefusal s 0x0103 p = none → p.flags.getLsbD 2 = false →
    exec (.csCommit p) s = .next { s with mp := { longWorks s 0x0103 p (.commit (if p.flags.getLsbD 1 then some p.tnb.toNat else none)) with
      commit := some (s.mp.nextSid, none), commitExpired := false } })

/-- R90: CS_DISCARD copies the active values into the shadow, after which SHADOW_DIRTY reads 0; while a commit is pending it is held, as a write to
shadowed fields is: it takes its slot and has no effect yet. -/
def Obligations.DiscardCopiesActive : Prop :=
  (∀ (p : Pkt) (s : State), TakesPackets s → Passes s 0x0104 p → slotsUsed s false ≤ 4096 → slotsUsed s true ≤ 64 →
    ∃ u, exec (.csDiscard p) s = .next u ∧ u = { s with mp := shortDone s 0x0104 p 0 0 [], cfg := { s.cfg with shadow := s.cfg.active } } ∧
      (∀ a, cfgGet u.cfg.shadow a = cfgGet s.cfg.active a) ∧ (csReadWord u 0x7F0000010018).testBit 25 = false) ∧
  (∀ (p : Pkt) (s v : State) (k : Nat × Option Nat), TakesPackets v → s = { v with mp := { v.mp with commit := some k } } →
    (Passes s 0x0104 p → exec (.csDiscard p) s = .next { s with mp := withSlot s 0x0104 p false (.held p 0x0104) [] }) ∧
    (Passes s 0x0102 p → ∀ w, shAt (getLe p.params 0 8) = some w → getLe p.params 16 8 &&& shMask w.fields ≠ 0 →
      exec (.csWrite p) s = .next { s with mp := withSlot s 0x0102 p false (.held p 0x0102) [] }))

/-- Commands that change one part of the device and end at once: SYNC_SET (R106, R146) sets the object's count and wakes the cores whose threads are
satisfied now; PROG_UNLOAD (R134), FW_ARM (R119), THERM_WAIVE (R503). R122: TOPO_ACCEPT and TOPO_ABANDON
in READY end with ST_OK and no effect; in BRINGUP they are refused with ST_NOT_READY and the stage, in ABANDONED with ST_NOT_READY and 0x00FF. -/
def Obligations.CommandsThatEndAtOnce : Prop :=
  (∀ (p : Pkt) (s : State) (obj value : Nat), TakesPackets s → Passes s 0x0205 p → TablesForm s → obj = getLe p.params 0 2 → value = getLe p.params 4 4 →
    ∃ u, exec (.syncSet p) s = .next u ∧
      u = { s with mp := shortDone s 0x0205 p 0 0 [], tower := { s.tower with sync := u.tower.sync, wakes := u.tower.wakes } } ∧
      syncCount u obj = value ∧ (∀ o, o ≠ obj → syncCount u o = syncCount s o) ∧
      (∀ c t target th, c ∈ smGet [] s.tower.watches obj → getThread s c t = some th → th.st = .blocked (.sync obj target) →
        countReached value target = true → (c, obj) ∈ u.tower.wakes) ∧
      ∀ w ∈ u.tower.wakes, w ∈ s.tower.wakes ∨ w.2 = obj) ∧
  (∀ (p : Pkt) (s : State), TakesPackets s → Passes s 0x0302 p → TablesForm s →
    ∃ u, exec (.progUnload p) s = .next u ∧ u = { s with mp := shortDone s 0x0302 p 0 0 [], progs := u.progs } ∧
      smGet? u.progs (getLe p.params 0 2) = none ∧ ∀ h, h ≠ getLe p.params 0 2 → smGet? u.progs h = smGet? s.progs h) ∧
  (∀ (p : Pkt) (s : State), TakesPackets s → Passes s 0x0603 p →
    exec (.fwArm p) s = .next { s with mp := shortDone s 0x0603 p 0 0 [], fw := { s.fw with armed := true } }) ∧
  (∀ (p : Pkt) (s : State), TakesPackets s → Passes s 0x0702 p →
    ∃ u, exec (.thermWaive p) s = .next u ∧
      u = { s with mp := shortDone s 0x0702 p 0 0 [], therm := { s.therm with waived := u.therm.waived, suspect := u.therm.suspect } } ∧
      getLe p.params 0 2 ∈ u.therm.waived ∧ getLe p.params 0 2 ∉ u.therm.suspect ∧
      ∀ i, i ≠ getLe p.params 0 2 → (i ∈ u.therm.waived ↔ i ∈ s.therm.waived) ∧ (i ∈ u.therm.suspect ↔ i ∈ s.therm.suspect)) ∧
  (∀ e ∈ ([(.topoAccept, 0x0803), (.topoAbandon, 0x0804)] : List ((Pkt → Instr) × Nat)), ∀ (p : Pkt) (s : State), TakesPackets s → Accepted s e.2 p →
    p.flags.getLsbD 1 = false → p.flags.getLsbD 2 = false → p.params = [] → p.paramLen = 0 → (∀ x ∈ s.mp.slots, x.tag ≠ p.tag.toNat) →
    (s.dev.state = 2 → exec (e.1 p) s = .next { s with mp := longDone s e.2 p 0 0 [] }) ∧
    (s.dev.state = 0 → exec (e.1 p) s = .next { s with mp := shortDone s e.2 p 0x0701 s.dev.stage [] }) ∧
    (s.dev.state = 3 → exec (e.1 p) s = .next { s with mp := shortDone s e.2 p 0x0701 0x00FF [] }))

/-- R80, R103: long commands are acknowledged and begin: what each leaves to do, with nothing else changed. A memory command whose ranges are
unmapped or protected ends with that status instead, and reads or writes nothing. That a second EVAL_SNAPSHOT waits for the first to end is the model's
choice, R337 being silent (log entry 106); a snapshot notes the switch decided before it (R337). R462, R441: TOPO_READ queues the topology report on the
bulk channel under its tag, in packets of at most 4,088 bytes of data, LAST on the last. -/
def Obligations.LongCommandsBegin : Prop :=
  (∀ (p : Pkt) (s : State) (a n : Nat), TakesPackets s → Passes s 0x0201 p → a = getLe p.params 0 8 → n = getLe p.params 8 4 →
    ∃ mp, exec (.memRead p) s = .next { s with mp := mp } ∧
      mp = if unmappedAt s a n = none then longWorks s 0x0201 p (.memRead a n) else longDone s 0x0201 p 0x0740 0 []) ∧
  (∀ (p : Pkt) (s : State) (a n : Nat), TakesPackets s → Passes s 0x0202 p → a = getLe p.params 0 8 → n = getLe p.params 8 4 →
    ∃ mp, exec (.memWrite p) s = .next { s with mp := mp } ∧
      mp = if unmappedAt s a n ≠ none then longDone s 0x0202 p 0x0740 0 []
      else match protectedAt s a n with
        | some x => longDone s 0x0202 p 0x0741 (protDetail s x) []
        | none => longWorks s 0x0202 p (.memWrite a n 0)) ∧
  (∀ (p : Pkt) (s : State) (a n : Nat), TakesPackets s → Passes s 0x0203 p → a = getLe p.params 0 8 → n = getLe p.params 8 4 →
    ∃ mp, exec (.memFill p) s = .next { s with mp := mp } ∧
      mp = if unmappedAt s a n ≠ none then longDone s 0x0203 p 0x0740 0 []
      else match protectedAt s a n with
        | some x => longDone s 0x0203 p 0x0741 (protDetail s x) []
        | none => longWorks s 0x0203 p (.memFill a n (getLe p.params 16 8))) ∧
  (∀ (p : Pkt) (s : State) (a d n : Nat), TakesPackets s → Passes s 0x0204 p → a = getLe p.params 0 8 → d = getLe p.params 8 8 →
    n = getLe p.params 16 4 →
    ∃ mp, exec (.memCopy p) s = .next { s with mp := mp } ∧
      mp = if unmappedAt s a n ≠ none ∨ unmappedAt s d n ≠ none then longDone s 0x0204 p 0x0740 0 []
      else match protectedAt s d n with
        | some x => longDone s 0x0204 p 0x0741 (protDetail s x) []
        | none => longWorks s 0x0204 p (.memCopy a d n)) ∧
  (∀ (p : Pkt) (s : State), TakesPackets s → Passes s 0x0207 p →
    exec (.streamWait p) s = .next { s with mp := longWorks s 0x0207 p (.streamWait (getLe p.params 0 2)) }) ∧
  (∀ (p : Pkt) (s : State), TakesPackets s → Passes s 0x0601 p →
    exec (.fwChunk p) s = .next { s with
      mp := longWorks s 0x0601 p (.fwChunk (getLe p.params 0 4) (getLe p.params 4 4) (getLe p.params 8 4) (some [])) }) ∧
  (∀ (p : Pkt) (s : State), TakesPackets s → Passes s 0x0405 p →
    exec (.evalSnapshot p) s = .next { s with
      mp := longWorks s 0x0405 p .snapshot
      step := { s.step with snapshot := if s.step.snapshot = none then some ⟨s.mp.nextSid, s.step.epochCur, false, (s.step.switch.map (·.step)).toList⟩ else s.step.snapshot } }) ∧
  (∀ (p : Pkt) (s : State), TakesPackets s → Passes s 0x0704 p →
    ∃ u, exec (.diagScan p) s = .next u ∧ u = { s with
        mp := longWorks s 0x0704 p (.scan (getB p.params 0) ((getB p.params 1).testBit 0)), rel := { s.rel with scans := u.rel.scans } } ∧
      (∃ x ∈ u.rel.scans, x.layer = getB p.params 0) ∧
      ((∃ x ∈ s.rel.scans, x.layer = getB p.params 0) → u.rel.scans = s.rel.scans)) ∧
  (∀ (p : Pkt) (s : State), TakesPackets s → Passes s 0x0002 p → s.dev.state = 2 →
    exec (.devReset p) s = .next { s with mp := { longWorks s 0x0002 p .reset with resetting := true } }) ∧
  (∀ (p : Pkt) (s : State), TakesPackets s → Passes s 0x0802 p →
    ∃ pkts, exec (.topoRead p) s = .next { s with mp := { longWorks s 0x0802 p .bulkOut with bulkQ := s.mp.bulkQ ++ pkts } } ∧
      (pkts.map fun r => r.bytes.drop 8).flatten = topoReport s ∧
      (∀ r ∈ pkts, r.bytes.take 4 = leBytes 4 p.tag.toNat ∧ r.bytes.length ≤ 4096) ∧
      (∀ r ∈ pkts.dropLast, r.sid = none ∧ getLe r.bytes 4 2 = 0) ∧
      ∀ r, pkts.getLast? = some r → r.sid = some s.mp.nextSid ∧ getLe r.bytes 4 2 = 1)

/-- R108, R49, R54: TASK_SUBMIT of a task that names no quarantined team and fits the interval waits for its admission, with the fields of Table 04.6;
else it ends with ST_TEAM_QUARANTINED and the lowest such team (which team DETAIL names is the model's choice, log entry 174), or with ST_TASK_TOO_LONG.
R112: TASK_CANCEL of a waiting task: that task has its final reply ST_CANCELLED, and then the cancel ST_OK with DETAIL 1. Of a task admitted, or of
no task outstanding: ST_OK with DETAIL 0, and nothing else changes. -/
def Obligations.TaskSubmitWaits : Prop :=
  (∀ (p : Pkt) (s : State), TakesPackets s → Accepted s 0x0303 p → pktRefusal s 0x0303 p = none →
    ((∀ t, t < 256 → (getLe p.params 0 32).testBit t = true → s.tick.quarantine.testBit t = false) →
      (getLe p.params 32 4 ≤ cfgInterval s * (100 - cfgReplayPct s) * 15 - 4500 →
        ∃ k, exec (.taskSubmit p) s = .next { s with mp := longWorks s 0x0303 p .task, tick := { s.tick with tasks := s.tick.tasks ++ [k] } } ∧
          k.sid = s.mp.nextSid ∧ k.tag = p.tag.toNat ∧ k.teams = getLe p.params 0 32 ∧ k.budget = getLe p.params 32 4 ∧ k.phase = getB p.params 36 ∧
          k.handle = getLe p.params 38 2 ∧ k.entry = getLe p.params 40 4 ∧ k.threads = getLe p.params 44 2 ∧ k.arg = getLe p.params 48 8 ∧
          k.epoch = getLe p.params 56 8 ∧ k.footprint = getLe p.params 64 8 ∧
          k.tnb = (if p.flags.getLsbD 1 then some p.tnb.toNat else none) ∧ k.step = (if p.flags.getLsbD 0 then some p.step.toNat else none) ∧
          k.ordered = p.flags.getLsbD 2 ∧ k.admitted = false ∧ k.running = false) ∧
      (cfgInterval s * (100 - cfgReplayPct s) * 15 - 4500 < getLe p.params 32 4 →
        exec (.taskSubmit p) s = .next { s with mp := longDone s 0x0303 p 0x0303 0 [] })) ∧
    (∀ t, t < 256 → (getLe p.params 0 32).testBit t = true → s.tick.quarantine.testBit t = true →
      (∀ x, x < t → (getLe p.params 0 32).testBit x = true → s.tick.quarantine.testBit x = false) →
      exec (.taskSubmit p) s = .next { s with mp := longDone s 0x0303 p 0x0302 t [] })) ∧
  (∀ (p : Pkt) (s : State), TakesPackets s → Passes s 0x0304 p → p.chan = .command →
    ((∀ k ∈ s.tick.tasks, k.tag = getLe p.params 0 4 → k.admitted = true) → exec (.taskCancel p) s = .next { s with mp := shortDone s 0x0304 p 0 0 [] }) ∧
    (∀ k x, s.tick.tasks.find? (fun k => k.tag == getLe p.params 0 4 && !k.admitted) = some k → findSlot s k.sid = some x → x.work ≠ .done →
      x.mgmt = false →
      ∃ u r, exec (.taskCancel p) s = .next u ∧ u.tick = { s.tick with tasks := s.tick.tasks.filter fun y => y.sid != k.sid } ∧
        u.mp.replyQ = s.mp.replyQ ++ [r, replyTo s p (some s.mp.nextSid) 0x0000 1 []] ∧ r.sid = some k.sid ∧ getLe r.bytes 0 4 = x.tag % 2 ^ 32 ∧
        getLe r.bytes 4 2 = 0x0305 ∧ u = { s with mp := u.mp, tick := u.tick }))

/-- R107, R133, R113, R342, R372: PROG_LOAD lists the program of a valid image, TENSOR_DEFINE the tensor, and PACK_DEFINE the pack of a valid table, whose
shadow extents leave the caches (R374). Of a weight tensor the layout check gives whether it can be updated, and a second-order rule whose factors are
not optional has its first refresh waiting; memory and the free values drawn may change. A table or an image that is read without harm to the rest of
the block is assumed. -/
def Obligations.DefinitionsAreListed : Prop :=
  (∀ (p : Pkt) (s v : State) (image len : Nat) (img : List Byte), TakesPackets s → Passes s 0x0301 p → image = getLe p.params 0 8 →
    len = getLe p.params 8 4 → unmappedAt s image len = none → memRead (began s 0x0301 p true) image len = (v, .ok img) →
    v = { began s 0x0301 p true with mem := v.mem, draws := v.draws } →
    (imageBad image (getB p.params 14) img = none →
      ∃ u, exec (.progLoad p) s = .next u ∧ u = answeredIn s { v with progs := u.progs } 0x0301 p true 0 0 [] ∧
        smGet? u.progs (getLe p.params 12 2) =
          some ⟨image, len, getB p.params 14, getLe img 8 4, getLe img 12 4, getLe img 26 2⟩ ∧
        ∀ h, h ≠ getLe p.params 12 2 → smGet? u.progs h = smGet? s.progs h) ∧
    (∀ d, imageBad image (getB p.params 14) img = some d → exec (.progLoad p) s = .next (answeredIn s v 0x0301 p true 0x0106 d []))) ∧
  (∀ (p : Pkt) (s : State), TakesPackets s → Passes s 0x0401 p → getB p.params 4 ≠ 0 →
    exec (.tensorDefine p) s = .next { s with mp := shortDone s 0x0401 p 0 0 [],
                                              step := { s.step with tensors := s.step.tensors ++ [tensorOf p.params] } }) ∧
  (∀ (p : Pkt) (s v w : State) (b : List Byte) (x : Tensor), TakesPackets s → Passes s 0x0401 p → getB p.params 4 = 0 → x = tensorOf p.params →
    v = { s with mp := shortDone s 0x0401 p 0 0 [], step := { s.step with tensors := s.step.tensors ++ [x] } } → memRead v x.hyper 128 = (w, .ok b) →
    w = { v with mem := w.mem, draws := w.draws } →
    ∃ u y, exec (.tensorDefine p) s = .next u ∧
      u = { v with mem := u.mem, draws := u.draws, step := { v.step with tensors := s.step.tensors ++ [y] } } ∧
      y = { x with check6 := y.check6, lostState := y.lostState, refreshes := y.refreshes } ∧ y.check6 = !layoutOk w x (hyperOf b).pool ∧
      y.refreshes.length = (if y.check6 = false ∧ x.rule = 4 ∧ optFactors (hyperOf b) = false then 1 else 0) ∧
      (y.check6 = true → y.lostState = x.lostState)) ∧
  (∀ (p : Pkt) (s v : State) (a len : Nat) (t : List Byte) (k : Pack), TakesPackets s → Passes s 0x0501 p → len = getLe p.params 4 4 →
    a = getLe p.params 8 8 → unmappedAt s a len = none → memRead (began s 0x0501 p true) a len = (v, .ok t) →
    v = { began s 0x0501 p true with mem := v.mem, draws := v.draws } → k = packOfTable (getLe p.params 0 4) t →
    (tableHeadOk t len = true → packOk s k = true → (∀ e ∈ k.extents, e.2 = 0) →
      ∃ u, exec (.packDefine p) s = .next u ∧ findPack u (getLe p.params 0 4) = some k ∧
        u = answeredIn s { v with step := { s.step with packs := s.step.packs ++ [k] }, eth := u.eth } 0x0501 p true 0 0 []) ∧
    (tableHeadOk t len = true → packOk s k = true →
      ∃ u, exec (.packDefine p) s = .next u ∧ findPack u (getLe p.params 0 4) = some k ∧
        u = answeredIn s { v with step := { s.step with packs := s.step.packs ++ [k] }, eth := u.eth, mem := u.mem, draws := u.draws } 0x0501 p true 0 0 [] ∧
        u.mem = (k.extents.foldl (fun s e => if e.2 = 0 then s else flushRange s e.1 e.2) v).mem) ∧
    (tableHeadOk t len = true → packOk s k = false → exec (.packDefine p) s = .next (answeredIn s v 0x0501 p true 0x0106 8 [])) ∧
    (tableHeadOk t len = false → exec (.packDefine p) s = .next (answeredIn s v 0x0501 p true 0x0106 8 [])))

/-- R115, R116, R117, R366: TENSOR_DROP is accepted and its tensor marked to go with the next fence. STEP_FENCE is refused with the statuses of R116;
else the pack's fence stands at the step, and has its final reply at once where the step's decision is a skip already. The first fence that carries a step's
number is the one whose final reply closes the step (R275, R340). PACK_RELEASE of a pack with no fence outstanding, its final reply sent (R77), removes
it and has its final reply, and NaN that a running update has written are reported first (R269); with one it waits. -/
def Obligations.FencesAndReleases : Prop :=
  (∀ (p : Pkt) (s : State), TakesPackets s → Passes s 0x0402 p →
    exec (.tensorDrop p) s = .next { s with
      mp := longWorks s 0x0402 p (.tensorDrop (getLe p.params 0 4))
      step := { s.step with tensors := tensorMap s (getLe p.params 0 4) fun t => { t with dropping := some (t.dropping.getD s.mp.nextSid) } } }) ∧
  (∀ (p : Pkt) (s : State) (n : Nat), TakesPackets s → Passes s 0x0403 p → n = p.step.toNat →
    (p.flags.getLsbD 0 = false → exec (.stepFence p) s = .next { s with mp := longDone s 0x0403 p 0x0403 0 [] }) ∧
    (p.flags.getLsbD 0 = true → findPack s (getLe p.params 0 4) = none →
      exec (.stepFence p) s = .next { stepCloses s n 0 with mp := longDone s 0x0403 p 0x0501 0 [] }) ∧
    (p.flags.getLsbD 0 = true → ∀ k m, findPack s (getLe p.params 0 4) = some k → k.lastFenced = some m → n ≠ m + 1 →
      exec (.stepFence p) s = .next { stepCloses s n 0 with mp := longDone s 0x0403 p 0x0403 0 [] }) ∧
    (p.flags.getLsbD 0 = true → ∀ k, findPack s (getLe p.params 0 4) = some k → (∀ m, k.lastFenced = some m → n = m + 1) →
      (∀ d, stepDecision k n = some d → d.1 = true ∨ ∃ q ∈ s.step.packs, q.id ≠ k.id ∧ ∀ y, findPS q n = some y → y.decision = none) →
      ∃ u k' x, exec (.stepFence p) s = .next u ∧
        u = { s with mp := longWorks s 0x0403 p (.fence k.id n), step := u.step, eth := u.eth, watch := fenceNoted s 0x0403 p } ∧
        findPack u k.id = some k' ∧ k'.lastFenced = some n ∧ findPS k' n = some x ∧ x.fence = some s.mp.nextSid ∧ x.fenceAt = s.now) ∧
    (p.flags.getLsbD 0 = true → ∀ k by_ status detail, s.step.packs = [k] → getLe p.params 0 4 = k.id → (∀ m, k.lastFenced = some m → n = m + 1) →
      stepDecision k n = some (false, by_, status, detail) → (∀ t ∈ s.step.tensors, t.dropping = none) →
      ∃ u k' x, exec (.stepFence p) s = .next u ∧ u = { stepCloses s n 2 with
          mp := longDone s 0x0403 p status detail
            (leBytes 8 s.step.epochCur ++ leBytes 8 (s.step.epochPrev.getD (2 ^ 64 - 1)) ++ leBytes 1 by_ ++ List.replicate 7 0)
          step := u.step, eth := u.eth } ∧
        findPack u k.id = some k' ∧ k'.lastFenced = some n ∧ findPS k' n = some x ∧ x.fence = none)) ∧
  (∀ (p : Pkt) (s : State), TakesPackets s → Passes s 0x0502 p →
    (findPack s (getLe p.params 0 4) = none → exec (.packRelease p) s = .next { s with mp := longDone s 0x0502 p 0x0501 0 [] }) ∧
    (∀ k, findPack s (getLe p.params 0 4) = some k → (∃ x ∈ s.mp.slots, x.opcode = 0x0403 ∧ x.ref = k.id) →
      ∃ u k', exec (.packRelease p) s = .next u ∧ u = { s with mp := longWorks s 0x0502 p (.packRelease k.id), step := u.step } ∧
        findPack u k.id = some k' ∧ k'.releasing = some s.mp.nextSid) ∧
    (∀ k, findPack s (getLe p.params 0 4) = some k →
      (∀ x ∈ s.mp.slots, (x.opcode = 0x0403 → x.ref ≠ k.id) ∧ x.work ≠ .packRelease k.id) →
      ∃ u l, exec (.packRelease p) s = .next u ∧ u = { s with
        mp := longDone s 0x0502 p 0 0 []
        step := { s.step with packs := s.step.packs.filter fun q => q.id != k.id }
        tower := { s.tower with nans := s.tower.nans ++ l }
        eth := u.eth, mem := u.mem } ∧ (∀ n ∈ l, n.hub = true ∧ n.unit = 6) ∧
        ((∀ q ∈ s.step.packs, q.id = k.id → ∀ x ∈ q.steps, ∀ y ∈ x.updates, y.nan = none ∨ y.nanSent = true) → l = [])))

/-- R413: RC_OPEN opens a connection and reports its number, first packet number and key, unless the port is not UP or its hub has no connection free;
RC_CLOSE of a connection with nothing in flight removes it and reports whether it had failed, and else waits; when nothing is in flight any
more, every RC_CLOSE that waits ends. The model's choices: closing connections and
failed ones count towards the 1,024 (log entry 58), and the lowest byte of REMOTE_ADDR comes first (log entry 99). -/
def Obligations.ConnectionsOpenAndClose : Prop :=
  (∀ (p : Pkt) (s : State) (hub port : Nat), TakesPackets s → Passes s 0x0504 p → hub = getB p.params 0 → port = getB p.params 1 →
    (portUp s hub port = false → exec (.rcOpen p) s = .next { s with mp := longDone s 0x0504 p 0x0502 (hub * 16 + port) [] }) ∧
    (portUp s hub port = true → 1024 ≤ (s.eth.conns.filter fun c => c.hub == hub).length →
      exec (.rcOpen p) s = .next { s with mp := longDone s 0x0504 p 0x0106 0 [] }) ∧
    (portUp s hub port = true → (s.eth.conns.filter fun c => c.hub == hub).length < 1024 →
      s.eth.conns.length < 2 ^ 24 →
      ∃ c payload, exec (.rcOpen p) s = .next { s with mp := longDone s 0x0504 p 0 0 payload, draws := s.draws + 3,
                                                       eth := { s.eth with conns := s.eth.conns ++ [c] } } ∧
        payload = leBytes 4 c.qpn ++ leBytes 4 c.sendPsn ++ leBytes 4 c.rkey ++ leBytes 4 0 ∧ c.hub = hub ∧ c.port = port ∧
        c.v6 = (getB p.params 2).testBit 0 ∧ c.remoteQpn = getLe p.params 4 4 % 2 ^ 24 ∧ c.remoteAddr = getLe p.params 8 16 ∧
        c.recvPsn = getLe p.params 24 4 % 2 ^ 24 ∧ c.qpn < 2 ^ 24 ∧ c.sendPsn < 2 ^ 24 ∧ c.error = false ∧ c.flights = [] ∧
        ∀ x ∈ s.eth.conns, x.qpn ≠ c.qpn)) ∧
  (∀ (p : Pkt) (s : State) (q : Nat) (c : RcConn), TakesPackets s → Passes s 0x0505 p → q = getLe p.params 0 4 →
    findConn s q = some c →
    (c.flights = [] → (∀ x ∈ s.mp.slots, ∀ hub, x.work ≠ .rcClose hub q) → exec (.rcClose p) s = .next { s with
        mp := longDone s 0x0505 p 0 (if c.error then 1 else 0) []
        eth := { s.eth with conns := s.eth.conns.filter fun x => x.qpn != q } }) ∧
    (c.flights ≠ [] → ∃ u c', exec (.rcClose p) s = .next u ∧
      u = { s with mp := longWorks s 0x0505 p (.rcClose c.hub q), eth := { s.eth with conns := u.eth.conns } } ∧
      findConn u q = some c' ∧ c'.closing = some (c.closing.getD s.mp.nextSid))) ∧
  (∀ (s : State) (q : Nat) (c : RcConn) (closes : List Slot), findConn s q = some c →
    closes = s.mp.slots.filter (fun x => match x.work with | .rcClose _ n => n == q | _ => false) → (∀ x ∈ closes, findSlot s x.sid = some x) →
    (c.closing = none ∨ c.flights ≠ [] → closeCheck s q = s) ∧
    (∀ sid, c.closing = some sid → c.flights = [] → closeCheck s q =
      closes.foldl (fun v x => endedWith v x 0 (if c.error then 1 else 0) [])
        { s with eth := { s.eth with conns := s.eth.conns.filter fun x => x.qpn != q } }))

/-- R103, R104, R78: a memory command at work that completes moves its bytes through the access of memory and has its final reply on its own channel
(MEM_READ: its data queued first); its ranges are looked at again, and one that is unmapped or protected by now, or whose access fails, ends it with that
status. Bulk data that no command takes is counted and dropped; data of a MEM_WRITE is written where the data before it ended, its last byte ends the
command, and the flits of a bulk packet give their credits back when the last of its data is written, or all is discarded (R442; when it is written is log
entry 104, that a range is looked at again log entry 147). Data of a FW_CHUNK is gathered until it has 4,096 bytes. -/
def Obligations.MemoryCommandsFinish : Prop :=
  (∀ (tag : W32) (s : State) (x : Slot) (a n pat : Nat), TakesPackets s → findSlot s x.sid = some x →
    s.mp.slots.find? (fun x => x.tag == tag.toNat && movesMem x) = some x → x.work = .memFill a n pat →
    (unmappedAt s a n ≠ none → exec (.memoryCommandComplete tag) s = .next (endedWith s x 0x0740 0 [])) ∧
    (unmappedAt s a n = none → ∀ q, protectedAt s a n = some q →
      exec (.memoryCommandComplete tag) s = .next (endedWith s x 0x0741 (protDetail s q) [])) ∧
    (unmappedAt s a n = none → protectedAt s a n = none → ∀ v, v = { s with mem := v.mem, draws := v.draws } →
      (memWrite s a ((List.range n).map fun i => BitVec.ofNat 8 (pat / 2 ^ (8 * (i % 8)))) = (v, .ok ()) →
        exec (.memoryCommandComplete tag) s = .next (endedWith v x 0 0 [])) ∧
      (∀ e, memWrite s a ((List.range n).map fun i => BitVec.ofNat 8 (pat / 2 ^ (8 * (i % 8)))) = (v, .error e) →
        exec (.memoryCommandComplete tag) s = .next (endedWith v x 0x0740 0 [])))) ∧
  (∀ (tag : W32) (s : State) (x : Slot) (a d n : Nat), TakesPackets s → findSlot s x.sid = some x →
    s.mp.slots.find? (fun x => x.tag == tag.toNat && movesMem x) = some x → x.work = .memCopy a d n →
    (unmappedAt s a n ≠ none ∨ unmappedAt s d n ≠ none → exec (.memoryCommandComplete tag) s = .next (endedWith s x 0x0740 0 [])) ∧
    (unmappedAt s a n = none → unmappedAt s d n = none → ∀ q, protectedAt s d n = some q →
      exec (.memoryCommandComplete tag) s = .next (endedWith s x 0x0741 (protDetail s q) [])) ∧
    (unmappedAt s a n = none → unmappedAt s d n = none → protectedAt s d n = none → ∀ v, v = { s with mem := v.mem, draws := v.draws } →
      (∀ e, memRead s a n = (v, .error e) → exec (.memoryCommandComplete tag) s = .next (endedWith v x 0x0740 0 [])) ∧
      (∀ bytes, memRead s a n = (v, .ok bytes) → ∀ w, w = { s with mem := w.mem, draws := w.draws } →
        (memWrite v d bytes = (w, .ok ()) → exec (.memoryCommandComplete tag) s = .next (endedWith w x 0 0 [])) ∧
        (∀ e, memWrite v d bytes = (w, .error e) → exec (.memoryCommandComplete tag) s = .next (endedWith w x 0x0740 0 []))))) ∧
  (∀ (tag : W32) (s v : State) (x : Slot) (a n : Nat), TakesPackets s → findSlot s x.sid = some x →
    s.mp.slots.find? (fun x => x.tag == tag.toNat && movesMem x) = some x → x.work = .memRead a n →
    (unmappedAt s a n ≠ none → exec (.memoryCommandComplete tag) s = .next (endedWith s x 0x0740 0 [])) ∧
    (unmappedAt s a n = none → v = { s with mem := v.mem, draws := v.draws } →
      (∀ e, memRead s a n = (v, .error e) → exec (.memoryCommandComplete tag) s = .next (endedWith v x 0x0740 0 [])) ∧
      ∀ bytes, memRead s a n = (v, .ok bytes) →
        ∃ u pkts, exec (.memoryCommandComplete tag) s = .next u ∧ u = { v with mp := { s.mp with slots := u.mp.slots, bulkQ := s.mp.bulkQ ++ pkts } } ∧
          findSlot u x.sid = some { x with work := .bulkOut } ∧ (pkts.map fun r => r.bytes.drop 8).flatten = bytes)) ∧
  (∀ (tag : W32) (flags : W16) (data : List Byte) (s : State), TakesPackets s →
    (∀ x ∈ s.mp.slots, x.tag = tag.toNat → x.work ≠ .done → x.opcode ≠ 0x0202 ∧ x.opcode ≠ 0x0601) →
    exec (.bulkPacket tag flags data) s = .next { s with mp := { s.mp with bulkOrphan := min (s.mp.bulkOrphan + 1) (2 ^ 32 - 1) } }) ∧
  (∀ (tag : W32) (flags : W16) (data old all : List Byte) (kept : List (Nat × List Byte)) (s t : State) (x : Slot) (a n got room k : Nat),
    TakesPackets s → findSlot s x.sid = some x →
    s.mp.slots.find? (fun x => x.tag == tag.toNat && (x.opcode == 0x0202 || x.opcode == 0x0601) && x.work != .done) = some x →
    x.work = .memWrite a n got → data.length ≤ 4088 → old = (x.bulk.map (·.2)).flatten → room = n - got - old.length → all = old ++ data.take room →
    kept = x.bulk ++ [(0, data.take room)] →
    k = (if got + all.length = n then all.length else all.length - min all.length ((a + got + all.length) % 64)) →
    t = (if room < data.length then { s with mp := { s.mp with bulkOrphan := min (s.mp.bulkOrphan + 1) (2 ^ 32 - 1) } } else s) →
    ∃ fail : State → Nat → Nat → Out, (∀ v status detail, fail v status detail =
        .next (endedWith (bulkTaken v x x.work [] (kept.map (·.1)).sum) x status detail [])) ∧
    (unmappedAt s a n ≠ none → exec (.bulkPacket tag flags data) s = fail t 0x0740 0) ∧
    (unmappedAt s a n = none → ∀ q, protectedAt s a n = some q → exec (.bulkPacket tag flags data) s = fail t 0x0741 (protDetail s q)) ∧
    (unmappedAt s a n = none → protectedAt s a n = none → ∀ v, v = { t with mem := v.mem, draws := v.draws } →
      (∀ e, memWrite t (a + got) (all.take k) = (v, .error e) → exec (.bulkPacket tag flags data) s = fail v 0x0740 0) ∧
      (memWrite t (a + got) (all.take k) = (v, .ok ()) → ∃ w left back, w = bulkTaken v x (.memWrite a n (got + k)) left back ∧
        (left.map (·.2)).flatten = all.drop k ∧ back + (left.map (·.1)).sum = (kept.map (·.1)).sum ∧
        (∀ q rest, left = q :: rest → q.2 ≠ []) ∧
        exec (.bulkPacket tag flags data) s = .next (if got + k = n then endedWith w x 0 0 [] else w)))) ∧
  (∀ (tag : W32) (flags : W16) (data old : List Byte) (s : State) (x : Slot) (i t c : Nat), TakesPackets s → findSlot s x.sid = some x →
    s.mp.slots.find? (fun x => x.tag == tag.toNat && (x.opcode == 0x0202 || x.opcode == 0x0601) && x.work != .done) = some x →
    x.work = .fwChunk i t c (some old) → data.length ≤ 4088 →
    (old.length + data.length < 4096 → ∃ u, exec (.bulkPacket tag flags data) s = .next u ∧ u = { s with mp := { s.mp with slots := u.mp.slots } } ∧
      findSlot u x.sid = some { x with work := .fwChunk i t c (some (old ++ data)), bulk := x.bulk ++ [(0, [])] }) ∧
    (4096 ≤ old.length → exec (.bulkPacket tag flags data) s = .next { s with mp := { s.mp with bulkOrphan := min (s.mp.bulkOrphan + 1) (2 ^ 32 - 1) } }))

/-- R71, R82, R86, R92: REPLY_SEND sends the oldest reply of its channel as soon as credits allow, and frees its slot; EVENT_QUEUE_SPACE reports the
events dropped; COMMIT_TIMEOUT refuses a commit whose 64th boundary has passed. The model's choices: a packet goes only when credits for all its flits are
held (log entry 63), what event space reports first (log entry 119), and that the 64th boundary marks the commit (log entry 79). -/
def Obligations.RepliesAndEventsAreSent : Prop :=
  (∀ (mgmt : Bool) (s : State) (r : Reply) (rest : List Reply) (vc : Nat), TakesPackets s → s.mp.bulkQ = [] → s.bxl.resend = [] →
    (if mgmt then s.mp.mgmtQ else s.mp.replyQ) = r :: rest → vc = (if mgmt then 3 else 1) →
    (canSend s vc r.bytes = false → s.bxl.due = [] → exec (.replySend mgmt) s = .next s) ∧
    (canSend s vc r.bytes = true → ∃ u x, exec (.replySend mgmt) s = .next u ∧ u = { s with mp := u.mp, bxl := u.bxl } ∧
      u.mp = { s.mp with slots := u.mp.slots, resetAt := u.mp.resetAt, replyQ := if mgmt then s.mp.replyQ else rest,
                         mgmtQ := if mgmt then rest else s.mp.mgmtQ } ∧
      (∀ k ∈ u.mp.slots, k ∈ s.mp.slots ∧ r.sid ≠ some k.sid) ∧ (∀ k ∈ s.mp.slots, r.sid ≠ some k.sid → k ∈ u.mp.slots) ∧
      u.bxl.sent = s.bxl.sent ++ [x] ∧ x.vc = vc ∧ x.bytes = r.bytes)) ∧
  (∀ s : State, exec .eventQueueSpace s = .next
    (if s.mp.dropRun ≠ 0 ∧ eventCount s < 1024 then
      { s with mp := { (withEvent s 0 0x0012 (leBytes 4 s.mp.dropRun ++ leBytes 4 s.mp.dropFirst)).mp with dropRun := 0 } }
     else s)) ∧
  (∀ (s : State) (sid n : Nat) (x : Slot), s.mp.commit = some (sid, some n) → findSlot s sid = some x → x.work ≠ .done → x.mgmt = false →
    (s.mp.commitExpired = false → exec .commitTimeout s = .next s) ∧
    (s.mp.commitExpired = true → ∃ u r, exec .commitTimeout s = .next u ∧
      u = { s with mp := { s.mp with slots := u.mp.slots, replyQ := s.mp.replyQ ++ [r], commit := none, commitExpired := false } } ∧
      findSlot u sid = some { x with work := .done } ∧ r.sid = some sid ∧ getLe r.bytes 4 2 = 0x0203))

/-! ### Instructions of a core's units -/

/-- R163, R266, R269, Table 05.16: each scalar floating-point instruction completes and writes gD alone, upper bits 0; a NaN in its result format is
reported once, as unit 0, unless a replay repeats the report (R272). The mode is the active one, and in a replay that of the tick that failed (R475). -/
def Obligations.ScalarFloatForms : Prop :=
  ∀ e ∈ floatTable, ∀ (r : RArgs) (s : State) (th : Thread) (v : Nat),
    CanIssue s r.core.toNat r.thr.toNat th → r.rsv = 0 → (e.2.1 = true → r.b = 0) → InCode s r.core.toNat (th.pc + 4) →
    v = e.2.2.2 (slotStrict s r.core.toNat 0) (reg th r.d) (reg th r.a) (reg th r.b) →
    ∃ u th', exec (e.1 r) s = .next u ∧
      OnlyThread { s with tower := { s.tower with nans := u.tower.nans } } u r.core.toNat r.thr.toNat th' ∧ ReadyAt th' (th.pc + 4) ∧
      WritesReg th th' r.d (BitVec.ofNat 64 v) ∧
      ((∃ g, e.2.2.1 = some g ∧ fpIsNan g v = true) → (getNode s r.core.toNat).suppress.nans = 0 →
        ∃ n, u.tower.nans = s.tower.nans ++ [n] ∧ n.hub = false ∧ n.src = r.core.toNat ∧ n.unit = 0) ∧
      ((∀ g, e.2.2.1 = some g → fpIsNan g v = false) ∨ (getNode s r.core.toNat).suppress.nans ≠ 0 → u.tower.nans = s.tower.nans)

/-- R130, R166, R225, R257, R324, Tables 06.2, 08.3, 09.4, 12.3, 13.1: an instruction of a queued unit enters its queue with the issuing thread, its address
and its operands, and the thread goes on (it waits for the result of AUNMARK and AUSED); with no room the thread is BLOCKED and nothing else changes. -/
def Obligations.QueuedInstructionsEnter : Prop :=
  (∀ (r : MxArgs) (s : State) (th : Thread) (c t : Nat), c = r.core.toNat → t = r.thr.toNat → CanIssue s c t th → r.low = 0 →
    Enters s c t th (.mmul r) .matrix (decide ((getCore s c).matq.length < if slotShares s c then 8 else 16))
      (onCore s c fun k => { k with matq := k.matq ++
        [{ thr := t, pc := th.pc, op := .mmul r.acc.toNat r.f3 (reg th r.g1).toNat (reg th r.g2).toNat (reg th r.g3).toNat }] }) ∧
    (r.g2 = 0 → r.f3 = false →
      Enters s c t th (.mdrain r) .matrix (decide ((getCore s c).matq.length < if slotShares s c then 8 else 16))
        (onCore s c fun k => { k with matq := k.matq ++ 
          [{ thr := t, pc := th.pc, op := .mdrain r.acc.toNat (reg th r.g1).toNat (reg th r.g3).toNat }] }))) ∧
  (∀ (r : EArgs) (s : State) (th : Thread) (c t : Nat), c = r.core.toNat → t = r.thr.toNat → CanIssue s c t th → r.c = false → r.rsv = 0 →
    Enters s c t th (.rrow r) .row (decide ((getCore s c).rowq.length < 4))
      (onCore s c fun k => { k with rowq := k.rowq ++ [{ thr := t, pc := th.pc, op := (reg th r.g).toNat }] }) ∧
    ∀ e ∈ ([(.camax, .camax), (.ccvt, .ccvt), (.cdec, .cdec)] : List ((EArgs → Instr) × ConvOp)),
      Enters s c t th (e.1 r) .conv (decide ((getCore s c).convq.length < 8))
        (onCore s c fun k => { k with convq := k.convq ++ [{ thr := t, pc := th.pc, op := (e.2, (reg th r.g).toNat) }] })) ∧
  (∀ (r : PArgs) (s : State) (th : Thread) (c t : Nat), c = r.core.toNat → t = r.thr.toNat → CanIssue s c t th → r.rsv = 0 →
    Enters s c t th (.psend r) .pack (decide ((getCore s c).packq.length < 8))
      (onCore s c fun k => { k with packq := k.packq ++ [{ thr := t, pc := th.pc, op := (reg th r.g).toNat }] })) ∧
  (∀ (r : SArgs) (s : State) (th : Thread) (c t : Nat), c = r.core.toNat → t = r.thr.toNat → CanIssue s c t th → r.rsv = 0 →
    ∀ room, room = decide ((stkOf s c).length < 8) → ∀ put : StkOp → State, (∀ op, put op = stkPut s c t th.pc op) →
    (r.g2 = 0 →
      Enters s c t th (.apush r) .stack room (put (.push (reg th r.g1).toNat)) ∧ Enters s c t th (.apop r) .stack room (put (.pop (reg th r.g1).toNat)) ∧
      Enters s c t th (.apeek r) .stack room (put (.peek (reg th r.g1).toNat)) ∧
      (room = true → ∃ u, exec (.aused r) s = .next u ∧ OnlyThread (put (.used r.g1.toNat)) u c t { th with st := .blocked (.result .stack) }) ∧
      (room = false → ∃ u, exec (.aused r) s = .next u ∧ OnlyThread s u c t { th with st := .blocked (.room .stack) })) ∧
    Enters s c t th (.amark r) .stack room (put (.mark ((reg th r.g1).setWidth 32).toNat (reg th r.g2).toNat)) ∧
    (room = true → ∃ u, exec (.aunmark r) s = .next u ∧
      OnlyThread (put (.unmark r.g1.toNat ((reg th r.g2).setWidth 32).toNat)) u c t { th with st := .blocked (.result .stack) }) ∧
    (room = false → ∃ u, exec (.aunmark r) s = .next u ∧ OnlyThread s u c t { th with st := .blocked (.room .stack) }))

/-- R130, R169, R170, R231, R264, Tables 06.2, 08.3, 09.4, 12.3, 13.1: a fence goes on where its thread has nothing left in the unit and else waits; MSTAT,
RSTAT and CSTAT read the unit's state word, and clear it where bit C is set. MFENCE and MSTAT enter the matrix queue, so they wait for room in it, and
MSTAT behind another instruction waits for its turn. -/
def Obligations.FencesAndStatus : Prop :=
  (∀ (i : Instr) (s : State) (th : Thread) (c t : Nat) (unit : UnitId) (left : Bool), CanIssue s c t th →
    ((∃ r : EArgs, i = .rfence r ∧ r.core.toNat = c ∧ r.thr.toNat = t ∧ r.g = 0 ∧ r.c = false ∧ r.rsv = 0 ∧
        unit = .row ∧ left = (getCore s c).rowq.any fun e => e.thr == t) ∨
     (∃ r : EArgs, i = .cfence r ∧ r.core.toNat = c ∧ r.thr.toNat = t ∧ r.g = 0 ∧ r.c = false ∧ r.rsv = 0 ∧
        unit = .conv ∧ left = (getCore s c).convq.any fun e => e.thr == t) ∨
     (∃ r : SArgs, i = .afence r ∧ r.core.toNat = c ∧ r.thr.toNat = t ∧ r.g1 = 0 ∧ r.g2 = 0 ∧ r.rsv = 0 ∧
        unit = .stack ∧ left = (stkOf s c).any fun e => e.2.thr == t) ∨
     (∃ r : PArgs, i = .pfence r ∧ r.core.toNat = c ∧ r.thr.toNat = t ∧ r.g = 0 ∧ r.rsv = 0 ∧
        unit = .pack ∧ left = (getCore s c).packq.any fun e => e.thr == t)) →
    (left = false → InCode s c (th.pc + 4) →
      ∃ u th', exec i s = .next u ∧ OnlyThread s u c t th' ∧ ReadyAt th' (th.pc + 4) ∧ SameRegs th th') ∧
    (left = true → ∃ u, exec i s = .next u ∧ OnlyThread s u c t { th with st := .blocked (.fence unit) })) ∧
  (∀ (r : MxArgs) (s v : State) (th : Thread) (c t room : Nat) (left : Bool), c = r.core.toNat → t = r.thr.toNat → CanIssue s c t th → r.acc = 0 →
    r.g1 = 0 → r.g2 = 0 → r.g3 = 0 → r.f3 = false → r.low = 0 → room = (if slotShares s c then 8 else 16) →
    v = (if (getCore s c).matq = [] then s
         else onCore s c fun k => { k with matq := k.matq ++ [{ thr := t, pc := th.pc, op := .mfence }] }) →
    left = ((getCore s c).matq.any fun e => e.thr == t && e.op != .mfence) →
    ((getCore s c).matq.length < room → left = false → InCode s c (th.pc + 4) →
      ∃ u th', exec (.mfence r) s = .next u ∧ OnlyThread v u c t th' ∧ ReadyAt th' (th.pc + 4) ∧ SameRegs th th') ∧
    ((getCore s c).matq.length < room → left = true →
      ∃ u, exec (.mfence r) s = .next u ∧ OnlyThread v u c t { th with st := .blocked (.fence .matrix) }) ∧
    (room ≤ (getCore s c).matq.length → ∃ u, exec (.mfence r) s = .next u ∧ OnlyThread s u c t { th with st := .blocked (.room .matrix) })) ∧
  (∀ (r : MxArgs) (s : State) (th : Thread) (c t room : Nat), c = r.core.toNat → t = r.thr.toNat → CanIssue s c t th → r.acc = 0 → r.g2 = 0 →
    r.g3 = 0 → r.low = 0 → room = (if slotShares s c then 8 else 16) →
    ((getCore s c).matq = [] → InCode s c (th.pc + 4) →
      ∃ u th', exec (.mstat r) s = .next u ∧ ReadyAt th' (th.pc + 4) ∧ WritesReg th th' r.g1 (BitVec.ofNat 64 (getCore s c).stat.mstat) ∧
        OnlyThread (if r.f3 then onCore s c fun k => { k with stat := { k.stat with mstat := 0 } } else s) u c t th') ∧
    ((getCore s c).matq ≠ [] → (getCore s c).matq.length < room →
      ∃ u, exec (.mstat r) s = .next u ∧
        OnlyThread (onCore s c fun k => { k with matq := k.matq ++ [{ thr := t, pc := th.pc, op := .mstat r.f3 r.g1.toNat }] }) u c t
          { th with st := .blocked (.result .matrix) }) ∧
    (room ≤ (getCore s c).matq.length → ∃ u, exec (.mstat r) s = .next u ∧ OnlyThread s u c t { th with st := .blocked (.room .matrix) })) ∧
  (∀ (r : EArgs) (s : State) (th : Thread) (c t : Nat), c = r.core.toNat → t = r.thr.toNat → CanIssue s c t th → r.rsv = 0 → InCode s c (th.pc + 4) →
    (∃ u th', exec (.rstat r) s = .next u ∧ ReadyAt th' (th.pc + 4) ∧ WritesReg th th' r.g (BitVec.ofNat 64 (getCore s c).stat.rstat) ∧
      OnlyThread (if r.c then onCore s c fun k => { k with stat := { k.stat with rstat := 0 } } else s) u c t th') ∧
    (∃ u th', exec (.cstat r) s = .next u ∧ ReadyAt th' (th.pc + 4) ∧ WritesReg th th' r.g (BitVec.ofNat 64 (getCore s c).stat.cstat) ∧
      OnlyThread (if r.c then onCore s c fun k => { k with stat := { k.stat with cstat := 0 } } else s) u c t th'))

/-! ### Pins, resets and bring-up -/

/-- R552, R553: the test access port takes its instruction where the rails it needs are in their windows and TRST_N is high, and else nothing changes;
TRST_N low puts IDCODE in force. SAMPLE/PRELOAD takes 225 levels, those of the lands whose level the state fixes among them, and the cells take 225 that
the tester shifts in; what a command does not bring is a free value (log entry 122). The cells stand in the order of their first lands, and while a test
instruction drives the lands each output has its cell's level. R547: the lands of a hub that the variant lacks connect to nothing. An I3C read returns the
register as last refreshed, and 0 beyond 0x0F, from 1 ms after VAUX and VIO are in their windows on. The model's choices: what each instruction selects is
taken from IEEE 1149.1 (log entry 123), and which rails a row needs is log entry 125. -/
def Obligations.TestPortAndSideband : Prop :=
  (∀ e ∈ jtagTable, ∀ s : State,
    ((∀ i ∈ e.2.1, s.bring.rails.testBit i = true) → s.pin.trstLow = false →
      exec e.1 s = .next { s with pin := { s.pin with jtag := e.2.2.1, dr := e.2.2.2 s } }) ∧
    ((∃ i ∈ e.2.1, s.bring.rails.testBit i = false) ∨ s.pin.trstLow = true → exec e.1 s = .next s)) ∧
  (∀ s : State,
    (s.bring.rails.testBit 0 = true → s.bring.rails.testBit 1 = true → s.pin.trstLow = false →
      ∃ v w, v < 2 ^ 225 ∧ w < 2 ^ 225 ∧ exec .samplePreload s =
        .next { s with draws := s.draws + 2, pin := { s.pin with jtag := .samplePreload, boundary := w, dr := v } } ∧
        ∀ c b, cellLevel { s with pin := { s.pin with jtag := .samplePreload } } c = some b → v.testBit (cellIndex c) = b) ∧
    (s.bring.rails.testBit 0 = false ∨ s.bring.rails.testBit 1 = false ∨ s.pin.trstLow = true → exec .samplePreload s = .next s) ∧
    exec .trstNLow s = .next { s with pin := { s.pin with trstLow := true, jtag := .idcode, dr := 0x25A4416F } }) ∧
  (∀ c d : PinCell, cellIndex c < 225 ∧ (cellIndex c = cellIndex d → c = d) ∧
    ((cellLand c).1 < (cellLand d).1 ∨ (cellLand c).1 = (cellLand d).1 ∧ (cellLand c).2 < (cellLand d).2 → cellIndex c < cellIndex d)) ∧
  (∀ (s : State) (c : PinCell), s.bring.rails.testBit 0 = true → s.bring.rails.testBit 1 = true →
    s.pin.jtag ∈ ([.extest, .extestPulse, .extestTrain, .clamp] : List JtagIns) → (∀ k j, c = .ethTx k j → k.val < hubCount s) →
    (pinRail (cellGroup c) = 5 → s.bring.rails.testBit 5 = true) → hasOutputCells (cellGroup c) = true →
    cellLevel s c = some (s.pin.boundary.testBit (cellIndex c))) ∧
  (∀ (s : State) (k : Nat), hubCount s ≤ k → ∀ g ∈ [PinGroup.ethTx k, .ethRx k, .vin k, .sense (7 + k)], pinState s g = .unconnected) ∧
  (∀ s : State, s.bring.rstLow = true ∨ s.therm.tripped = true ∨ s.bring.rails.testBit 0 = false ∨ s.bring.rails.testBit 1 = false ∨
      s.dev.state = 0 ∧ s.dev.stage < 2 →
    xspiDriven s = false) ∧
  (∀ (s : State) (reg : BitVec 8),
    (s.bring.rails.testBit 0 = true → s.bring.rails.testBit 1 = true → s.pin.auxSince + 3000000 ≤ s.now →
      ∃ v, exec (.i3cRead reg) s = .next { s with pin := { s.pin with i3c := v } } ∧
        (∀ b, s.pin.side[reg.toNat]? = some b → v = b.toNat) ∧ (s.pin.side.length = 16 → 15 < reg.toNat → v = 0)) ∧
    (s.bring.rails.testBit 0 = false ∨ s.bring.rails.testBit 1 = false ∨ s.now < s.pin.auxSince + 3000000 → exec (.i3cRead reg) s = .next s))

/-- R448, R512, R516, R550: what resets the part, and what then holds it or lets stage 1 pass at once; a trip ends 1 s after the last hot reading. R518,
R551: what a board programmer has written to the boot flash while RST_N was low, at which address, a header or an entry of a record in parts too. The
model's choices: how it comes in (log entry 150), and that the test port has IDCODE in force once it has its rails again (log entry 123). -/
def Obligations.ResetsAndTrips : Prop :=
  (∀ s : State,
    (s.therm.tripped = false → (∃ p ∈ s.therm.hotSince, p.2 + 300000 ≤ s.now) ∨ (∃ p ∈ s.therm.estHotSince, p.2 + 30000000 ≤ s.now) →
      ∃ u, exec .thermalTrip s = .next u ∧ ResetTo s u 2 ∧ SamePins s u ∧ u.therm.tripped = true ∧ u.therm.coldSince = none) ∧
    (s.therm.tripped = true ∨
        ((∀ p ∈ s.therm.hotSince, s.now < p.2 + 300000) ∧ ∀ p ∈ s.therm.estHotSince, s.now < p.2 + 30000000) →
      exec .thermalTrip s = .next s)) ∧
  (∀ (s : State) (t : Nat), s.therm.tripped = true → s.therm.coldSince = some t →
    (t + 3000000000 ≤ s.now → s.bring.rstLow = false → s.bring.flashOpen = false → (∀ i, i < 7 + hubCount s → s.bring.rails.testBit i = true) →
      ∃ r, ResetTo s r 2 ∧ SamePins s r ∧ r.therm.tripped = false ∧ exec .tripRelease s = .next (mpStarted r)) ∧
    (t + 3000000000 ≤ s.now → s.bring.rstLow = true ∨ s.bring.flashOpen = true ∨ (∃ i, i < 7 + hubCount s ∧ s.bring.rails.testBit i = false) →
      exec .tripRelease s = .next { s with therm := { s.therm with tripped := false } }) ∧
    (s.now < t + 3000000000 → exec .tripRelease s = .next s)) ∧
  (∀ (s : State) (rail : Nat),
    (rail < 7 + hubCount s → s.bring.rails.testBit rail = true →
      ∃ u, exec (.railFault rail) s = .next (if rail ≤ 1 then { u with pin := { u.pin with jtag := .idcode, dr := 0x25A4416F } } else u) ∧
        ResetTo s u 0 ∧ u.rel.alert = true ∧ u.therm.tripped = s.therm.tripped ∧ u.therm.coldSince = s.therm.coldSince ∧
        u.bring.rstLow = s.bring.rstLow ∧ u.bring.flashOpen = s.bring.flashOpen ∧ ∀ i, u.bring.rails.testBit i = (s.bring.rails.testBit i && decide (i ≠ rail))) ∧
    (7 + hubCount s ≤ rail ∨ s.bring.rails.testBit rail = false → exec (.railFault rail) s = .next s)) ∧
  (∀ s : State,
    (∃ u, exec .rstNFall s = .next u ∧ ResetTo s u 0 ∧ u.bring.rstLow = true ∧ u.bring.flashOpen = true ∧ u.rel.alert = false ∧ u.bring.rails = s.bring.rails ∧
      u.therm.tripped = s.therm.tripped) ∧
    (s.bring.rstLow = true →
      exec .rstNRise s = .next { s with bring := { s.bring with rstLow := false, resetCause := 0, stageAt := s.now } }) ∧
    (s.bring.rstLow = false → exec .rstNRise s = .next s) ∧
    (2 ≤ s.dev.stage → ∃ r, ResetTo s r 3 ∧ SamePins s r ∧ r.therm.tripped = s.therm.tripped ∧ exec .mpWatchdog s = .next (mpStarted r)) ∧
    (s.dev.stage < 2 → exec .mpWatchdog s = .next s)) ∧
  (∀ (f : Stage1Finding) (s : State), 1 ≤ s.dev.state ∨ 2 ≤ s.dev.stage → exec (.suppliesAndReset f) s = .next s) ∧
  (∀ (f : Stage1Finding) (s w v : State), s.dev.state = 0 → s.dev.stage ≤ 1 → w = (if s.bring.flashOpen then programFlash s f.flash else s) →
    v = { w with
      dev := { s.dev with stage := 1 }
      bring := { w.bring with rails := f.rails % 2 ^ 13 }
      pin := { s.pin with auxSince :=
        if (f.rails.testBit 0 && f.rails.testBit 1) && !(s.bring.rails.testBit 0 && s.bring.rails.testBit 1) then s.now else s.pin.auxSince } } →
    (s.bring.rstLow = true ∨ s.therm.tripped = true → exec (.suppliesAndReset f) s = .next v) ∧
    (s.bring.rstLow = false → s.therm.tripped = false → (∀ i, i < 7 + hubCount s → f.rails.testBit i = true) → EventRoom s →
      exec (.suppliesAndReset f) s = .next (mpStarted { v with bring := { v.bring with t0 := s.now, flashOpen := false, rawStage := [], rawRecord := [] } })) ∧
    (s.bring.rstLow = false → s.therm.tripped = false → (∃ i, i < 7 + hubCount s ∧ f.rails.testBit i = false) →
      exec (.suppliesAndReset f) s = .next { v with rel := { v.rel with alert := true } })) ∧
  (∀ (s : State) (a : Nat) (b : List Byte), programFlash s [] = s ∧
    (∀ w, w ≠ [] → programFlash s ((a, b) :: w) = programFlash (programFlash s [(a, b)]) w) ∧
    (∀ q ∈ flashMap, b ≠ [] → q.2.1 ≤ a → a + b.length ≤ q.2.1 + q.2.2 → ∃ v, v = programRegion s q.1 (a - q.2.1) b ∧
      programFlash s [(a, b)] = { v with fw := { v.fw with lastCheck := 0 } }) ∧
    ((∀ q ∈ flashMap, a + b.length ≤ q.2.1 ∨ q.2.1 + q.2.2 ≤ a) → programFlash s [(a, b)] = { s with fw := { s.fw with lastCheck := 0 } })) ∧
  (∀ (c b : List Byte) (o i : Nat),
    (bytesPut c o b).getD i 0xFF#8 = if o ≤ i ∧ i < o + b.length then b.getD (i - o) 0xFF#8 else c.getD i 0xFF#8) ∧
  (∀ (s : State) (o : Nat) (b h r p : List Byte), h = bytesPut (if s.bring.rawStage = [] then stageBytes s else s.bring.rawStage) o b →
    r = bytesPut (if s.bring.rawRecord = [] then s.rel.ffr.flatten else s.bring.rawRecord) o b → p = r ++ List.replicate 15 0xFF#8 →
    programRegion s .selectorA o b = { s with fw := { s.fw with selA := (bytesPut s.fw.selA o b).take 16 } } ∧
    programRegion s .selectorB o b = { s with fw := { s.fw with selB := (bytesPut s.fw.selB o b).take 16 } } ∧
    programRegion s .bootRecord o b = { s with fw := { s.fw with bootRec := (bytesPut s.fw.bootRec o b).take 64 } } ∧
    programRegion s .bank0 o b = { s with fw := { s.fw with bank0 := bytesPut s.fw.bank0 o b } } ∧
    programRegion s .bank1 o b = { s with fw := { s.fw with bank1 := bytesPut s.fw.bank1 o b } } ∧
    (crc32c (h.take 5) = getLe h 8 4 → ∃ bits, programRegion s .stagingHeader o b =
      { s with fw := { s.fw with total := getLe h 0 4, armed := decide (getB h 4 = 1), bitmap := bits }, bring := { s.bring with rawStage := h } } ∧
      ∀ i, i ∈ bits ↔ i < 10240 ∧ (getB h (64 + i / 8)).testBit (i % 8) = true) ∧
    (crc32c (h.take 5) ≠ getLe h 8 4 → programRegion s .stagingHeader o b =
      { s with fw := { s.fw with total := 0, armed := false, bitmap := [] }, bring := { s.bring with rawStage := h } }) ∧
    ∃ es, programRegion s .fieldRecord o b = { s with rel := { s.rel with ffr := es }, bring := { s.bring with rawRecord := r } } ∧ es.length ≤ 1024 ∧
      (∀ i e, es[i]? = some e → 16 * i < r.length ∧ e = (p.drop (16 * i)).take 16 ∧ ∃ x ∈ e, x ≠ 0xFF#8) ∧
      (es.length < 1024 → 16 * es.length < r.length → ∀ x ∈ (p.drop (16 * es.length)).take 16, x = 0xFF#8))

/-- R446, R447, R451 to R457, R529, R530, R532: stages 2 to 6. A stage that does not run changes nothing; one that runs forms its report and passes, or
halts, as its table says. Stage 2 chooses the image, copies an armed one that passes into the inactive bank, and waits while the temperature window is
not open for a write of the flash; the processors take their sections of the image. Stage 6 first waits until the inlet reads 20 to 40 °C. What a stage
finds comes with its command (log entry 19), what the copies' bytes are among it (66). The model's choices: an armed image is checked though neither bank
passes (13), the words of a HALT's report (80), when the cores that stage 3 found are fenced (83), and that a copy takes a command of its own (176). -/
def Obligations.BringUpStages2To6 : Prop :=
  (∀ (f : Stage2Finding) (s : State) (b : Nat), b = activeBank s →
    (¬ StageRuns s 2 → exec (.clockAndMpBoot f) s = .next s) ∧
    (StageRuns s 2 → EventRoom s → f.clockLocks = false →
      exec (.clockAndMpBoot f) s = .next (stageHalted s 2 1 [b, 0, s.fw.lastCheck, s.dev.fuses.rollback])) ∧
    (StageRuns s 2 → EventRoom s → f.clockLocks = true →
      (bootStep s f = .waits → exec (.clockAndMpBoot f) s = .next s) ∧
      (∀ v, bootStep s f = .copies v → exec (.clockAndMpBoot f) s = .next v) ∧
      ∀ v ok, bootStep s f = .chosen v ok → ∃ w words, v = { s with fw := v.fw } ∧
        w = { v with dev := { v.dev with fwVersion := if ok then imgVersion v.fw.image else 0 }, fw := { v.fw with loaded := w.fw.loaded } } ∧
        (ok = true → (Proc.mp, sectOf v 1) ∈ w.fw.loaded ∧ (Proc.bxlSerdes, sectOf v 5) ∈ w.fw.loaded) ∧
        words = [v.fw.bank, w.dev.fwVersion, v.fw.lastCheck, s.dev.fuses.rollback] ∧
        exec (.clockAndMpBoot f) s = .next (if ok then stagePassed w 2 v.fw.fellBack words else stageHalted w 2 2 words))) ∧
  (∀ (f : Stage2Finding) (s : State) (b : Nat), b = activeBank s → s.fw.copyBusy = false → s.fw.armed = false →
    (imgCheck s (bankImage s b) = 0 →
      bootStep s f = .chosen { s with fw := { s.fw with bank := b, image := bankImage s b, fellBack := false } } true) ∧
    (imgCheck s (bankImage s b) ≠ 0 → imgCheck s (bankImage s (1 - b)) = 0 → s.therm.window = some true →
      ∃ v, bootStep s f = .chosen v true ∧
        v = { s with fw := { s.fw with bank := 1 - b, image := bankImage s (1 - b), selA := v.fw.selA, selB := v.fw.selB, fellBack := true } }) ∧
    (imgCheck s (bankImage s b) ≠ 0 → imgCheck s (bankImage s (1 - b)) = 0 → s.therm.window ≠ some true → bootStep s f = .waits) ∧
    (imgCheck s (bankImage s b) ≠ 0 → imgCheck s (bankImage s (1 - b)) ≠ 0 →
      bootStep s f = .chosen { s with fw := { s.fw with bank := b, image := bankImage s b, fellBack := false } } false)) ∧
  (∀ (f : Stage2Finding) (s : State) (b r : Nat) (img : List Byte) (fw : FwSt), b = activeBank s → s.fw.copyBusy = false → s.fw.armed = true →
    imgCheck s (bankImage s b) = 0 → img = stagedImage s → r = imgCheck s img →
    fw = { s.fw with bank := b, image := bankImage s b, fellBack := false, lastCheck := r } →
    (r ≠ 0 ∨ sha512 (img.take 4096) = sha512 ((bankImage s b).take 4096) → bootStep s f = .chosen { s with fw := { fw with armed := false } } true) ∧
    (r = 0 → sha512 (img.take 4096) ≠ sha512 ((bankImage s b).take 4096) →
      (s.therm.window = some true → bootStep s f = .copies { s with fw := { fw with copyBusy := true } }) ∧
      (s.therm.window ≠ some true → bootStep s f = .waits))) ∧
  (∀ (f : Stage2Finding) (s : State) (i : Nat) (img c1 c2 : List Byte), s.fw.copyBusy = true → i = 1 - activeBank s → img = stagedImage s →
    c1 = copyHeld img f.copy1 → c2 = copyHeld img f.copy2 →
    (s.therm.window ≠ some true → bootStep s f = .waits) ∧
    (s.therm.window = some true → sha512 c1 ≠ sha512 img → sha512 c2 ≠ sha512 img → ∃ v, v = setBank s i c2 ∧
      bootStep s f = .chosen { v with fw := { v.fw with armed := false, copyBusy := false, lastCheck := 0x0602 } } (imgCheck s s.fw.image == 0)) ∧
    (s.therm.window = some true → sha512 c1 = sha512 img ∨ sha512 c2 = sha512 img → ∃ v ok, bootStep s f = .chosen v ok ∧ v = { s with fw := v.fw } ∧
      v.fw.armed = false ∧ v.fw.copyBusy = false ∧
      (if i = 0 then v.fw.bank0 else v.fw.bank1) = (if sha512 c1 = sha512 img then c1 else c2))) ∧
  (∀ (f : Stage3Finding) (s v : State) (bad : List (Nat × Nat)) (refs : List BundleRef) (lanes : BundleRef → List Nat) (words : List Nat),
    bad = f.fenced.filter (fun p => decide (p.1 < 264 ∧ p.2 < 9)) → refs = (f.failed.map (·.1)).eraseDups →
    (∀ b, lanes b = ((f.failed.filter fun x => x.1 == b && decide (x.2 < 132)).map (·.2)).eraseDups) →
    words = [(refs.map fun b => min 4 (lanes b).length).sum, (refs.filter fun b => decide (4 < (lanes b).length)).length, f.oneBond.length, bad.length] →
    v = { s with rel := { s.rel with bundles := refs.map fun b => { ref := b, failed := lanes b, half := decide (4 < (lanes b).length) }
                                     bonds := f.oneBond.map fun t => (t, 1) },
                 bring := { s.bring with clockBad := bad } } →
    (¬ StageRuns s 3 → exec (.bondSelfTest f) s = .next s) ∧
    (StageRuns s 3 → EventRoom s → exec (.bondSelfTest f) s = .next (if f.halt then stageHalted v 3 1 words
      else stagePassed v 3 (decide (refs ≠ [] ∨ f.oneBond ≠ [] ∨ bad ≠ [])) words))) ∧
  (∀ (f : Stage4Finding) (s : State) (top : Nat) (words : List Nat), top = max (max (f.rows.getD 0 0) (f.rows.getD 1 0)) (max (f.rows.getD 2 0) (f.rows.getD 3 0)) →
    words = [min 4096 (f.rows.getD 0 0), min 4096 (f.rows.getD 1 0), min 4096 (f.rows.getD 2 0), min 4096 (f.rows.getD 3 0), 4096 - top] →
    (¬ StageRuns s 4 → exec (.nearMemoryTest f) s = .next s) ∧
    (StageRuns s 4 → EventRoom s → exec (.nearMemoryTest f) s = .next (if 4096 < top then stageHalted s 4 1 words
      else stagePassed s 4 (decide (top ≠ 0)) words))) ∧
  (∀ (f : Stage5Finding) (s : State),
    (¬ StageRuns s 5 → exec (.hubBringup f) s = .next s) ∧
    (StageRuns s 5 → EventRoom s → ∃ v found words, exec (.hubBringup f) s = .next (beginWaves (stagePassed v 5 found words)) ∧
      v = { s with dev := { s.dev with hubsPresent := v.dev.hubsPresent, sramBad := v.dev.sramBad, pinRate := v.dev.pinRate },
                   mem := { s.mem with lost := v.mem.lost, cut := v.mem.cut }, rel := { s.rel with modules := v.rel.modules, credits := v.rel.modules.map fun m => (m, 0, 0) },
                   bring := { s.bring with stackRepair := f.lanes }, fw := { s.fw with loaded := v.fw.loaded } } ∧
      (Proc.hubMcu, sectOf s 3) ∈ v.fw.loaded ∧ (Proc.groom, sectOf s 4) ∈ v.fw.loaded ∧ (Proc.ethSerdes, sectOf s 5) ∈ v.fw.loaded ∧
      (∀ k, k ∈ v.dev.hubsPresent ↔ k < hubCount s ∧ f.hubs.testBit k = true) ∧
      (∀ k, k ∈ v.dev.sramBad ↔ k ∈ v.dev.hubsPresent ∧ f.sramBad.testBit k = true) ∧
      (v.dev.pinRate = requestedRate s ∨ 80 ≤ v.dev.pinRate ∧ v.dev.pinRate < requestedRate s) ∧
      (∀ i, i ∈ v.mem.lost ↔ i < hubCount s * stacksPerHub s ∧ i / stacksPerHub s ∈ v.dev.hubsPresent ∧
        ∃ p ∈ f.fails, p.1 = v.dev.pinRate ∧ i ∈ p.2) ∧
      (v.mem.lost ≠ [] → v.dev.pinRate = 80) ∧
      (∀ p, p ∈ v.rel.modules ↔ p ∈ f.modules ∧ p.1 ∈ v.dev.hubsPresent ∧ p.2 < 192 / hubCount s))) ∧
  (∀ s : State, ¬ (∃ t, smGet? s.therm.temp 392 = some t ∧ 320 ≤ t ∧ t ≤ 640) →
    beginWaves s = { s with bring := { s.bring with coolantWait := true } }) ∧
  (∀ (s : State) (t : Int), s.bring.fenced = [] → smGet? s.therm.temp 392 = some t → 320 ≤ t → t ≤ 640 → ∃ u, beginWaves s = u ∧
    u = { s with bring := { s.bring with coolantWait := false, stageAt := s.now, waveAt := s.now, fenced := u.bring.fenced, cause := u.bring.cause } } ∧
    ∀ x c, x < 264 → c < 9 → isFenced u x c = decide ((x, c) ∈ ffrCores s ∨ (x, c) ∈ s.bring.clockBad)) ∧
  (∀ (c : Instr) (s : State), (∃ n, c = .computeWaveRelease n) ∨ (∃ f, c = .computePowerup f) →
    (¬ StageRuns s 6 → exec c s = .next s) ∧
    (StageRuns s 6 → s.bring.coolantWait = true → exec c s = if inletOk s then exec c (beginWaves s) else .next (beginWaves s))) ∧
  (∀ (s : State) (i : Nat), StageRuns s 6 → s.bring.coolantWait = false →
    (i = s.bring.released → i < 2376 → s.bring.waveAt + 3000 * (240 * (i / 594) + 20 * (i % 594 / 54) + i % 54 / 6) ≤ s.now →
      exec (.computeWaveRelease i) s = .next { s with bring := { s.bring with
        released := i + 1
        powered := s.bring.powered + if isFenced s (66 * (i / 594) + 6 * (i % 594 / 54) + i % 6) (i % 54 / 6) then 0 else 1
        rowsOn := if i % 54 / 6 = 0 then s.bring.rowsOn ++ [66 * (i / 594) + 6 * (i % 594 / 54) + i % 6] else s.bring.rowsOn } }) ∧
    (i ≠ s.bring.released ∨ 2376 ≤ i ∨ s.now < s.bring.waveAt + 3000 * (240 * (i / 594) + 20 * (i % 594 / 54) + i % 54 / 6) →
      exec (.computeWaveRelease i) s = .next s)) ∧
  (∀ (f : Stage6Finding) (s : State) (known : Nat), StageRuns s 6 → s.bring.coolantWait = false → EventRoom s →
    known = fencedCount (fenceCores { s with bring := { s.bring with fenced := [] } } 0 (ffrCores s)) →
    (s.bring.released < 2376 → f.vinLow = false → exec (.computePowerup f) s = .next s) ∧
    (f.vinLow = true →
      exec (.computePowerup f) s = .next (stageHalted s 6 1 [0, known, f.peak, (s.now - s.bring.waveAt) / 3000, 0])) ∧
    (2376 ≤ s.bring.released → f.vinLow = false → ∃ v w, v = fenceCores s 2 f.fenced ∧
      w = { v with bring := { v.bring with rowBad := f.rowBad.filter fun x => decide (x < 264) } } ∧
      exec (.computePowerup f) s = .next (stagePassed w 6 (decide (0 < fencedCount v ∨ w.bring.rowBad ≠ []))
        [fencedCount v - fencedCount s, known, f.peak, 928, w.bring.rowBad.length])))

/-- R458 to R467: stage 7's broadcast and repair rounds, stage 8's agreement, and what accepting or abandoning a topology does. An accepted topology starts
with T(-1) the draw metered over the last millisecond (what the meter reads is a free value, log entry 68); the topology report is stored at the end of
stage 8 (log entry 67); an abandoned part is powered down core by core, the times of the waves mirrored (log entry 181). These are the model's choices. -/
def Obligations.BringUpStages7And8 : Prop :=
  (∀ (f : Stage7Finding) (s : State),
    (¬ StageRuns s 7 ∨ s.bring.round ≠ 0 → exec (.firmwareBroadcast f) s = .next s) ∧
    (¬ StageRuns s 7 ∨ s.bring.round = 0 → exec (.repairRound f) s = .next s)) ∧
  (∀ (f : Stage7Finding) (s v : State) (all : List Nat) (cs : List FwCopy) (short : List (Nat × Nat)), StageRuns s 7 → s.bring.round = 0 → EventRoom s →
    all = List.range (((coreSect s).length + 4095) / 4096) → cs = (namedCores s f).map (fun p => sendPackets f ⟨p, all, []⟩ all) →
    short = (cs.filter fun c => !copyComplete s c || f.late.contains c.core).map (·.core) →
    v = { s with bring := { s.bring with copies := cs, short := short, shortWords := [(coreSect s).length, short.length], round := 1 } } →
    (short ≠ [] → exec (.firmwareBroadcast f) s = .next v) ∧
    (short = [] → ∃ u l, exec (.firmwareBroadcast f) s = .next { u with bring := { u.bring with copies := [] } } ∧ (Proc.cores, coreSect s) ∈ l ∧
      u = stagePassed { v with fw := { s.fw with loaded := l } } 7 false [(coreSect s).length, 0, 0, 0, 0, 0])) ∧
  (∀ (f : Stage7Finding) (s v : State) (cs : List FwCopy) (rest : List (Nat × Nat)) (words : List Nat), StageRuns s 7 → s.bring.round ≠ 0 → EventRoom s →
    cs = (s.bring.copies.filter fun c => decide (c.core ∈ s.bring.short)).map (fun c => sendPackets f c (packetsOwed s c)) →
    rest = (cs.filter fun c => !copyComplete s c || f.late.contains c.core).map (·.core) →
    words = s.bring.shortWords ++ [s.bring.short.length - rest.length] →
    v = { s with bring := { s.bring with copies := cs, short := rest, shortWords := words, round := s.bring.round + 1 } } →
    (rest ≠ [] → s.bring.round < 3 → exec (.repairRound f) s = .next v) ∧
    (rest = [] ∨ 3 ≤ s.bring.round → ∃ u w, w = fenceCores v 3 rest ∧ exec (.repairRound f) s = .next u ∧
      u.dev = { s.dev with stage := 8 } ∧ u.bring = { w.bring with short := [], copies := [], stageAt := s.now, reports := u.bring.reports } ∧
      u = { s with dev := u.dev, bring := u.bring, mp := u.mp, fw := { s.fw with loaded := u.fw.loaded } } ∧ (Proc.cores, coreSect s) ∈ u.fw.loaded ∧
      u.mp = (stageOver w 7 (if 0 < words.getD 1 0 then 1 else 0) 0 ((words ++ [0, 0, 0]).take 5 ++ [rest.length])).mp)) ∧
  (∀ (f : Stage7Finding) (c : FwCopy) (ns : List Nat),
    (∀ n, n ∈ (sendPackets f c ns).missing ↔ (n ∈ c.missing ∧ n ∉ ns) ∨ (n ∈ ns ∧ ∃ x ∈ f.undelivered, x.1 = c.core ∧ n ∈ x.2)) ∧
    (sendPackets f c ns).core = c.core) ∧
  (∀ (f : Stage8Finding) (s v : State) (mm : Nat) (bytes : List Byte), StageRuns s 8 → EventRoom s → mm = mismatchMask (mapTeams s) →
    bytes = topoBytes (mapTeams s) false → v = { s with rel := v.rel, fw := v.fw, bring := v.bring } →
    v.rel = (mapTeams s).rel → v.fw = { s.fw with measTopo := sha512 bytes } →
    v.bring = { (mapTeams s).bring with mismatch := mm, topo := some bytes } →
    (mm ≠ 0 → exec (.topologyAgreement f) s = .next (stageOver { v with dev := { s.dev with state := 1 }, bring := { v.bring with meterW := f.drawW } } 8 3 mm
      (stage8Words v))) ∧
    (mm = 0 → ∃ u w repaired, exec (.topologyAgreement f) s = .next (portsStart u) ∧ w = stageOver v 8 repaired 0 (stage8Words v) ∧ repaired < 2 ∧
      u = { w with dev := { s.dev with state := 2, stage := 8 }, tick := { readyAt := s.now, targetU := 30000000 * f.drawW },
                   mp := { w.mp with inWindow := true },
                   fw := { v.fw with fusePending := decide (s.dev.fuses.rollback < imgSec s.fw.image) } })) ∧
  (∀ (f : Stage8Finding) (s : State), ¬ StageRuns s 8 → exec (.topologyAgreement f) s = .next s) ∧
  (∀ (p : Pkt) (s : State), TakesPackets s → Passes s 0x0803 p → s.dev.state = 1 → ∃ u x, exec (.topoAccept p) s = .next u ∧
    u = { s with dev := { s.dev with state := 2, stage := 8 }, tick := u.tick, mp := u.mp, eth := { s.eth with ports := u.eth.ports, ptp := u.eth.ptp },
                 fw := { s.fw with fusePending := decide (s.dev.fuses.rollback < imgSec s.fw.image) },
                 bring := { s.bring with acceptSid := some s.mp.nextSid, reports := u.bring.reports } } ∧
    u.tick = { readyAt := s.now, targetU := 30000000 * s.bring.meterW } ∧ u.mp.inWindow = true ∧
    findSlot u s.mp.nextSid = some x ∧ x.work = .accept ∧ x.opcode = 0x0803 ∧ x.acked = true ∧
    (replyTo s p none 0x0001 0 [] ∈ u.mp.replyQ ∨ replyTo s p none 0x0001 0 [] ∈ u.mp.mgmtQ)) ∧
  (∀ (p : Pkt) (s : State), TakesPackets s → Passes s 0x0804 p → s.dev.state = 1 →
    exec (.topoAbandon p) s = .next { s with mp := longWorks s 0x0804 p .abandon, dev := { s.dev with state := 3 },
                                              bring := { s.bring with downAt := s.now } }) ∧
  (∀ (p : Pkt) (s : State), TakesPackets s → Accepted s 0x0804 p → pktRefusal s 0x0804 p = none → s.dev.state = 1 → p.flags.getLsbD 2 = true →
    (∃ x ∈ s.mp.slots, x.mgmt = (p.chan == .management) ∧ x.work ≠ .done) →
    exec (.topoAbandon p) s = .next { s with mp := longWorks s 0x0804 p (.held p 0x0804), dev := { s.dev with state := 3 } }) ∧
  (∀ s : State, (s.dev.state ≠ 3 ∨ (∀ x ∈ s.mp.slots, x.work ≠ .abandon) → exec .computePowerDownDone s = .next s) ∧
    (s.dev.state = 3 → (∃ x ∈ s.mp.slots, x.work = .abandon) → ∀ v, v = powerDown s →
      v = { s with bring := { s.bring with released := v.bring.released, powered := v.bring.powered, rowsOn := v.bring.rowsOn } } ∧
      (∀ i, i < v.bring.released ↔ i < s.bring.released ∧
        s.now < s.bring.downAt + 3000 * (928 - (240 * (i / 594) + 20 * (i % 594 / 54) + i % 54 / 6))) ∧
      (v.bring.released ≠ 0 → exec .computePowerDownDone s = .next v) ∧
      ∀ x, v.bring.released = 0 → s.mp.slots.filter (fun x => x.work == .abandon) = [x] → findSlot s x.sid = some x →
        exec .computePowerDownDone s = .next (endedWith v x 0 0 [])))

/-! ### The thermal controller and the boot flash -/

/-- R496, R497, R500 to R502, R510: what a sample, the model's estimates, a suspect and the flow estimate leave. Only the thermal controller, the
events and the tick's grants change. A tripped part follows its readings alone. The estimate of a location is a function of the inlet and the flow (40 °C
and 2.5 L/min while a coolant sensor is suspect, 2.5 L/min before the first flow estimate), of its region's power, and of what its neighbours feed, a
suspect one nothing; the flow is that of the heat balance, in which 6 L/min and 3,400 W warm the coolant by what R495 says. The model's choices (log
180): that function and the fluids' figure within its rounding are free values, a waived neighbour feeds its own estimate, and the clamped flow is held
against the requirement. -/
def Obligations.ThermalReadings : Prop :=
  (∀ (readings : List W16) (f : SampleFinding) (s : State), TablesForm s → ∃ u, exec (.sensorSample readings f) s = .next u ∧
    u = { s with therm := u.therm, mp := u.mp, tick := u.tick, watch := u.watch, tower := { s.tower with teams := u.tower.teams } } ∧
    u.therm.est = s.therm.est ∧
    (∀ i w, i < 394 → sensorAbsent s i = false → readings[i]? = some w → i ∉ f.silent → smGet? u.therm.temp i = some w.toInt) ∧
    (∀ i, 394 ≤ i ∨ sensorAbsent s i = true ∨ readings.length ≤ i ∨ i ∈ f.silent → smGet? u.therm.temp i = smGet? s.therm.temp i) ∧
    (s.therm.tripped = true → u.mp = s.mp ∧ u.tick = s.tick ∧ u.watch = s.watch ∧ u.tower = s.tower ∧ u.therm.suspect = s.therm.suspect ∧ u.therm.tripped = true) ∧
    (s.therm.tripped = false → (∀ i ∈ s.therm.suspect, i ∈ u.therm.suspect) ∧
      ∀ i w, i < 394 → isHealthy s i = true → readings[i]? = some w → i ∉ f.silent → w.toInt < 0 ∨ 2400 < w.toInt → i ∈ u.therm.suspect)) ∧
  (∀ (powers : List W16) (s : State) (inlet : Int) (flow : Nat),
    inlet = (if 392 ∈ s.therm.suspect ∨ 393 ∈ s.therm.suspect then 640 else smGet 0 s.therm.temp 392) →
    flow = (if 392 ∈ s.therm.suspect ∨ 393 ∈ s.therm.suspect ∨ s.therm.flow = 0 then 250 else s.therm.flow) →
    (s.therm.tripped = true → exec (.thermalModel powers) s = .next s) ∧
    (s.therm.tripped = false → TablesForm s → ∃ u, exec (.thermalModel powers) s = .next u ∧
      u = { s with therm := u.therm, mp := u.mp, tick := u.tick, watch := u.watch } ∧ u.therm.temp = s.therm.temp ∧
      u.therm.suspect = s.therm.suspect ∧ u.therm.waived = s.therm.waived ∧
      (∀ i r, regionOfSensor i = some r → sensorAbsent s i = false → smGet? u.therm.est i = some
        (sgn 16 (wrapN 16 (Config.tempEstimate i inlet flow (powers.getD r 0).toNat (neighbourFeeds s i))))) ∧
      (∀ i, regionOfSensor i = none ∨ sensorAbsent s i = true → smGet? u.therm.est i = smGet? s.therm.est i))) ∧
  (∀ (s : State) (i j : Nat) (t : Int), (j, t) ∈ neighbourFeeds s i ↔ j < 392 ∧ isNeighbour s i j = true ∧ j ∉ s.therm.suspect ∧
    t = if j ∈ s.therm.waived then smGet 0 s.therm.est j else smGet 0 s.therm.temp j) ∧
  (∀ (i : Nat) (cause : SuspectCause) (s : State), TablesForm s →
    (i < 392 → isHealthy s i = true → suspectDue s i cause = true → s.therm.tripped = false → ∃ u, exec (.sensorSuspect i cause) s = .next u ∧
      u = { s with therm := u.therm, mp := u.mp, tick := u.tick, watch := u.watch, tower := { s.tower with teams := u.tower.teams } } ∧
      i ∈ u.therm.suspect ∧
      (∀ j ∈ s.therm.suspect, j ∈ u.therm.suspect) ∧ (∀ r, regionOfSensor i = some r → (getRegion u r).step = 4) ∧
      u.therm.temp = s.therm.temp ∧ u.therm.est = s.therm.est) ∧
    (392 ≤ i ∨ isHealthy s i = false ∨ suspectDue s i cause = false ∨ s.therm.tripped = true → exec (.sensorSuspect i cause) s = .next s)) ∧
  (∀ (f : FlowFinding) (s : State), (f.drawW < 600 → exec (.flowEstimate f) s = .next s) ∧
    (600 ≤ f.drawW → ∃ u v short, exec (.flowEstimate f) s = .next u ∧ u = { s with therm := u.therm, mp := u.mp } ∧
      v = flowOf s f.drawW ∧ 250 ≤ v ∧ v ≤ 2000 ∧ short = decide (v < 250 ∨ v * 3400 < 600 * cfgEnvelope s) ∧ u.therm.flow = v ∧
      u.therm.flowLow = (s.therm.flowLow && short) ∧ (short = false → u.therm.lowSince = none) ∧
      (short = true → u.therm.lowSince = some (s.therm.lowSince.getD s.now)))) ∧
  (∃ k : Nat → Nat, (∀ g, if g = 1 then 8450 ≤ k g ∧ k g < 8550 else 8050 ≤ k g ∧ k g < 8150) ∧
    ∀ (s : State) (w rise : Nat), smGet 0 s.therm.temp 393 - smGet 0 s.therm.temp 392 = rise → 0 < rise →
      flowOf s w = max 250 (min 2000 (9600 * w * k (cfgCoolant s) / (3400000 * rise)))) ∧
  (∀ s : State, TablesForm s →
    (∀ t, s.therm.lowSince = some t → t + 3000000000 ≤ s.now → ∃ u, exec .flowLow s = .next u ∧ u = { s with therm := u.therm, mp := u.mp } ∧
      u.therm.flowLow = true ∧ ∀ r, 1 ≤ r → r ≤ 4 → (getRegion u r).rein = true) ∧
    ((∀ t, s.therm.lowSince = some t → s.now < t + 3000000000) → exec .flowLow s = .next s))

/-- R506, R508, R511: a throttle step deepens once per millisecond while its region is hot and is released once per 10 ms while it is cool; the end of a
grace interval changes the curb that is due. -/
def Obligations.ThermalActions : Prop :=
  (∀ (r : Nat) (s : State) (x : RegionSt) (due hot : Prop), TablesForm s → x = getRegion s r → due = (∀ t, x.deepenAt = some t → t + 3000000 ≤ s.now) →
    hot = (16 * throttleTemp r ≤ regionTemp s r ∨ r ≤ 8 ∧ pairHot s r = true) →
    (regionSensors s r ≠ [] → s.therm.tripped = false → x.step < 4 → due → hot → ∃ u, exec (.throttleDeepen r) s = .next u ∧
      u = { s with therm := { s.therm with regions := u.therm.regions, pullCnt := u.therm.pullCnt }, tick := u.tick, watch := u.watch,
                   tower := { s.tower with teams := u.tower.teams } } ∧
      (∀ t, t < 256 → t / 64 + 1 = r → (getTeam u t).ballast = false) ∧ (∀ t, (getTeam u t).ballast = true → (getTeam s t).ballast = true) ∧
      getRegion u r = { x with step := x.step + 1, deepenAt := some s.now, pairing := if r ≤ 8 then hotPairs s r else x.pairing } ∧
      ∀ n, n ≠ r → getRegion u n = getRegion s n ∨
        (n ∈ adjacentRegions r ∧ stepDivider (getRegion s n).step * 2 < stepDivider (x.step + 1) ∧ getRegion u n = { getRegion s n with step := 3 })) ∧
    (regionSensors s r = [] ∨ s.therm.tripped = true ∨ 4 ≤ x.step ∨ ¬ due ∨ ¬ hot → exec (.throttleDeepen r) s = .next s)) ∧
  (∀ (r : Nat) (s : State) (x : RegionSt) (t : Nat), TablesForm s → x = getRegion s r → x.coolSince = some t →
    (x.step ≠ 0 → t + 30000000 ≤ s.now → regionSuspect s r = false → ¬ (r ≤ 8 ∧ pairHolds s r = true) → ∃ u, exec (.throttleRelease r) s = .next u ∧
      u = { s with therm := { s.therm with regions := u.therm.regions }, tick := u.tick, watch := u.watch } ∧
      getRegion u r = { x with step := x.step - 1, coolSince := some s.now } ∧ ∀ n, n ≠ r → getRegion u n = getRegion s n) ∧
    (x.step = 0 ∨ s.now < t + 30000000 ∨ regionSuspect s r = true ∨ (r ≤ 8 ∧ pairHolds s r = true) → exec (.throttleRelease r) s = .next s)) ∧
  (∀ (r : Nat) (s : State), (getRegion s r).coolSince = none → exec (.throttleRelease r) s = .next s) ∧
  (∀ (r : Nat) (s : State) (x : RegionSt), TablesForm s → x = getRegion s r →
    (r < 1 ∨ 4 < r ∨ x.rein = false ∨ s.now < x.graceEnd → exec (.graceEnd r) s = .next s) ∧
    (1 ≤ r → r ≤ 4 → x.rein = true → x.graceEnd ≤ s.now → ∃ u y, exec (.graceEnd r) s = .next u ∧ y = getRegion u r ∧
      u = { s with therm := { s.therm with regions := u.therm.regions, curbCnt := u.therm.curbCnt }, mp := u.mp } ∧
      (∀ n, n ≠ r → getRegion u n = getRegion s n) ∧ y.step = x.step ∧ y.curb = x.curb ∧
      (reinCond s r ≠ none → y = { x with curbDue := min 4 (x.curbDue + 1), imposed := true, graceMs := cfgGraceMs s, graceEnd := s.now + 3000000 * cfgGraceMs s }) ∧
      (reinCond s r = none → 1360 < regionTemp s r → y = { x with graceMs := cfgGraceMs s, graceEnd := s.now + 3000000 * cfgGraceMs s }) ∧
      (reinCond s r = none → regionTemp s r ≤ 1360 → x.imposed = false ∨ x.curbDue = 0 → y = { x with rein := false, imposed := false }) ∧
      (reinCond s r = none → regionTemp s r ≤ 1360 → x.imposed = true → x.curbDue = 1 → y = { x with curbDue := 0, rein := false, imposed := false }) ∧
      (reinCond s r = none → regionTemp s r ≤ 1360 → x.imposed = true → 1 < x.curbDue →
        y = { x with curbDue := x.curbDue - 1, graceMs := cfgGraceMs s, graceEnd := s.now + 3000000 * cfgGraceMs s })))

/-- R71, R442, R481, R513, R524, R525, R527, R528, R531, R533: writes of the boot flash and the fuses: done in an open window, announced once in a closed
one, and what the reopening of the window after 1 s, the cap of R525 and a scan of the receive ring do with the chunks that wait in arrival order. The
model's choices: a window that is not yet known lets no write through and announces none (log 177), a read-back that differs is a free value (log 178), the
wait of a chunk and the order of a slot's checks (logs 61, 62). -/
def Obligations.FlashWritesWait : Prop :=
  (∀ (s v : State) (k : Nat) (c : Instr), v = { s with fw := { s.fw with waiting := s.fw.waiting + 2 ^ k } } → EventRoom s → s.therm.window ≠ some true →
    (k = 1 ∧ c = .rollbackFuseProgram ∧ s.fw.fusePending = true ∧ s.dev.state = 2 ∨ k = 2 ∧ c = .ffrWrite ∧ s.rel.ffrPending ≠ []) →
    (s.therm.window = none ∨ s.fw.waiting.testBit k = true → exec c s = .next s) ∧
    (s.therm.window = some false → s.fw.waiting.testBit k = false → exec c s = .next (withEvent v 0x0601 0x000F
      (leBytes 1 v.fw.waiting ++ leBytes 1 0 ++ leBytes 2 (wrapN 16 (regionTemp s 0)) ++ leBytes 4 0)))) ∧
  (∀ s : State,
    (s.fw.fusePending = true → s.dev.state = 2 → s.therm.window = some true → exec .rollbackFuseProgram s = .next { s with
      dev := { s.dev with fuses := { s.dev.fuses with rollback := imgSec s.fw.image } }, fw := { s.fw with fusePending := false } }) ∧
    (s.fw.fusePending = false ∨ s.dev.state ≠ 2 → exec .rollbackFuseProgram s = .next s) ∧
    (∀ e rest, s.rel.ffrPending = e :: rest → s.therm.window = some true → exec .ffrWrite s = .next { s with
      rel := { s.rel with ffr := if s.rel.ffr.length < 1024 then s.rel.ffr ++ [e] else s.rel.ffr, ffrPending := rest } }) ∧
    (s.rel.ffrPending = [] → exec .ffrWrite s = .next s)) ∧
  (∀ s : State,
    (∀ t, s.therm.window = some false → s.therm.winOkSince = some t → t + 3000000000 ≤ s.now → s.fw.queue = [] → EventRoom s →
      exec .windowReopen s = .next (
        let v := { s with therm := { s.therm with window := some true }, fw := { s.fw with waiting := 0 } }
        if s.fw.waiting = 0 then v
        else withEvent v 0 0x000F (leBytes 1 s.fw.waiting ++ leBytes 1 0 ++ leBytes 2 (wrapN 16 (regionTemp s 0)) ++ leBytes 4 0))) ∧
    ((s.therm.window ≠ some false ∨ s.therm.winOkSince = none ∨ ∃ t, s.therm.winOkSince = some t ∧ s.now < t + 3000000000) →
      exec .windowReopen s = .next s)) ∧
  (∀ s : State, (s.fw.queue = [] → exec .trickleCapRelease s = .next s) ∧
    ∀ (x : Slot) (i total crc : Nat) (data : List Byte), s.fw.queue = [.cmd x.sid] → findSlot s x.sid = some x →
      x.work = .fwChunk i total crc (some data) → data.length = 4096 →
      (s.fw.copyBusy = true → exec .trickleCapRelease s = .next s) ∧
      (crc32c data = crc → s.fw.bitmap = [] → capOk s = false ∨ s.therm.window = none → exec .trickleCapRelease s = .next s) ∧
      (crc32c data = crc → s.fw.bitmap = [] → s.fw.copyBusy = false → capOk s = true → s.therm.window = some true →
        ∃ u r bad, exec .trickleCapRelease s = .next u ∧ findSlot u x.sid = some { x with work := .done, bulk := [] } ∧
          bad = ((Config.freeWord s.draws).testBit 0 && (Config.freeWord s.draws).testBit 1) ∧
          u = { s with draws := s.draws + 1, bxl := u.bxl,
                       fw := { s.fw with chunks := u.fw.chunks, bitmap := if bad then [] else [i], total := total, armed := false, written := u.fw.written,
                                         queue := [] },
                       mp := { s.mp with slots := u.mp.slots, replyQ := if x.mgmt then s.mp.replyQ else s.mp.replyQ ++ [r],
                                                              mgmtQ := if x.mgmt then s.mp.mgmtQ ++ [r] else s.mp.mgmtQ } } ∧
          ((x.bulk.map (·.1)).sum = 0 → u.bxl = s.bxl) ∧
          smGet? u.fw.chunks i = (if bad then none else some data) ∧ (∀ k, k ≠ i → smGet? u.fw.chunks k = smGet? s.fw.chunks k) ∧
          u.fw.written = (s.fw.written.filter fun t => decide (s.now < t + 3000000000)) ++ (if bad then [] else [s.now]) ∧
          r.sid = some x.sid ∧ getLe r.bytes 4 2 = (if bad then 0x0605 else 0) ∧ getLe r.bytes 6 2 = 0)) ∧
  (∀ (s : State) (i : Nat), s.fw.queue = [.ring i] →
    s.fw.ring ≠ cfgNetRing s ∨ (cfgNetRing s).1 = 0 ∨ (cfgNetRing s).2 ≤ i ∨ ringPlaced s = false →
    exec .trickleCapRelease s = .next { s with fw := { s.fw with queue := [] } }) ∧
  (∀ s : State,
    (s.dev.state ≠ 2 ∨ (cfgNetRing s).1 = 0 ∨ (cfgNetRing s).2 = 0 → exec .netRingScan s = .next s) ∧
    (s.dev.state = 2 → (cfgNetRing s).1 ≠ 0 → (cfgNetRing s).2 ≠ 0 →
      (ringPlaced s = false → exec .netRingScan s = .next { s with fw := { s.fw with netOff := true } }) ∧
      (ringPlaced s = true → s.fw.queue = [] → ∀ v w : State,
        v = { s with fw := { s.fw with netOff := false, ring := cfgNetRing s, torn := if s.fw.ring = cfgNetRing s then s.fw.torn else [] } } →
        (ringSet v = (w, []) → exec .netRingScan s = .next { w with fw := { w.fw with torn := [] } }) ∧
        (∀ (i a : Nat) (z : State) (b : List Byte) (done : State → Nat → Nat → State), ringSet v = (w, [i]) → a = (cfgNetRing s).1 + 4160 * i →
          cfgNetRing w = cfgNetRing s → w.fw.ring = cfgNetRing s → i < (cfgNetRing s).2 → ringPlaced w = true → memRead { w with fw := { w.fw with torn := w.fw.torn.filter [i].contains, queue := [.ring i] } } a 4160 = (z, .ok b) →
          getLe b 4156 4 = 0x5A444643 →
          (done = fun (x : State) st d => (memWrite (memWrite x (a + 4108) (leBytes 2 st ++ leBytes 2 d)).1 (a + 4156) (leBytes 4 0)).1) →
          (crc32c (b.take 4096) ≠ getLe b 4104 4 → i ∉ z.fw.torn →
            exec .netRingScan s = .next { z with fw := { z.fw with torn := (z.fw.torn.filter fun t => t != i) ++ [i], queue := z.fw.queue.drop 1 } }) ∧
          ∀ q : State, q = { z with fw := { z.fw with torn := z.fw.torn.filter fun t => t != i } } →
            (∀ st d y, crc32c (b.take 4096) ≠ getLe b 4104 4 ∧ i ∈ z.fw.torn ∧ st = 0x0605 ∧ d = 0 ∨
                crc32c (b.take 4096) = getLe b 4104 4 ∧ st = 0x0106 ∧
                  (getLe b 4100 4 ≤ getLe b 4096 4 ∧ d = 0 ∨ getLe b 4096 4 < getLe b 4100 4 ∧ 10240 < getLe b 4100 4 ∧ d = 4) →
              y = done q st d →
              exec .netRingScan s = .next { y with fw := { y.fw with netBad := min (y.fw.netBad + 1) (2 ^ 32 - 1), queue := y.fw.queue.drop 1 } }) ∧
            (crc32c (b.take 4096) = getLe b 4104 4 → getLe b 4096 4 < getLe b 4100 4 → getLe b 4100 4 ≤ 10240 →
              (q.fw.copyBusy = false → getLe b 4100 4 = q.fw.total → getLe b 4096 4 ∈ q.fw.bitmap → ∀ y, y = done q 0 1 →
                exec .netRingScan s = .next { y with fw := { y.fw with netOk := min (y.fw.netOk + 1) (2 ^ 32 - 1), queue := y.fw.queue.drop 1 } }) ∧
              (q.fw.copyBusy = true → exec .netRingScan s = .next q) ∧
              (q.fw.bitmap = [] → capOk q = false ∨ q.therm.window = none → exec .netRingScan s = .next q) ∧
              (q.fw.bitmap = [] → q.fw.copyBusy = false → capOk q = true → q.therm.window = some true → ∀ p y : State,
                (Config.freeWord q.draws).testBit 0 = false →
                p = { q with draws := q.draws + 1, fw := { q.fw with
                  chunks := smIns q.fw.chunks (getLe b 4096 4) (b.take 4096), bitmap := [getLe b 4096 4], total := getLe b 4100 4, armed := false,
                  written := (q.fw.written.filter fun t => decide (q.now < t + 3000000000)) ++ [q.now] } } →
                y = done p 0 0 →
                exec .netRingScan s = .next { y with fw := { y.fw with netOk := min (y.fw.netOk + 1) (2 ^ 32 - 1), queue := y.fw.queue.drop 1 } }))))))

/-! ### The tick -/

/-- R38, R41, R43, R44, R46, R47, R63, R410: what opens a tick and what happens within it; each event acts when its time has come and else changes
nothing. The model's choices: the transport and the selection of PTP with its announce timeout of 6 s (log 156, PRESUMED), a holdover that is due goes
on being due when a valid time comes in the same tick (log 116), and the means of a ramp window are rounded down to whole watts (log 159). -/
def Obligations.TickEvents : Prop :=
  (∀ (m : Meter) (s : State), s.tick.running = true →
    (s.now < s.tick.acc.openedAt + s.tick.curLen → exec (.tickBoundary m) s = .next s) ∧
    (s.tick.acc.openedAt + s.tick.curLen ≤ s.now → ∃ u, exec (.tickBoundary m) s = .next u ∧ u.tick.count = s.tick.count + 1 ∧
      u.tick.running = true ∧ u.tick.acc.openedAt = s.now ∧ u.tick.tickOut = true ∧ u.tick.inMargin = false ∧ u.mp.inWindow = true)) ∧
  (∀ (m : Meter) (s : State), s.tick.running = false → (s.dev.state ≠ 2 → exec (.tickBoundary m) s = .next s) ∧
    (s.dev.state = 2 → ∃ u, exec (.tickBoundary m) s = .next u ∧ u.tick.count = 0 ∧ u.tick.running = true ∧
      u.tick.acc.openedAt = s.tick.readyAt ∧ u.tick.tickOut = true ∧ u.mp.inWindow = s.mp.inWindow)) ∧
  (∀ s v : State, v = { s with mp := { s.mp with inWindow := false } } →
    (s.tick.running = false ∨ s.mp.inWindow = false ∨ s.now < s.tick.acc.openedAt + 9000 → exec .taskSpanStart s = .next s) ∧
    (s.tick.running = true → s.mp.inWindow = true → s.tick.acc.openedAt + 9000 ≤ s.now →
      exec .taskSpanStart s = .next (settle (planBallast (startTasks (pump v))))) ∧
    (s.tick.running = true → s.mp.inWindow = true → s.tick.acc.openedAt + 9000 ≤ s.now → NothingWaits s → ∃ u, exec .taskSpanStart s = .next u ∧
      u = { v with tick := u.tick, tower := u.tower, mem := u.mem, watch := u.watch, draws := u.draws } ∧ u.tick.count = s.tick.count ∧
      (∀ k ∈ s.tick.tasks, canBegin v k = true → smGet? s.progs k.handle ≠ none →
        ∃ j ∈ u.tick.tasks, j.sid = k.sid ∧ j.running = true ∧ j.startAt = s.now) ∧
      ∀ k p c i, s.tick.tasks.filter (canBegin v) = [k] → smGet? s.progs k.handle = some p → c / 8 < 256 → k.teams.testBit (c / 8) = true →
        (getNode s c).mode ∉ [1, 2, 4] → (getNode s c).replayQ = [] → i < k.threads → getThread u c i = some ⟨.ready, p.image + k.entry, startRegs k c i, false, s.now⟩)) ∧
  (∀ s : State,
    (s.tick.tickOut = true → s.tick.acc.openedAt + 30000 ≤ s.now → exec .tickOutFall s = .next { s with tick := { s.tick with tickOut := false } }) ∧
    (s.tick.tickOut = false ∨ s.now < s.tick.acc.openedAt + 30000 → exec .tickOutFall s = .next s) ∧
    (s.tick.running = true → marginStart s ≤ s.now → ∃ u, exec .replayMarginOpen s = .next u ∧ u = { s with tick := u.tick, watch := u.watch } ∧
      u.tick.inMargin = true ∧ u.tick.count = s.tick.count ∧ u.tick.tasks.map (·.sid) = s.tick.tasks.map (·.sid)) ∧
    (s.tick.running = false ∨ s.now < marginStart s → exec .replayMarginOpen s = .next s)) ∧
  (∀ s : State,
    (∀ r, s.tick.srcRef = some r → cfgSource s ≠ 0 → s.tick.everLocked = true → s.tick.syncState ≠ 2 → r.1 + 6000000000 ≤ s.now →
      exec .holdover s = .next { s with tick := { s.tick with holdDue := true }, eth := { s.eth with ptp := none } }) ∧
    ((∀ r, s.tick.srcRef = some r → s.now < r.1 + 6000000000) ∨ cfgSource s = 0 ∨ s.tick.everLocked = false ∨ s.tick.syncState = 2 →
      exec .holdover s = .next s) ∧
    (s.tick.running = true → cfgSource s = 2 →
      exec .ppsEdge s = .next { s with tick := { s.tick with srcRef := some (s.now, 0), fresh := true } }) ∧
    (s.tick.running = false ∨ cfgSource s ≠ 2 → exec .ppsEdge s = .next s)) ∧
  (∀ (msg : PtpMsg) (s : State),
    (∀ u, frameEnds s msg.toNetFrame = some u → exec (.ptpMessage msg) s = .next u) ∧
    ∀ (v : State) (n : Nat) (here : Prop), frameEnds s msg.toNetFrame = none → v = frameArrived s msg.toNetFrame → n = msg.hub * 16 + msg.port →
      here = (∃ q, ptpMaster v = some q ∧ q.port = n ∧ q.master.identity = msg.master.identity) →
      (portPtp s msg.hub msg.port = false ∨ hubEthF s msg.hub 26 8 ≠ msg.domain → exec (.ptpMessage msg) s = .next v) ∧
      (portPtp s msg.hub msg.port = true → hubEthF s msg.hub 26 8 = msg.domain →
        (msg.kind = .announce →
          ((∀ q, v.eth.ptp = some q → q.heard + 18000000000 ≤ v.now) ∨ here ∨ (∃ q, ptpMaster v = some q ∧ ptpBetter msg.master q.master = true) →
            exec (.ptpMessage msg) s = .next { v with eth := { v.eth with ptp := some ⟨n, msg.master, v.now⟩ } }) ∧
          (∀ q, ptpMaster v = some q → ¬ here → ptpBetter msg.master q.master = false → exec (.ptpMessage msg) s = .next v)) ∧
        (msg.kind = .sync →
          (¬ here → exec (.ptpMessage msg) s = .next v) ∧
          (here → msg.dst = 0 ∨ isGroup msg.dst = true →
            exec (.ptpMessage msg) s = .next (portSends v msg.hub msg.port (.delayReq msg.hub msg.port msg.domain msg.dst))) ∧
          (here → msg.dst ≠ 0 → isGroup msg.dst = false → msg.src ≠ 0 → isGroup msg.src = false →
            exec (.ptpMessage msg) s = .next (if portGw s msg.hub msg.port = 0 then v
              else portSends v msg.hub msg.port (.delayReq msg.hub msg.port msg.domain msg.src)))) ∧
        (∀ t, msg.kind = .delayResp t →
          (here → cfgSource s = 1 → exec (.ptpMessage msg) s = .next { v with tick := { v.tick with srcRef := some (s.now, t), fresh := true } }) ∧
          (¬ here ∨ cfgSource s ≠ 1 → exec (.ptpMessage msg) s = .next v)))) ∧
  (∀ s : State, (s.tick.winDone = none → exec .rampWindowEnd s = .next s) ∧
    ∀ w, s.tick.winDone = some w → w.breach = 0 → w.short = 0 → exec .rampWindowEnd s = .next { s with tick := { s.tick with winDone := none } }) ∧
  (∀ (s : State) (w : WindowAcc) (body : Nat → List Byte) (breach short : List (List Byte)), s.tick.winDone = some w → w.breach + w.short ≠ 0 →
    eventCount s + 1 < 1024 → s.mp.dropRun = 0 →
    (body = fun n => leBytes 2 (w.targetSum / (max 1 w.len * 30000000)) ++ leBytes 2 (w.drawSum / max 1 w.len) ++ leBytes 2 n ++ leBytes 2 0) →
    breach = (if w.breach = 0 then [] else [eventBytesAt s w.breachTick s.mp.evtSeq 0 0x0004 (body w.breach)]) →
    short = (if w.short = 0 then [] else [eventBytesAt s w.shortTick ((s.mp.evtSeq + breach.length) % 2 ^ 32) 0 0x0005 (body w.short)]) →
    exec .rampWindowEnd s = .next { s with
      tick := { s.tick with winDone := none }
      mp := { s.mp with
        replyQ := s.mp.replyQ ++ (breach ++ short).map fun b => ⟨none, true, false, b⟩
        evtSeq := (s.mp.evtSeq + breach.length + short.length) % 2 ^ 32 } })

/-- R41, R50, R56 to R58, R61, R66, R69, R91 to R94, R110, R333: what a boundary itself does, in its order: it closes the tick's accounting with its record,
applies or refuses a pending commit, updates quarantine, takes the steps' decisions, admits waiting tasks, grants the rations of the tick that opens, and
plans its ballast. For the training step (R317 with Table 12.1, R388, R393) it closes the steps that are due, starts refreshes, applies decisions in order
of steps, ends a switch whose pushes are done, begins one that is due, and forgets what is finished. The model's choices: how the pool is rounded (log 145),
the idle draw (log 158), the lowest quarantined team in DETAIL (log 174), the 64th boundary only marks a commit expired and the next one refuses it (log 79),
and TARGET_W of the tick record is rounded down (log 159). -/
def Obligations.TickBoundaryWork : Prop :=
  (∀ (m : Meter) (s v : State), s.tick.running = true → s.tick.acc.openedAt + s.tick.curLen ≤ s.now →
    v = openTick (closeTick s m) → v.tick.count = s.tick.count + 1 ∧ v.mp.inWindow = true ∧ v.tick.acc.openedAt = s.now ∧ v.tick.acc.grants = [] ∧
      exec (.tickBoundary m) s = .next (settle (planBallast (openRations (admitTasks (stepBoundary (updateQuarantine (gridStep
        (freeHeld (sealAll (relBoundary (applyCurbs v)))))))) m)))) ∧
  (∀ (s : State) (m : Meter) (carry : Nat) (r : List Byte), r = tickRecord s m carry → r.length = 64 ∧ getLe r 0 8 = s.tick.count % 2 ^ 64 ∧
    getLe r 8 8 = s.tick.curStep % 2 ^ 64 ∧ getLe r 16 4 = s.tick.acc.flags % 2 ^ 32 ∧ getLe r 20 2 = s.tick.targetU / 30000000 % 2 ^ 16 ∧
    getLe r 22 2 = m.drawW % 2 ^ 16 ∧ getLe r 24 4 = s.tick.acc.pool % 2 ^ 32 ∧ getLe r 28 4 = (s.tick.acc.first + s.tick.acc.floatDrawn) % 2 ^ 32 ∧
    getLe r 32 4 = consumedOf s m % 2 ^ 32 ∧ getLe r 36 4 = (s.tick.acc.pool - consumedOf s m) % 2 ^ 32 ∧ getLe r 44 4 = m.uncontrolled % 2 ^ 32 ∧
    getLe r 48 2 = s.tick.acc.admitted % 2 ^ 16 ∧ getLe r 50 2 = s.tick.acc.deferred % 2 ^ 16 ∧ getLe r 52 2 = s.tick.acc.overruns % 2 ^ 16 ∧
    getLe r 54 2 = carry % 2 ^ 16 ∧ getLe r 60 4 = crc32c (r.take 60) ∧ consumedOf s m ≤ s.tick.acc.first + s.tick.acc.floatDrawn ∧
    ((cfgTickLog s).1 = 0 ∨ (cfgTickLog s).2 = 0 → writeTickRecord s m carry = s) ∧
    ((cfgTickLog s).1 ≠ 0 → (cfgTickLog s).2 ≠ 0 → ∀ a drop, a = (cfgTickLog s).1 + s.tick.count % (cfgTickLog s).2 * 64 →
      drop = (fun v : State => { v with tick := { v.tick with recDrop := min (v.tick.recDrop + 1) (2 ^ 32 - 1) } }) →
      (unmappedAt s a 64 ≠ none → writeTickRecord s m carry = drop s) ∧
      (unmappedAt s a 64 = none → ∀ v q, memWrite s a r = (v, q) →
        (q = .ok () → writeTickRecord s m carry = v) ∧ (∀ e, q = .error e → writeTickRecord s m carry = drop v)))) ∧
  (∀ (s : State) (x : Slot) (refused applied : State → Prop), Outstanding s x →
    refused = (fun u => ∃ d det, agreeFail s = some d ∧ det = d.rule % 256 * 256 + min 255 d.row ∧ u = endedWith { s with mp := { s.mp with
      commit := none
      lastRefuse := det } } x 0x0201 det (leBytes 2 d.rule ++ leBytes 2 d.row ++ leBytes 4 0 ++ leBytes 8 d.addr)) →
    applied = (fun u => ∃ v, v = applyConfig s ∧ v.cfg = { s.cfg with active := s.cfg.shadow } ∧ u = endedWith { v with
      tick := { v.tick with acc := { v.tick.acc with flags := v.tick.acc.flags ||| 2 ^ 7 } }
      mp := { v.mp with
        commit := none
        commitExpired := false
        lastCommitTick := s.tick.count
        commitCnt := min (v.mp.commitCnt + 1) (2 ^ 32 - 1) } } x 0 0 []) →
    (s.mp.commit = none → commitStep s = s) ∧
    (∀ t, s.mp.commit = some (x.sid, none) → x.work = .commit (some t) → tickReached s t = false → commitStep s = s) ∧
    (∀ tnb, s.mp.commit = some (x.sid, none) → x.work = .commit tnb → (∀ t, tnb = some t → tickReached s t = true) →
      (agreeFail s ≠ none → refused (commitStep s)) ∧
      (agreeFail s = none → changesQ s = false ∨ governedIdle s = true → applied (commitStep s)) ∧
      (agreeFail s = none → changesQ s = true → governedIdle s = false → commitStep s = { s with mp := { s.mp with commit := some (x.sid, some 1) } })) ∧
    (∀ n, s.mp.commit = some (x.sid, some n) →
      (s.mp.commitExpired = true → commitStep s = endedWith { s with mp := { s.mp with
        commit := none
        commitExpired := false } } x 0x0203 0 []) ∧
      (s.mp.commitExpired = false → governedIdle s = true → applied (commitStep s)) ∧
      (s.mp.commitExpired = false → governedIdle s = false → commitStep s = { s with mp := { s.mp with
        commit := some (x.sid, some (n + 1))
        commitExpired := decide (64 ≤ n + 1) } }))) ∧
  (∀ (s v : State), v = commitStep s → cfgSource s = 0 → cfgSource v = 0 → cfgInterval v = cfgInterval s → cfgPhase v = cfgPhase s →
    gridStep s = { v with tick := { v.tick with curLen := 3000 * cfgInterval s } }) ∧
  (∀ (s : State) (k : Task) (x : Slot) (gone : State), Outstanding s x → x.sid = k.sid →
    gone = { s with tick := { s.tick with tasks := s.tick.tasks.filter fun j => j.sid != k.sid } } →
    (∀ t, t < 256 → k.teams.testBit t = true → s.tick.quarantine.testBit t = true → (∀ j, j < t → k.teams.testBit j = true → s.tick.quarantine.testBit j = false) →
      admitOne s k = endedWith gone x 0x0302 t []) ∧
    ((∀ t, t < 256 → k.teams.testBit t = true → s.tick.quarantine.testBit t = false) →
      (usableInterval s < k.budget → admitOne s k = endedWith gone x 0x0303 0 []) ∧
      (k.budget ≤ usableInterval s →
        (sliceBroken s k.teams k.phase = true → admitOne s k = endedWith gone x 0x0106 0 []) ∧
        (sliceBroken s k.teams k.phase = false → 512 < k.threads → (∃ t, t < 256 ∧ k.teams.testBit t = true ∧ teamDegraded s t = true) →
          admitOne s k = endedWith gone x 0x0106 44 []) ∧
        (sliceBroken s k.teams k.phase = false → k.threads ≤ 512 → k.epoch ≠ 0 → k.epoch ≠ s.step.epochCur → s.step.epochPrev ≠ some k.epoch →
          admitOne s k = endedWith gone x 0x0401 0 []))) ∧
    (boundaryRefusal s k = none →
      (mustWait s k = true → admitOne s k = { s with tick := { s.tick with acc := { s.tick.acc with deferred := min 65535 (s.tick.acc.deferred + 1) } } }) ∧
      (mustWait s k = false → (∀ t, k.tnb = some t → 0 ≤ sgn 32 (s.tick.count + 2 ^ 32 - t % 2 ^ 32)) ∧
        (∀ t, t < 256 → k.teams.testBit t = true → admittedBudget s t + k.budget ≤ teamAllowance s t) ∧
        (∀ j ∈ s.tick.tasks, shareTeam j.teams k.teams = true → if j.admitted then j.admitTick = s.tick.count else k.sid ≤ j.sid) ∧
        (∀ t, footprintLack s k = some t → admitOne s k = endedWith { gone with mem := { s.mem with cnt := { s.mem.cnt with
          asRefuse := min (s.mem.cnt.asRefuse + 1) (2 ^ 32 - 1) } } } x 0x0304 t []) ∧
        (footprintLack s k = none → admitOne s k = { s with tick := { s.tick with
          tasks := s.tick.tasks.map fun j => if j.sid = k.sid then { j with
            admitted := true
            admitTick := s.tick.count
            epochRes := if k.epoch = 0 then s.step.epochCur else k.epoch
            margin := cfgInterval s * cfgReplayPct s * 15 } else j
          curStep := k.step.getD s.tick.curStep
          acc := { s.tick.acc with admitted := min 65535 (s.tick.acc.admitted + 1) } } })))) ∧
  (∀ (s : State) (m : Meter) (least lo hi want d T pool : Nat), least = leastDraw s → lo = max (cfgFloor s) least * 30000000 →
    hi = max lo ((3 * cfgFloor s + (cfgEnvelope s - cfgFloor s) * cfgGait s) * 10000000) →
    want = (if s.mp.resetting then least * 30000000 else min hi (max lo (m.demandW * 30000000))) → d = 3 * cfgEnvelope s * cfgRamp s * cfgInterval s →
    T = max (min (s.tick.targetU + d) (max (s.tick.targetU - d) want)) (least * 30000000) → pool = (T - least * 30000000) * s.tick.curLen / 900000000000 →
    ∃ u, openRations s m = u ∧ u = { s with tick := { s.tick with
        targetU := T
        minW := least
        pacedTeams := []
        acc := { s.tick.acc with
          pool := pool
          first := pool * 9 / 10
          floatDrawn := 0
          demandW := m.demandW
          used := []
          grants := u.tick.acc.grants
          flags := u.tick.acc.flags } } } ∧
      (∀ i, i ≠ 2 → u.tick.acc.flags.testBit i = s.tick.acc.flags.testBit i) ∧ (u.tick.acc.grants.map (·.2)).sum = pool * 9 / 10 ∧
      ∀ total, total = ((demandsOf s m).map (·.2)).sum → total ≠ 0 → ∀ g ∈ u.tick.acc.grants, ∃ n, (g.1, n) ∈ demandsOf s m ∧
        g.2 * total < pool * 9 / 10 * n + total ∧ pool * 9 / 10 * n < g.2 * total + total) ∧
  (∀ (s : State) (free : Nat → Prop), TablesForm s → free = (fun t => t < 256 ∧ ballastFree s t = true) → ∃ u, planBallast s = u ∧
    u = { s with
      tower := { s.tower with teams := u.tower.teams }
      tick := { s.tick with
        shortCnt := u.tick.shortCnt
        acc := { s.tick.acc with flags := u.tick.acc.flags } } } ∧
    (∀ t, getTeam u t = { getTeam s t with ballast := (getTeam u t).ballast }) ∧ (∀ t, t < 256 → (getTeam u t).ballast = true → free t) ∧
    (∀ a b, free a → s.tick.acc.worked.testBit a = false → s.tick.acc.worked.testBit b = true → b < 256 → (getTeam u b).ballast = true →
      (getTeam u a).ballast = true) ∧
    (s.tick.targetU - s.tick.acc.demandW * 30000000 ≤
        (((List.range 256).filter fun t => (getTeam u t).ballast).map fun t => Config.ballastWatts t * 30000000).sum ∨
      ((∀ t, free t → (getTeam u t).ballast = true) ∧ u.tick.acc.flags.testBit 3 = true))) ∧
  (∀ s v : State, v = forgetSteps (latchModes (startSwitch (endSwitch (applyDecisions (startRefreshes (closeDue s)))))) →
    stepBoundary s = { v with step := { v.step with evalResume := false } }) ∧
  (∀ (s u : State), (s.step.tensors.map (·.id)).Nodup → u = startRefreshes s → u.step.packs = s.step.packs ∧
    u.step.tensors.length = s.step.tensors.length ∧ ∀ (i : Nat) (t : Tensor), s.step.tensors[i]? = some t → ∃ rs : List RefreshJob, u.step.tensors[i]? =
      some { t with refreshNext := [], refreshes := t.refreshes ++ rs } ∧ rs.map (·.step) = if hubFitted s t.hub then t.refreshNext.map some else []) ∧
  (∀ (s : State) (p : Pack) (x : PackStep), canApply s p x = true ↔ x.applied = false ∧ ∃ d, x.decision = some d ∧
    (d.1 = true → ∀ t ∈ packTensors s p, hubFitted s t.hub = false ∨ noTrained x t = true ∨
      ∃ y ∈ x.updates, y.tensor = t.id ∧ (y.phase = .finished ∨ ∃ n, y.phase = .failed n ∧ y.late = true))) ∧
  (∀ (s : State) (p : Pack), s.step.packs = [p] →
    (∀ x, p.steps = [x] → applyDecisions s = if canApply s p x then applyDecision s p x else s) ∧
    (∀ x y v, p.steps = [x, y] ∨ p.steps = [y, x] → y.step < x.step → (v = if canApply s p y then applyDecision s p y else s) →
      ∃ q z, findPack v p.id = some q ∧ findPS q x.step = some z ∧ applyDecisions s = if canApply v q z then applyDecision v q z else v)) ∧
  (∀ (s : State) (p : Pack) (x : PackStep), findPack s p.id = some p → findPS p x.step = some x → p.tensors.Nodup → (s.step.tensors.map (·.id)).Nodup →
    ∃ v, applyDecision s p x = protUpdate v ∧ getPS v p.id x.step = { x with applied := true, updates := [], tensors := [] } ∧
      (∀ q n, q ≠ p.id ∨ n ≠ x.step → getPS v q n = getPS s q n) ∧
      v.step.tensors = s.step.tensors.map (fun t => if t.id ∈ p.tensors ∧ t.rule = 4 ∧ t.refresh ≠ 0 ∧ x.step % t.refresh = 0 then
        { t with refreshNext := t.refreshNext ++ [x.step] } else t) ∧
      (∀ d, x.decision = some d → d.1 = false → v.mem = s.mem ∧ v.step.copyBacks = s.step.copyBacks) ∧
      (∀ d, x.decision = some d → d.1 = true → v.mem = ((x.updates.filter fun y => y.phase = .finished).foldl (commitTensor p) s).mem ∧
        v.step.copyBacks = s.step.copyBacks ++ (x.updates.filter fun y => y.phase = .finished).filterMap fun y =>
          (findTensor s y.tensor).map fun t => ⟨t.id, p.id, y.shadow.getD 0⟩)) ∧
  (∀ (s v w : State) (p : Pack) (y : Update) (t : Tensor) (bs : List Byte), findTensor s y.tensor = some t → hubRead s t.master 8 = (v, .ok bs) →
    w = hubWrite (hubWrite v (t.master + 8) (leBytes 8 (y.shadow.getD 0))) t.master (leBytes 8 (leNat bs ||| 1)) →
    commitTensor p s y = { w with step := { w.step with copyBacks := w.step.copyBacks ++ [⟨t.id, p.id, y.shadow.getD 0⟩] } }) ∧
  (∀ s : State, (s.step.switch = none → endSwitch s = s) ∧ ∀ w, s.step.switch = some w →
    (w.started = false ∨ (∃ n, s.step.snapshot = some n ∧ w.step ∉ n.before) ∨ (∃ t ∈ s.step.tensors, t.kind = 0 ∧ t.pushed = false) → endSwitch s = s) ∧
    (w.started = true → (∀ n, s.step.snapshot = some n → w.step ∈ n.before) → (∀ t ∈ s.step.tensors, t.kind = 0 → t.pushed = true) →
      ∀ v, v = { s with step := { s.step with
          epochPrev := some s.step.epochCur
          epochCur := w.step
          switch := none
          tensors := s.step.tensors.map fun t => if t.kind = 0 then { t with switches := t.switches + 1, pushed := false } else t } } →
        endSwitch s = fencesDone v w.step)) ∧
  (∀ (s u : State) (n : Nat), u = fencesDone s n → (∀ t ∈ s.step.tensors, t.dropping = none) →
    u = { s with step := { s.step with packs := u.step.packs }, mp := u.mp, watch := u.watch } ∧
    ∀ p ∈ s.step.packs, ∀ x sid d y, findPS p n = some x → x.fence = some sid → x.decision = some d → Outstanding s y → y.sid = sid →
      (∀ q ∈ s.step.packs, ∀ z, findPS q n = some z → z.fence = some sid → q = p) →
      (∃ z, findSlot u sid = some z ∧ z.work = .done) ∧ ∃ r ∈ (if y.mgmt then u.mp.mgmtQ else u.mp.replyQ), r.sid = some sid ∧
        r.bytes = leBytes 4 y.tag ++ leBytes 2 d.2.2.1 ++ leBytes 2 d.2.2.2 ++ leBytes 8 s.tick.count ++
          leBytes 8 (if y.stepValid then y.step else s.tick.curStep) ++ leBytes 8 s.step.epochCur ++
          leBytes 8 (s.step.epochPrev.getD (2 ^ 64 - 1)) ++ leBytes 1 d.2.1 ++ List.replicate 7 0) ∧
  (∀ s : State, (s.step.switch ≠ none ∨ (∀ n, ¬ SwitchDue s n) → startSwitch s = s) ∧
    ∀ n, s.step.switch = none → SwitchDue s n → (∀ m, SwitchDue s m → m = n) →
      startSwitch s = { s with step := { s.step with epochPrev := none, switch := some { step := n, retired := true } } }) ∧
  (∀ s : State, latchModes s = { s with step := { s.step with
      latched := s.step.latched ++ (s.step.latchDue.filter fun n => ∀ l ∈ s.step.latched, l.1 ≠ n).map fun n => (n, cfgStrict s 3)
      latchDue := [] } }) ∧
  (∀ (s u : State) (passed : PackStep → Bool), u = forgetSteps s → (passed = fun x => x.decision.isSome && x.applied && x.fence.isNone) →
    u = { s with step := { s.step with
      packs := s.step.packs.map fun p => { p with steps := p.steps.filter fun x => !passed x }
      latched := u.step.latched } } ∧
    ∀ l, l ∈ u.step.latched ↔ l ∈ s.step.latched ∧ ((∃ p ∈ s.step.packs, ∃ x ∈ p.steps, passed x = false ∧ x.step = l.1) ∨
      ∃ t ∈ s.step.tensors, l.1 ∈ t.refreshNext ∨ ∃ j ∈ t.refreshes, j.step = some l.1))

/-- R54, R55, R472, R477 to R480, R483, R486, R508: what the parts of a boundary do that concern curbs, quarantine, teams, lanes and seals. The curb levels
that are due apply. Quarantines that host software has ended end with empty windows, and teams with 4 marks, or LOST, are quarantined. A team that is to be
LOST or TEAM_DEGRADED becomes so, and the tasks named in R478 to R480 stop. Lanes that are due take a spare, or halve their bundle. Every slot is sealed.
The model's choices: a slot that replays is sealed with what its replay still leaves out (log 87), the lowest of a task's teams that are quarantined now is
named (log 174), and bundles and triples of unused physical teams are numbered from 2,304 and 256 on (log 91). -/
def Obligations.BoundaryWorkEffects : Prop :=
  (∀ s : State, TablesForm s → ∃ u, applyCurbs s = u ∧ u = { s with therm := { s.therm with regions := u.therm.regions } } ∧
    ∀ r, getRegion u r = if r ∈ [1, 2, 3, 4] then { getRegion s r with curb := (getRegion s r).curbDue } else getRegion s r) ∧
  (∀ (s : State) (ends newly : Nat → Prop), smWf [] s.tick.marks = true →
    ends = (fun t => t < 256 ∧ s.tick.quarClr.testBit t = true ∧ s.tick.quarantine.testBit t = true) →
    newly = (fun t => t < 256 ∧ ((getRel s t).lost = true ∨ (4 ≤ windowMarks s t ∧ ¬ ends t)) ∧ (s.tick.quarantine.testBit t = false ∨ ends t)) →
    ∃ u, updateQuarantine s = u ∧
      u = { s with
        tick := { s.tick with quarantine := u.tick.quarantine, quarClr := 0, marks := u.tick.marks, tasks := u.tick.tasks }
        mp := u.mp } ∧
      (∀ t, u.tick.quarantine.testBit t = true ↔ newly t ∨ (s.tick.quarantine.testBit t = true ∧ ¬ ends t)) ∧
      (∀ t, (ends t → smGet [] u.tick.marks t = []) ∧ (¬ ends t → smGet [] u.tick.marks t = smGet [] s.tick.marks t)) ∧
      (∀ k, k ∈ u.tick.tasks ↔ k ∈ s.tick.tasks ∧ (k.admitted = true ∨ ∀ t, newly t → k.teams.testBit t = false)) ∧
      (∀ k ∈ s.tick.tasks, k.admitted = false → (∀ j ∈ s.tick.tasks, j.sid = k.sid → j = k) → ∀ t, newly t → k.teams.testBit t = true →
        (∀ i, i < t → newly i → k.teams.testBit i = false) → ∀ x, Outstanding s x → x.sid = k.sid →
        (∃ y, findSlot u x.sid = some y ∧ y.work = .done) ∧
        ∃ r ∈ (if x.mgmt then u.mp.mgmtQ else u.mp.replyQ), r.sid = some x.sid ∧ r.bytes = leBytes 4 x.tag ++ leBytes 2 0x0302 ++ leBytes 2 t ++
          leBytes 8 s.tick.count ++ leBytes 8 (if x.stepValid then x.step else s.tick.curStep))) ∧
  (∀ (s : State) (c : Nat), TablesForm s → ∃ u, sealAll s = u ∧ u = { s with tower := { s.tower with slots := u.tower.slots } } ∧
    ((c ∈ s.tower.cores.map (·.1) ∨ c ∈ s.tower.slots.map (·.1)) → ∃ r, getNode u c =
        { getNode s c with eff := {}, begun := (getNode s c).replayQ, sealed := some r } ∧
      r = { core := getCore s c
            spad := s.mem.spad.filter fun b => b.1 / 2 ^ 20 = c
            undef := s.mem.undefSpad.filter fun b => b.lo / 2 ^ 20 = c
            streams := (List.range 8).map fun i => (8 * c + i, getStream s (8 * c + i))
            stkq := ((getTeam s (c / 8)).stkq.filter fun e => e.1 = c).map (·.2)
            suppress := (getNode s c).suppress
            parts := (getNode s c).parts }) ∧
    (c ∉ s.tower.cores.map (·.1) → c ∉ s.tower.slots.map (·.1) → getNode u c = getNode s c)) ∧
  (∀ s : State, relBoundary s = startTasks (applyLanes ((s.rel.teams.map (·.1)).foldl (fun v t =>
      applyStateLost (applyDegrade (applyLost { v with rel := { v.rel with teams := smMod {} v.rel.teams t fun r => { r with fresh := false } } } t) t) t)
      { s with rel := { s.rel with scanned := [] } })) ∧
    applyLanes s = (s.rel.bundles.flatMap fun x => x.due.map fun d => (x.ref, d)).foldl (fun v q => applyLane q.1 v q.2) s) ∧
  (∀ (s u : State) (t n : Nat) (gone : Task → Bool), TablesForm s → u = applyLost s t → (gone = fun k => k.teams.testBit t) →
    n = (s.tick.tasks.filter gone).length → ((getRel s t).lostDue = none → u = s) ∧
    ∀ cause slot tick, (getRel s t).lostDue = some (cause, slot, tick) → TasksStop s u gone ∧
      getRel u t = { getRel s t with lostDue := none, degradeDue := none, stateLost := [], lost := true } ∧ (∀ k, k ≠ t → getRel u k = getRel s k) ∧
      (∃ e, e = leBytes 1 (t / 64) ++ leBytes 1 ((getRel s t).moved.getD (t % 64)) ++ leBytes 1 0xFF ++ leBytes 1 cause ++ leBytes 8 tick ∧
        u.rel = { s.rel with
          teams := u.rel.teams
          lostCnt := min (s.rel.lostCnt + 1) (2 ^ 32 - 1)
          alert := true
          ffrPending := if s.rel.ffr.length + s.rel.ffrPending.length < 1024 then s.rel.ffrPending ++ [e ++ leBytes 4 (crc32c e)]
            else s.rel.ffrPending }) ∧
      EventLast s u 0x0703 0x000D (degradedBody s t 2 cause slot 0xFF n)) ∧
  (∀ (s u : State) (t n : Nat) (gone : Task → Bool), TablesForm s → u = applyDegrade s t →
    (gone = fun k => k.admitted && k.teams.testBit t && decide (512 < k.threads)) → n = (s.tick.tasks.filter gone).length →
    ((getRel s t).degradeDue = none → u = s) ∧
    ∀ cause slot host, (getRel s t).degradeDue = some (cause, slot, host) → TasksStop s u gone ∧
      getRel u t = { getRel s t with
        degradeDue := none
        degraded := true
        shared := some (slot, host)
        onSpare := if (getRel s t).onSpare = some slot then none else (getRel s t).onSpare } ∧ (∀ k, k ≠ t → getRel u k = getRel s k) ∧
      u.rel = { s.rel with teams := u.rel.teams, degradeCnt := min (s.rel.degradeCnt + 1) (2 ^ 32 - 1) } ∧
      EventLast s u 0x0703 0x000D (degradedBody s t 1 cause slot host n) ∧
      (n = 0 → OnlyNode { u with tower := s.tower } u (8 * t + slot)
        (if (getNode s (8 * t + slot)).mode = 4 then
          { getNode s (8 * t + slot) with mode := if caughtUp (getNode s (8 * t + slot)).suppress = true then 0 else 2 }
        else getNode s (8 * t + slot)))) ∧
  (∀ (s u : State) (t : Nat) (gone : Task → Bool), TablesForm s → u = applyStateLost s t → (gone = fun k => k.running && k.teams.testBit t) →
    ((getRel s t).stateLost = [] → u = s) ∧
    ((getRel s t).stateLost ≠ [] → TasksStop s u gone ∧ u.rel = { s.rel with teams := u.rel.teams } ∧
      getRel u t = { getRel s t with stateLost := [] } ∧ (∀ k, k ≠ t → getRel u k = getRel s k) ∧
      ∀ i ∈ (getRel s t).stateLost, getNode u (8 * t + i) = {} ∧ getCore u (8 * t + i) = {})) ∧
  (∀ (s u : State) (b : BundleRef) (d : Nat × Bool) (x left : BundleRel), u = applyLane b s d → x = findBundle s b →
    left = { x with due := x.due.filter fun e => e.1 ≠ d.1, swapped := x.swapped.filter fun l => l ≠ d.1 } →
    (∀ c, c ≠ b → findBundle u c = findBundle s c) ∧
    (left.failed.length + left.swapped.length < 4 → d.2 = true → findBundle u b = { left with failed := x.failed ++ [d.1] } ∧
      u = { s with rel := { s.rel with bundles := u.rel.bundles, failCnt := min (s.rel.failCnt + 1) (2 ^ 32 - 1) } }) ∧
    (left.failed.length + left.swapped.length < 4 → d.2 = false → findBundle u b = { left with swapped := left.swapped ++ [d.1] } ∧
      u = { s with rel := { s.rel with bundles := u.rel.bundles, swapCnt := min (s.rel.swapCnt + 1) (2 ^ 32 - 1) } }) ∧
    (4 ≤ left.failed.length + left.swapped.length → d.2 = false → findBundle u b = left ∧ u = { s with rel := { s.rel with bundles := u.rel.bundles } }) ∧
    (4 ≤ left.failed.length + left.swapped.length → d.2 = true → findBundle u b = { left with failed := x.failed ++ [d.1], half := true } ∧
      (x.half = true → u = { s with rel := { s.rel with bundles := u.rel.bundles } }) ∧
      (x.half = false → u = { s with
          mp := u.mp
          rel := { s.rel with bundles := u.rel.bundles, halfCnt := min (s.rel.halfCnt + 1) (2 ^ 32 - 1) } } ∧
        (EventRoom s → u.mp = (withEvent s 0x0704 0x000E (leBytes 1 b.iface ++ leBytes 1 b.kind ++
          leBytes 1 (if 2 ≤ b.kind then 0xFF else bundleLayer b) ++ leBytes 1 (bundleTeam b) ++
          leBytes 1 (if b.kind = 0 ∧ b.owner < 2048 then b.owner % 8 else 0xFF) ++ leBytes 1 (132 - (x.failed.length + 1)) ++ leBytes 2 b.bundle ++
          leBytes 8 (if s.tick.running then s.tick.count else 0))).mp))))

/-- R275 to R277, R340, Tables 10.5 and 12.5: what a boundary writes of the steps it closes. A step whose fence has had its final reply closes, as does the
oldest one when a fifth opens, which FORCED tells. For each of its entries, in ascending tensor and source, one watch record is formed: the stillness rule
runs, and the record goes into the ring, where it is enabled; then the ledger record. A record that cannot be written is counted, and the sequence number
still advances. R273, R275: what a conversion counts, and which counts are lost. The model's choices: the sequence numbers advance with the ring enabled
only (log 34), a step that has closed is not opened again (log 35), and an alarm waits for the row STILL_ALARM (log 36). -/
def Obligations.StepClosesRecords : Prop :=
  (∀ (s u : State) (forced above tracked fires : Bool) (e : WatchEntry) (old : RunEntry) (run : Nat) (mine : RunEntry → Bool) (body : List Byte),
    u = watchRecord s forced e → (mine = fun r => r.tensor == e.tensor && r.source == e.source) → above = decide (cfgZeroPct s * e.elements < 100 * e.zeros) →
    tracked = (s.watch.runs.any mine || decide (s.watch.runs.length < 16384)) → old = (s.watch.runs.find? mine).getD ⟨e.tensor, e.source, 0, false⟩ →
    run = (if tracked && above then min 65535 (old.run + 1) else 0) →
    fires = (tracked && above && cfgStillEn s && !old.fired && decide (cfgStillSteps s ≤ run)) →
    body = leBytes 8 e.step ++ leBytes 4 e.tensor ++ leBytes 1 e.source ++
      leBytes 1 ((if forced then 1 else 0) + (if fires then 2 else 0) + if above then 4 else 0) ++ leBytes 2 0 ++ leBytes 8 e.elements ++ leBytes 8 e.zeros ++
      leBytes 8 e.sats ++ leBytes 8 e.nonfinite ++ leBytes 2 run ++ leBytes 2 0 ++ leBytes 4 s.tick.count ++ leBytes 4 0 →
    ∃ v, v = { s with watch := { s.watch with
        runs := v.watch.runs
        entryDrop := if tracked then s.watch.entryDrop else min (s.watch.entryDrop + 1) (2 ^ 32 - 1)
        alarms := if fires then s.watch.alarms ++ [⟨e.tensor, e.source, run, e.step, 1000 * e.zeros / max 1 e.elements, cfgZeroPct s, s.tick.count⟩]
          else s.watch.alarms } } ∧
      (tracked = true → v.watch.runs.find? mine = some ⟨e.tensor, e.source, run, above && (old.fired || fires)⟩) ∧
      (tracked = false → v.watch.runs = s.watch.runs) ∧ (v.watch.runs.filter fun r => !mine r) = (s.watch.runs.filter fun r => !mine r) ∧
      ((cfgWatchLog s).1 = 0 ∨ (cfgWatchLog s).2 = 0 → u = v) ∧
      ((cfgWatchLog s).1 ≠ 0 → (cfgWatchLog s).2 ≠ 0 → ∃ w ok,
        RecordPut v w ok ((cfgWatchLog s).1 + s.watch.logSeq % (cfgWatchLog s).2 * 64) (body ++ leBytes 4 (crc32c body)) ∧
        u = { w with watch := { w.watch with
          logSeq := (w.watch.logSeq + 1) % 2 ^ 64
          recDrop := if ok then w.watch.recDrop else min (w.watch.recDrop + 1) (2 ^ 32 - 1) } })) ∧
  (∀ (s u : State) (o : OpenStep) (forced : Bool) (body : List Byte), u = ledgerRecord s o forced →
    body = leBytes 8 o.step ++ leBytes 8 o.firstTick ++ leBytes 8 o.lastTick ++ leBytes 4 (o.closing.getD 0 + (if forced then 4 else 0) +
      (if o.flags.testBit 0 then 8 else 0) + (if o.flags.testBit 1 then 16 else 0) + if o.flags.testBit 3 then 32 else 0) ++ leBytes 4 o.tasks ++
      ((List.range 10).flatMap fun i => leBytes 8 (smGet 0 o.phases i)) ++ leBytes 2 (min 65535 o.overruns) ++ leBytes 2 (min 65535 o.carry) ++
      leBytes 4 (o.tokens / 100000) ++ leBytes 4 0 →
    ((cfgLedgerLog s).1 = 0 ∨ (cfgLedgerLog s).2 = 0 → u = s) ∧
    ((cfgLedgerLog s).1 ≠ 0 → (cfgLedgerLog s).2 ≠ 0 → ∃ w ok,
      RecordPut s w ok ((cfgLedgerLog s).1 + s.watch.ledSeq % (cfgLedgerLog s).2 * 128) (body ++ leBytes 4 (crc32c body)) ∧
      u = { w with watch := { w.watch with
        ledSeq := (w.watch.ledSeq + 1) % 2 ^ 64
        ledRecDrop := if ok then w.watch.ledRecDrop else min (w.watch.ledRecDrop + 1) (2 ^ 32 - 1) } })) ∧
  (∀ (s u : State) (o : OpenStep) (forced : Bool), u = closeStep s o forced → ∃ (es : List WatchEntry) (v : State),
    es.Perm (s.watch.entries.filter fun e => e.step = o.step) ∧
    es.Pairwise (fun a b : WatchEntry => a.tensor < b.tensor ∨ (a.tensor = b.tensor ∧ a.source ≤ b.source)) ∧
    v = ledgerRecord (es.foldl (fun s e => watchRecord s forced e) s) o forced ∧
    u = { v with watch := { v.watch with
      entries := v.watch.entries.filter fun e => e.step ≠ o.step
      open_ := v.watch.open_.filter fun x => x.step ≠ o.step
      closed := if o.step ∈ v.watch.closed then v.watch.closed else v.watch.closed ++ [o.step] } }) ∧
  (∀ s : State, ((∀ o ∈ s.watch.open_, o.closing = none) → closeDue s = s) ∧ ∀ o n, o ∈ s.watch.open_ → o.closing = some n →
    o.step ∈ (closeDue s).watch.closed ∧ (∀ x ∈ (closeDue s).watch.open_, x.step ≠ o.step) ∧ ∀ e ∈ (closeDue s).watch.entries, e.step ≠ o.step) ∧
  (∀ (s : State) (o : OpenStep) (n : Nat), s.watch.open_.filter (fun x => x.closing.isSome) = [o] → o.closing = some n → closeDue s = closeStep s o false) ∧
  (∀ (s : State) (n : Nat) (opened : State → State),
    (opened = fun v => { v with watch := { v.watch with open_ := v.watch.open_ ++ [{ step := n, closing := (v.watch.fences.find? fun f => f.1 == n).bind (·.2.2) }] } }) →
    ((∃ o ∈ s.watch.open_, o.step = n) ∨ n ∈ s.watch.closed ∨ (s.watch.open_ ≠ [] ∧ ∀ o ∈ s.watch.open_, n < o.step) → openStep s n = s) ∧
    ((∀ o ∈ s.watch.open_, o.step ≠ n) → n ∉ s.watch.closed → s.watch.open_ = [] ∨ (∃ o ∈ s.watch.open_, o.step < n) →
      (s.watch.open_.length < 4 → openStep s n = opened s) ∧
      (4 ≤ s.watch.open_.length → (s.watch.open_.map (·.step)).Nodup → ∀ o ∈ s.watch.open_, (∀ x ∈ s.watch.open_, o.step ≤ x.step) →
        openStep s n = opened (closeStep s o true)))) ∧
  (∀ (s u : State) (tensor source step elements zeros sats nonfinite : Nat) (same : WatchEntry → Bool) (lost : State),
    u = watchAdd s tensor source step elements zeros sats nonfinite →
    (same = fun e => e.tensor == tensor && e.source == source && e.step == step) →
    lost = { s with watch := { s.watch with entryDrop := min (s.watch.entryDrop + 1) (2 ^ 32 - 1) } } →
    ((∀ o ∈ s.watch.open_, o.step ≠ step) → u = lost) ∧
    ((∃ o ∈ s.watch.open_, o.step = step) →
      ((∃ e ∈ s.watch.entries, same e = true) → u = { s with watch := { s.watch with entries := s.watch.entries.map fun e => if same e then { e with
        elements := e.elements + elements
        zeros := e.zeros + zeros
        sats := e.sats + sats
        nonfinite := e.nonfinite + nonfinite } else e } }) ∧
      ((∀ e ∈ s.watch.entries, same e = false) → 16384 ≤ s.watch.entries.length → u = lost) ∧
      ((∀ e ∈ s.watch.entries, same e = false) → s.watch.entries.length < 16384 →
        u = { s with watch := { s.watch with entries := s.watch.entries ++ [⟨tensor, source, step, elements, zeros, sats, nonfinite⟩] } })))

/-- R52 to R54, R57, R84, R111: a grant that is spent, an overrun, a quarantine, the end of a task, and the end of a device reset's ramp. The model's
choices: a last draw is what the float holds (log 174), a reset's ramp goes to U(k) (log 158), QUARANTINE acts in the boundary window only (log 77). -/
def Obligations.TaskEvents : Prop :=
  (∀ (g : Grantee) (s : State) (left : Nat), left = s.tick.acc.pool - s.tick.acc.first - s.tick.acc.floatDrawn →
    (granteeId s g = none ∨ s.tick.running = false ∨ (∃ i, granteeId s g = some i ∧ i ∈ s.tick.pacedTeams) → exec (.grantExhausted g) s = .next s) ∧
    (∀ i, granteeId s g = some i → s.tick.running = true → i ∉ s.tick.pacedTeams →
      (left ≠ 0 → exec (.grantExhausted g) s = .next
        { s with tick := { s.tick with acc := { s.tick.acc with
          floatDrawn := s.tick.acc.floatDrawn + min 1000 left
          used := smIns s.tick.acc.used i (smGet 0 s.tick.acc.grants i)
          grants := smIns s.tick.acc.grants i (smGet 0 s.tick.acc.grants i + min 1000 left) } } }) ∧
      (left = 0 → ∃ u, exec (.grantExhausted g) s = .next u ∧ u = { s with tick := u.tick, watch := u.watch } ∧
        u.tick.acc.used = smIns s.tick.acc.used i (smGet 0 s.tick.acc.grants i) ∧
        u.tick.pacedTeams = s.tick.pacedTeams ++ [i] ∧ u.tick.paceCnt = min (s.tick.paceCnt + 1) (2 ^ 32 - 1)))) ∧
  (∀ (tag : W32) (s : State), (∀ k ∈ s.tick.tasks, k.tag = tag.toNat → k.running = false) →
    exec (.tickOverrun tag) s = .next s ∧ exec (.taskEnd tag) s = .next s) ∧
  (∀ (tag : W32) (s : State) (k : Task), s.tick.tasks.find? (fun k => k.tag == tag.toNat && k.running) = some k →
    (k.overrun = true ∨ countedCk s k ≤ k.budget + k.margin → exec (.tickOverrun tag) s = .next s) ∧
    (k.overrun = false → k.budget + k.margin < countedCk s k → ∃ u, exec (.tickOverrun tag) s = .next u ∧
      u = { s with tick := { s.tick with tasks := u.tick.tasks, overrunCnt := min (s.tick.overrunCnt + 1) (2 ^ 32 - 1), marks := u.tick.marks,
                                         acc := { s.tick.acc with overruns := min 65535 (s.tick.acc.overruns + 1) } }, watch := u.watch } ∧
      u.tick.tasks = s.tick.tasks.map (fun j => if j.sid = k.sid then { j with overrun := true } else j) ∧
      (∀ t, t < 256 → k.teams.testBit t = true → s.tick.count ∈ smGet [] u.tick.marks t) ∧
      ∀ t, 256 ≤ t ∨ k.teams.testBit t = false → smGet [] u.tick.marks t = smGet [] s.tick.marks t)) ∧
  (∀ (tag : W32) (s : State) (k : Task) (x : Slot), s.tick.tasks.find? (fun k => k.tag == tag.toNat && k.running) = some k →
    (taskDone s k = false → exec (.taskEnd tag) s = .next s) ∧
    (taskDone s k = true → s.tick.tasks.find? (fun j => j.sid == k.sid) = some k → x.sid = k.sid → Outstanding s x → ∃ u status detail, exec (.taskEnd tag) s = .next u ∧
      u = { s with tick := u.tick, watch := u.watch, tower := u.tower, mem := u.mem, mp := u.mp, draws := u.draws } ∧ (∀ j ∈ u.tick.tasks, j.sid ≠ k.sid) ∧
      u.mp = (endedWith s x status detail (leBytes 8 k.admitTick ++ leBytes 8 s.tick.count ++ leBytes 4 (min (countedCk s k) (2 ^ 32 - 1)) ++
        zeroBytes 4)).mp ∧
      (k.overrun = true ∨ k.budget + k.margin < countedCk s k → status = 0x0301 ∧ detail = min 65535 ((countedCk s k - k.budget + 1499) / 1500)) ∧
      (k.overrun = false → countedCk s k ≤ k.budget + k.margin → status = 0 ∧ detail = 0))) ∧
  (∀ (team : BitVec 8) (s : State) (t : Nat), t = team.toNat →
    (s.mp.inWindow = false ∨ s.tick.quarantine.testBit t = true ∨ (windowMarks s t < 4 ∧ teamLost s t = false) → exec (.quarantine team) s = .next s) ∧
    (s.mp.inWindow = true → s.tick.quarantine.testBit t = false → 4 ≤ windowMarks s t ∨ teamLost s t = true → EventRoom s →
      (∀ k ∈ s.tick.tasks, k.admitted = false → k.teams.testBit t = false) →
      exec (.quarantine team) s = .next (withEvent { s with tick := { s.tick with quarantine := s.tick.quarantine + 2 ^ t } } 0x0302 0x0003
        (leBytes 2 t ++ leBytes 1 (min 255 (windowMarks s t)) ++ leBytes 1 0 ++ leBytes 4 0))) ∧
    (s.mp.inWindow = true → s.tick.quarantine.testBit t = false → 4 ≤ windowMarks s t ∨ teamLost s t = true → ∃ u, exec (.quarantine team) s = .next u ∧
      u = { s with tick := { s.tick with quarantine := s.tick.quarantine + 2 ^ t, tasks := u.tick.tasks }, mp := u.mp } ∧
      ∀ k, k ∈ u.tick.tasks ↔ k ∈ s.tick.tasks ∧ (k.admitted = true ∨ k.teams.testBit t = false))) ∧
  (∀ s : State,
    ((∀ x ∈ s.mp.slots, x.work ≠ .reset) ∨ s.mp.resetting = false ∨ s.tick.minW * 30000000 < s.tick.targetU → exec .resetRampDone s = .next s) ∧
    (∀ x ∈ s.mp.slots, x.work = .reset → s.mp.resetting = true → s.tick.targetU ≤ s.tick.minW * 30000000 →
      s.mp.slots.Pairwise (fun a b => a.sid ≠ b.sid) → ∃ u, exec .resetRampDone s = .next u ∧ u.mp.commit = none ∧ u.mp.resetting = true ∧
        u.mp.slots.map (·.sid) = s.mp.slots.map (·.sid) ∧ (∀ y ∈ u.mp.slots, y.work = .done) ∧
        ∀ k ∈ u.tick.tasks, ∀ y ∈ s.mp.slots, y.work ≠ .done → y.work ≠ .reset → k.sid ≠ y.sid) ∧
    (∀ x, s.mp.slots = [x] → x.work = .reset → s.mp.resetting = true → s.tick.targetU ≤ s.tick.minW * 30000000 →
      exec .resetRampDone s = .next (endedWith { s with mp := { s.mp with commit := none, commitExpired := false } } x 0 0 []))) ∧
  (∀ s : State,
    (∀ t, s.mp.resetAt = some t → t ≤ s.now → ∃ r, ResetTo s r 1 ∧ SamePins s r ∧ r.therm.tripped = s.therm.tripped ∧
      exec .resetEffect s = .next (mpStarted r)) ∧
    ((∀ t, s.mp.resetAt = some t → s.now < t) → exec .resetEffect s = .next s))

/-! ### The vector engine -/

/-- R190 to R211: each vector instruction of a thread that holds a context, with a valid encoding and a VL that its widths allow, completes with the
effect of Table 07.2; without a context, or at a VL that is too long, its thread stops. The model's choices (log 174): VEXT of a float T zero-extends,
a conversion of integers wraps, VLD reads the scratchpad with SPACE = 0 whatever READ_ONLY says; a VLD that waits keeps the elements that it has and asks
only for the others when it issues again (log 140). -/
def Obligations.VectorInstructions : Prop :=
  (∀ e ∈ vecTable, ∀ (r : VArgs) (s : State) (th : Thread), CanIssue s r.core.toNat r.thr.toNat th →
    (findCtx s r.core.toNat r.thr.toNat = none → exec (e.1 r) s = .next (stopThread s r.core.toNat r.thr.toNat 0x0740 0)) ∧
    ∀ x, findCtx s r.core.toNat r.thr.toNat = some x → e.2 = true → 4096 / ewOf r < x.vl →
      exec (e.1 r) s = .next (stopThread s r.core.toNat r.thr.toNat 0x0740 0)) ∧
  (∀ (r : VArgs) (s : State) (th : Thread) (c : Nat), c = r.core.toNat → CanIssue s c r.thr.toNat th → r.d = 0 → r.a = 0 → r.b = 0 → r.ew = 0 → r.s = false →
    r.t = 0 →
    (findCtx s c r.thr.toNat ≠ none → InCode s c (th.pc + 4) → ∃ u, exec (.vclaim r) s = .next u ∧ VecGoesOn s u r th) ∧
    (findCtx s c r.thr.toNat = none → (if slotShares s c then 4 else 8) ≤ (getCore s c).ctxs.length →
      ∃ u, exec (.vclaim r) s = .next u ∧ OnlyThread s u c r.thr.toNat { th with st := .blocked (.room .vector) }) ∧
    (findCtx s c r.thr.toNat = none → (getCore s c).ctxs.length < (if slotShares s c then 4 else 8) → InCode s c (th.pc + 4) →
      ∃ u, exec (.vclaim r) s = .next u ∧ VecGoesOn (onCore s c fun k => { k with
        ctxs := k.ctxs ++ [⟨r.thr.toNat, Vector.replicate 32 0, 128, Vector.replicate 4 0, 0, []⟩] }) u r th) ∧
    (∀ x, findCtx s c r.thr.toNat = some x → InCode s c (th.pc + 4) → ∃ u th', exec (.vrelease r) s = .next u ∧
      getThread u c r.thr.toNat = some th' ∧ ReadyAt th' (th.pc + 4) ∧ SameRegs th th' ∧
      (getCore u c).ctxs = (getCore s c).ctxs.filter (fun y => decide (y.owner ≠ r.thr.toNat)) ∧
      (∀ i o, i ≠ r.thr.toNat → getThread s c i = some o →
        getThread u c i = some (if o.st = .blocked (.room .vector) then { o with st := .ready, since := s.now } else o)) ∧
      (∀ k, k ≠ c → getCore u k = getCore s k) ∧ u = { s with tower := { s.tower with cores := u.tower.cores, slots := u.tower.slots } })) ∧
  (∀ (r : VArgs) (s : State) (th : Thread) (x : VCtx) (c : Nat), c = r.core.toNat → HasContext s c r.thr.toNat th x → InCode s c (th.pc + 4) →
    (r.b = 0 → r.s = false → r.t = 0 → ∃ u vl, exec (.vsetvl r) s = .next u ∧ vl = min (reg th r.a).toNat (4096 / ewOf r) ∧
      VecPutsReg (putCtx s c { x with vl := vl }) u r th (BitVec.ofNat 64 vl)) ∧
    (r.a = 0 → r.b = 0 → r.ew = 0 → r.t = 0 → ∃ u, exec (.vstat r) s = .next u ∧
      VecPutsReg (if r.s then putCtx s c { x with vstat := 0 } else s) u r th (BitVec.ofNat 64 x.vstat)) ∧
    (r.a.toNat < 4 → r.b = 0 → r.ew = 0 → r.s = false → r.t = 0 → ∃ u, exec (.vqmov r) s = .next u ∧
      VecPutsReg s u r th (x.q.toList.getD r.a.toNat 0)) ∧
    (r.d.toNat < 4 → r.b = 0 → r.ew = 0 → r.s = false → r.t = 0 → ∃ u y, exec (.vqset r) s = .next u ∧ VecGoesOn (putCtx s c y) u r th ∧
      y = { x with q := y.q } ∧ ∀ i, i < 4 → y.q.toList.getD i 0 = if i = r.d.toNat then reg th r.a else x.q.toList.getD i 0) ∧
    (r.b = 0 → r.s = false → r.t = 0 → x.vl ≤ 4096 / ewOf r → ∃ u y, exec (.vbcast r) s = .next u ∧ VecGoesOn (putCtx s c y) u r th ∧
      WritesElems x y r.d (ewOf r) (List.replicate x.vl (reg th r.a).toNat) ∧ y.vstat = x.vstat) ∧
    (r.s = false → vTy r.ew.toNat r.t.toNat ≠ none → x.vl ≤ 4096 / ewOf r → ∀ i, i = (reg th r.b).toNat →
      (i < x.vl → ∃ u, exec (.vext r) s = .next u ∧ VecPutsReg (putCtx s c x) u r th (
        if r.t = 0 then (BitVec.ofNat (ewOf r) (vGet x r.a.toNat (ewOf r) i)).signExtend 64 else BitVec.ofNat 64 (vGet x r.a.toNat (ewOf r) i))) ∧
      (x.vl ≤ i → ∃ u, exec (.vext r) s = .next u ∧ VecPutsReg (putCtx s c { x with vstat := x.vstat ||| 1 }) u r th 0))) ∧
  (∀ e ∈ permTable, ∀ (r : VArgs) (s : State) (th : Thread) (x : VCtx) (c : Nat), c = r.core.toNat → HasContext s c r.thr.toNat th x →
    InCode s c (th.pc + 4) → r.s = false → r.t = 0 → x.vl ≤ 4096 / ewOf r →
    ∃ u y, exec (e.1 r) s = .next u ∧ VecGoesOn (putCtx s c y) u r th ∧
      WritesElems x y r.d (ewOf r) ((List.range x.vl).map fun i => match e.2 r th x i with
        | some l => if l < x.vl then vGet x r.a.toNat (ewOf r) l else 0
        | none => 0) ∧
      y.vstat = x.vstat ||| (if ∃ i, i < x.vl ∧ ∃ l, e.2 r th x i = some l ∧ x.vl ≤ l then 1 else 0)) ∧
  (∀ e ∈ elemTable, ∀ (r : VArgs) (s : State) (th : Thread) (x : VCtx) (ty : VTy) (c : Nat) (rs : List FpRes), c = r.core.toNat →
    HasContext s c r.thr.toNat th x → InCode s c (th.pc + 4) → vTy r.ew.toNat r.t.toNat = some ty → vOpOk e.2.1 ty = true →
    (e.2.2 = false → r.b = 0 ∧ r.s = false) → x.vl ≤ 4096 / ewOf r →
    rs = (List.range x.vl).map (fun i => vElem ty (slotStrict s c 1) e.2.1 (vGet x r.a.toNat (ewOf r) i)
      (if r.s then (reg th r.b).toNat % 2 ^ ewOf r else vGet x r.b.toNat (ewOf r) i) (vGet x r.d.toNat (ewOf r) i)) →
    ∃ u y, exec (e.1 r) s = .next u ∧ VecGoesOn (putCtx s c y) u r th ∧ WritesElems x y r.d (ewOf r) (rs.map (·.bits)) ∧
      ((∀ q ∈ rs, vTyIsNan ty q.bits = false) ∨ vOpProduces e.2.1 = false → u.tower.nans = s.tower.nans) ∧
      ((∃ q ∈ rs, vTyIsNan ty q.bits = true) → vOpProduces e.2.1 = true → (getNode s c).suppress.nans = 0 →
        ∃ n, u.tower.nans = s.tower.nans ++ [n] ∧ n.hub = false ∧ n.src = c ∧ n.unit = 2) ∧
      (∀ i, i < 3 → (y.vstat.testBit i = (x.vstat.testBit i ||
        match i with | 1 => rs.any fun q => vTyIsNan ty q.bits | 2 => rs.any fun q => vTyIsInf ty q.bits | _ => false)))) ∧
  (∀ (r : VArgs) (s : State) (th : Thread) (x : VCtx) (src dst : VTy) (c : Nat), c = r.core.toNat → HasContext s c r.thr.toNat th x →
    InCode s c (th.pc + 4) → r.s = false → r.b.getLsbD 2 = false → vTy (r.b.toNat / 8) (r.b.toNat % 4) = some src → vTy r.ew.toNat r.t.toNat = some dst →
    x.vl ≤ 4096 / ewOf r → x.vl ≤ 4096 / (8 * 2 ^ (r.b.toNat / 8)) →
    ∃ u y, exec (.vcvt r) s = .next u ∧ VecGoesOn (putCtx s c y) u r th ∧
      WritesElems x y r.d (ewOf r) ((List.range x.vl).map fun i =>
        (vConvert src dst (slotStrict s c 1) (vGet x r.a.toNat (8 * 2 ^ (r.b.toNat / 8)) i)).bits)) ∧
  (∀ (r : VArgs) (s : State) (th : Thread) (x : VCtx) (ty : VTy) (c op q : Nat) (xs : List Nat), c = r.core.toNat → HasContext s c r.thr.toNat th x →
    InCode s c (th.pc + 4) → r.b = 0 → r.s = false → vTy r.ew.toNat r.t.toNat = some ty → x.vl ≤ 4096 / ewOf r → op = r.d.toNat / 4 → op ≤ 4 →
    q = r.d.toNat % 4 → xs = (List.range x.vl).map (vGet x r.a.toNat (ewOf r)) →
    ∃ u y, exec (.vred r) s = .next u ∧ VecGoesOn (putCtx s c y) u r th ∧ y = { x with q := y.q, vstat := y.vstat } ∧
      (∀ i, i < 4 → i ≠ q → qGet y i = qGet x i) ∧ (∀ w sg, ty = .int w sg → qGet y q = redInt w sg op (qGet x q) xs ∧ y.vstat = x.vstat) ∧
      (∀ f, ty = .flt f → x.vl = 0 → y = x) ∧
      ∀ f, ty = .flt f → x.vl ≠ 0 →
        qGet y q = (redFloat (slotStrict s c 1) op (qGet x q % 2 ^ 32) (xs.map (widen32 f (slotStrict s c 1)))).bits % 2 ^ 64) ∧
  (∀ (r : VArgs) (s : State) (th : Thread) (x : VCtx) (c n : Nat) (dev : Bool) (at_ : List (Nat × Nat)), c = r.core.toNat → HasContext s c r.thr.toNat th x →
    x.vl ≤ 4096 / ewOf r → r.s = false → n = ewOf r / 8 → dev = r.t.getLsbD 0 →
    at_ = (if reg th r.b = 0 then (if x.vl = 0 then [] else [(0, (reg th r.a).toNat)])
      else (List.range x.vl).map fun i => (i, (reg th r.a + BitVec.ofNat 64 i * reg th r.b).toNat)) →
    (∀ f, vAddrFault s c dev false n at_ = some f → exec (.vld r) s = .next (stopThread s c r.thr.toNat f.1 f.2)) ∧
    (∀ s1 bss on, vAddrFault s c dev false n at_ = none →
      threadReads c (r.t.getLsbD 1) ((at_.map fun a => ⟨dev, a.2, n⟩).drop x.got.length) s = (s1, bss, some on) →
      (∀ b, on = .inr b → exec (.vld r) s = .next (blockThread (putCtx s1 c { x with got := x.got ++ bss }) c r.thr.toNat b)) ∧
      (∀ a, on = .inl a → exec (.vld r) s = .next (stopThread s1 c r.thr.toNat 0x0740 a))) ∧
    (∀ s1 bss, vAddrFault s c dev false n at_ = none →
      threadReads c (r.t.getLsbD 1) ((at_.map fun a => ⟨dev, a.2, n⟩).drop x.got.length) s = (s1, bss, none) →
      HasContext s1 c r.thr.toNat th x → InCode s1 c (th.pc + 4) → (x.got ++ bss).length = at_.length → ∃ u y, exec (.vld r) s = .next u ∧
        VecGoesOn (putCtx s1 c y) u r th ∧ y.vstat = x.vstat ∧
        WritesElems { x with got := [] } y r.d (ewOf r)
          ((List.range x.vl).map fun i => leNat ((x.got ++ bss).getD (if reg th r.b = 0 then 0 else i) [])))) ∧
  (∀ (r : VArgs) (s : State) (th : Thread) (x : VCtx) (c n : Nat) (dev : Bool) (at_ : List (Nat × Nat)), c = r.core.toNat → HasContext s c r.thr.toNat th x →
    x.vl ≤ 4096 / ewOf r → r.s = false → r.t.getLsbD 1 = false → n = ewOf r / 8 → dev = r.t.getLsbD 0 →
    at_ = (if reg th r.b = 0 then (if x.vl = 0 then [] else [(x.vl - 1, (reg th r.a).toNat)])
      else (List.range x.vl).map fun i => (i, (reg th r.a + BitVec.ofNat 64 i * reg th r.b).toNat)) →
    (∀ f, vAddrFault s c dev true n at_ = some f → exec (.vst r) s = .next (stopThread s c r.thr.toNat f.1 f.2)) ∧
    (∀ s1 e, vAddrFault s c dev true n at_ = none →
      unitWrites c (at_.map fun a => (⟨dev, a.2, n⟩, leBytes n (vGet x r.d.toNat (ewOf r) a.1))) s = (s1, .error e) →
      exec (.vst r) s = .next (stopThread s1 c r.thr.toNat 0x0740 e)) ∧
    (∀ s1, vAddrFault s c dev true n at_ = none →
      unitWrites c (at_.map fun a => (⟨dev, a.2, n⟩, leBytes n (vGet x r.d.toNat (ewOf r) a.1))) s = (s1, .ok ()) →
      HasContext s1 c r.thr.toNat th x → InCode s1 c (th.pc + 4) → ∃ u, exec (.vst r) s = .next u ∧ VecGoesOn s1 u r th)) ∧
  (∀ (r : VArgs) (s : State) (th : Thread) (x : VCtx) (c off : Nat) (p : ElemProg) (temps : List (List Nat)), c = r.core.toNat →
    HasContext s c r.thr.toNat th x → r.d = 0 → r.b = 0 → r.ew = 0 → r.s = false → r.t = 0 → off = (reg th r.a).toNat →
    p = elemProg (spadRead s c off 176) → temps = (List.range x.vl).map (fun e => (elemTemps p (slotStrict s c 1) x e).1) →
    (off % 16 ≠ 0 ∨ scratchLen s c < off + 48 + 4 * p.nops ∨ elemOk p x.vl = false →
      exec (.vep r) s = .next (stopThread s c r.thr.toNat 0x0740 ((0xFF00000000000000 + off) % 2 ^ 64))) ∧
    (off % 16 = 0 → off + 48 + 4 * p.nops ≤ scratchLen s c → elemOk p x.vl = true → InCode s c (th.pc + 4) →
      ∃ u y, exec (.vep r) s = .next u ∧ VecGoesOn (putCtx s c y) u r th ∧ y = { x with v := y.v, q := y.q, vstat := y.vstat } ∧
        (p.redOp = 0 → y.q = x.q) ∧ (∀ k, k ∉ p.outReg.take p.nout → vReg y k = vReg x k) ∧
        ∀ o e, o < p.nout → e < x.vl → vGet y (p.outReg.getD o 0) (vTyBits (elemOut p (slotStrict s c 1) temps o).1) e =
          (((elemOut p (slotStrict s c 1) temps o).2.map (·.bits)).getD e 0) % 2 ^ vTyBits (elemOut p (slotStrict s c 1) temps o).1))

/-! ### Queued units -/

/-- R166, R169, R174, R176, R187, R225 to R233, R244, R263, R264: the head of a queue of the matrix, row or conversion unit runs when its slot is
served: a product or a drain, a row operation, a conversion. It leaves the queue with its effect, or fails and its thread stops. The model's choices:
an MMUL and the MDRAIN of another accumulator may pass each other (log 23), MSTAT and MFENCE take entries of the queue (log 26), a row descriptor with
another OP fails under whichever row is sent (log 27), the FAULT_ADDR of a range beyond the scratchpad (logs 30, 174). -/
def Obligations.UnitExecutions : Prop :=
  (∀ (core : BitVec 11) (s : State) (c : Nat), c = core.toNat →
    (unitServed s c = false ∨ (getCore s c).matq = [] → exec (.mmulExecute core) s = .next s ∧ exec (.mdrainExecute core) s = .next s) ∧
    ∀ e q, (getCore s c).matq = e :: q →
      (opAcc e.op = none → exec (.mmulExecute core) s = .next s ∧ exec (.mdrainExecute core) s = .next s) ∧
      ∀ mm a, opAcc e.op = some (mm, a) → (∀ x a', q.head? = some x → opAcc x.op = some (!mm, a') → a' = a) →
        exec (if mm then .mdrainExecute core else .mmulExecute core) s = .next s) ∧
  (∀ (core : BitVec 11) (s : State) (c acc a b g m n k i : Nat) (accum : Bool) (hd q : List (QEntry MatOp)) (e : QEntry MatOp) (da db : Option MatDesc)
    (rest : State → List (QEntry MatOp)), c = core.toNat →
    unitServed s c = true → (getCore s c).matq = hd ++ e :: q → e.op = .mmul acc accum a b g → i = hd.length →
    (hd = [] ∨ ∃ x o, hd = [x] ∧ opAcc x.op = some (false, o) ∧ o ≠ acc) →
    rest = (fun v => (((getCore v c).matq.take i ++ ((getCore v c).matq.drop (i + 1)).filter fun x => x.thr != e.thr).dropWhile fun x =>
      (opAcc x.op).isNone)) →
    da = readMatDesc s c a false → db = readMatDesc s c b false →
    m = g / 2 ^ 16 % 64 + 1 → n = g / 2 ^ 22 % 32 + 1 → k = g % 2 ^ 16 + 1 →
    (∀ f, mmulFault s c a b da db m n k = some f → TablesForm s →
      HeadFails (exec (.mmulExecute core) s) s c e.thr e.pc .matrix (inMatq · c) f fun u => (getCore u c).matq = rest s) ∧
    (∀ x y s1 r, da = some x → db = some y → mmulFault s c a b da db m n k = none → matTile s c x m k = (s1, r) → TablesForm s1 →
      (∀ z, r = .error z → HeadFails (exec (.mmulExecute core) s) s1 c e.thr e.pc .matrix (inMatq · c) (0x0740, z) fun u =>
        (getCore u c).matq = rest s1) ∧
      ∀ ra s2 r2, r = .ok ra → matTile s1 c y n k = (s2, r2) → TablesForm s2 →
        (∀ z, r2 = .error z → HeadFails (exec (.mmulExecute core) s) s2 c e.thr e.pc .matrix (inMatq · c) (0x0740, z) fun u =>
          (getCore u c).matq = rest s2) ∧
        ∀ rb, r2 = .ok rb → keysRise none (getCore s2 c).acc = true → ∃ v, v = { s2 with tower := { s2.tower with cores := v.tower.cores } } ∧
          getCore v c = { getCore s2 c with acc := (getCore v c).acc } ∧ (∀ x, x ≠ c → getCore v x = getCore s2 x) ∧
          (∀ i j, i < 64 → j < 32 → accAt (getCore v c) acc i j =
            if i < m ∧ j < n then matDot (if accum then accAt (getCore s2 c) acc i j else 0x80000000) (ra.getD i []) (rb.getD j []) % 2 ^ 32
            else accAt (getCore s2 c) acc i j) ∧
          (∀ o i j, o ≠ acc → i < 64 → j < 32 → accAt (getCore v c) o i j = accAt (getCore s2 c) o i j) ∧
          HeadLeaves (exec (.mmulExecute core) s) v c .matrix (inMatq · c) fun u =>
            (getCore u c).matq = ((getCore v c).matq.eraseIdx i).dropWhile fun x => (opAcc x.op).isNone)) ∧
  (∀ (core : BitVec 11) (s : State) (c acc off g m n i : Nat) (hd q : List (QEntry MatOp)) (e : QEntry MatOp) (d : Option MatDesc)
    (rest : State → List (QEntry MatOp)), c = core.toNat →
    unitServed s c = true → (getCore s c).matq = hd ++ e :: q → e.op = .mdrain acc off g → i = hd.length →
    (hd = [] ∨ ∃ x o, hd = [x] ∧ opAcc x.op = some (true, o) ∧ o ≠ acc) →
    rest = (fun v => (((getCore v c).matq.take i ++ ((getCore v c).matq.drop (i + 1)).filter fun x => x.thr != e.thr).dropWhile fun x =>
      (opAcc x.op).isNone)) →
    d = readMatDesc s c off true → m = g / 2 ^ 16 % 64 + 1 → n = g / 2 ^ 22 % 32 + 1 →
    (∀ f, mdrainFault s c off d m n = some f → TablesForm s →
      HeadFails (exec (.mdrainExecute core) s) s c e.thr e.pc .matrix (inMatq · c) f fun u => (getCore u c).matq = rest s) ∧
    (∀ x s1 r sh val cells, d = some x → mdrainFault s c off d m n = none → sh = (if x.strided then (n, m) else (m, n)) →
      val = (fun i j => drainElem x.fmt (fvMul (fpVal f32 (accAt (getCore s c) acc i j)) (fpVal f32 x.scale))) →
      cells = (List.range m).flatMap (fun i => (List.range n).map fun j => val i j) →
      unitWrites c ((matRanges x sh.1 sh.2).zip (((List.range sh.1).map fun p => (List.range sh.2).map fun q => if x.strided then val q p else val p q).map
        fun r => r.flatMap fun v => leBytes (fmtBits x.fmt / 8) v.1)) s = (s1, r) → TablesForm s1 →
      (∀ z, r = .error z → HeadFails (exec (.mdrainExecute core) s) s1 c e.thr e.pc .matrix (inMatq · c) (0x0740, z) fun u =>
        (getCore u c).matq = rest s1) ∧
      (r = .ok () → ∃ v, v = { s1 with tower := { s1.tower with cores := v.tower.cores, slots := v.tower.slots, nans := v.tower.nans } } ∧
        (∃ w, w = mstatAdd (getCore s1 c).stat.mstat (cells.filter (·.2)).length (cells.any fun v => fvIsNan (plainDecode x.fmt v.1))
            (cells.any fun v => match plainDecode x.fmt v.1 with | .inf _ => true | _ => false) ∧
          getCore v c = { getCore s1 c with stat := { (getCore s1 c).stat with mstat := w } }) ∧
        (∀ x, x ≠ c → getCore v x = getCore s1 x) ∧
        ((∀ v ∈ cells, fvIsNan (plainDecode x.fmt v.1) = false) → v.tower.nans = s1.tower.nans) ∧
        ((∃ v ∈ cells, fvIsNan (plainDecode x.fmt v.1) = true) → (getNode s1 c).suppress.nans = 0 →
          ∃ n, v.tower.nans = s1.tower.nans ++ [n] ∧ n.hub = false ∧ n.src = c ∧ n.unit = 1 ∧ n.wrote = s1.now) ∧
        HeadLeaves (exec (.mdrainExecute core) s) v c .matrix (inMatq · c) fun u =>
          (getCore u c).matq = ((getCore v c).matq.eraseIdx i).dropWhile fun x => (opAcc x.op).isNone))) ∧
  (∀ e ∈ rowTable, ∀ (team : BitVec 8) (s : State), rowNext s team.toNat = none ∨ (∃ k, k < 8 ∧ (getCore s (team.toNat * 8 + k)).rowBusy = true) →
    exec (e.1 team) s = .next s) ∧
  (∀ o ∈ rowTable, ∀ (team : BitVec 8) (s s0 : State) (k c : Nat) (e : QEntry Nat) (q : List (QEntry Nat)) (d : RowDesc) (readable : Prop),
    rowNext s team.toNat = some k → (∀ j, j < 8 → (getCore s (team.toNat * 8 + j)).rowBusy = false) → c = team.toNat * 8 + k →
    (getCore s c).rowq = e :: q → d = rowDesc (spadRead s c e.op 96) →
    readable = (e.op % 32 = 0 ∧ e.op + 96 ≤ scratchLen s c) → TablesForm s → s0 = onTeam s team.toNat (fun x => { x with rotor := k }) →
    (readable → d.op ≤ 5 → d.op ≠ o.2 → exec (o.1 team) s = .next s) ∧
    (¬ readable ∨ 5 < d.op ∨ d.op = o.2 →
      (∀ f, rowDescFault s0 c e.op d = some f →
        HeadFails (exec (o.1 team) s) s0 c e.thr e.pc .row (inRowq · c) f fun u => (getCore u c).rowq = q.filter fun x => x.thr != e.thr) ∧
      (rowDescFault s0 c e.op d = none → ∀ s1 r, rowLoop team.toNat c e d (slotStrict s c 2) (List.range d.rows) false s0 = (s1, r) → TablesForm s1 →
        (∀ x, r = some x → HeadFails (exec (o.1 team) s) s1 c e.thr e.pc .row (inRowq · c) (0x0740, x) fun u =>
          (getCore u c).rowq = q.filter fun x => x.thr != e.thr) ∧
        (r = none → accWaits s1 c false = false → HeadLeaves (exec (o.1 team) s) s1 c .row (inRowq · c) fun u => (getCore u c).rowq = q) ∧
        (r = none → accWaits s1 c false = true → exec (o.1 team) s = .next (onCore s1 c fun x => { x with rowBusy := true }))))) ∧
  (∀ o ∈ convTable, ∀ (core : BitVec 11) (s : State) (c : Nat), c = core.toNat →
    ((getCore s c).convq = [] ∨ unitServed s c = false ∨ (getCore s c).convBusy = true → exec (o.1 core) s = .next s) ∧
    ∀ e q, (getCore s c).convq = e :: q →
      (e.op.1 ≠ o.2 → exec (o.1 core) s = .next s) ∧
      (e.op.1 = o.2 → unitServed s c = true → (getCore s c).convBusy = false → TablesForm s →
        ∀ f, convFault s c e.op.2 o.2 (convDesc (spadRead s c e.op.2 64)) = some f →
          HeadFails (exec (o.1 core) s) s c e.thr e.pc .conv (inConvq · c) f fun u => (getCore u c).convq = q.filter fun x => x.thr != e.thr)) ∧
  (∀ (core : BitVec 11) (s : State) (c : Nat) (e : QEntry (ConvOp × Nat)) (q : List (QEntry (ConvOp × Nat))) (d : ConvDesc) (op : ConvOp)
    (fails : Host.Outcome State Fault Refusal → State → Nat → Prop) (ends : Host.Outcome State Fault Refusal → State → Prop), c = core.toNat →
    unitServed s c = true → (getCore s c).convBusy = false → (getCore s c).convq = e :: q → op = e.op.1 → d = convDesc (spadRead s c e.op.2 64) →
    convFault s c e.op.2 op d = none →
    fails = (fun o s1 x => TablesForm s1 → HeadFails o s1 c e.thr e.pc .conv (inConvq · c) (0x0740, x) fun u =>
      (getCore u c).convq = (getCore s1 c).convq.tail.filter fun x => x.thr != e.thr) →
    ends = (fun o v => (accWaits v c true = false → HeadLeaves o v c .conv (inConvq · c) fun u => (getCore u c).convq = (getCore v c).convq.tail) ∧
      (accWaits v c true = true → o = .next (onCore v c fun k => { k with convBusy := true }))) →
    (op = .camax → ∀ s1 r, camaxRows c d (List.range d.rows) none s = (s1, r) →
      (∀ x, r = .error x → fails (exec (.camaxExecute core) s) s1 x) ∧
      (r = .ok none → TablesForm s1 → ends (exec (.camaxExecute core) s) s1) ∧
      ∀ m s2 r2, r = .ok (some m) → memFmax s1 c d.amax m = (s2, r2) →
        (∀ x, r2 = .error x → fails (exec (.camaxExecute core) s) s2 x) ∧ (r2 = .ok () → TablesForm s2 → ends (exec (.camaxExecute core) s) s2)) ∧
    (op = .ccvt → ∀ s1 r1, (if isZb d.dstFmt then coreRead s c d.amax 4 else ((s, .ok []) : MRes (List Byte))) = (s1, r1) →
      (∀ x, r1 = .error x → fails (exec (.ccvtExecute core) s) s1 x) ∧
      ∀ ab te sees puts s2 r2, r1 = .ok ab → te = (if isZb d.dstFmt then tensorExp d.dstFmt (leNat ab) else (0, false)) →
        sees = (mBind (convProbe c .ccvt d (List.range d.rows) s1) fun v _ => unitProbe c ⟨true, d.scale, 4⟩ v) →
        puts = (fun v : State => mBind (ccvtRows c d te.1 (fpMag f32 (if te.2 then 0 else leNat ab)) (List.range d.rows) {} v) fun v m =>
          mBind (coreWrite v c d.scale (leBytes 4 (r32 (.fin false 1 te.1)))) fun v _ => ((v, .ok m) : MRes CcvtSum)) → sees = (s2, r2) →
        (∀ x, r2 = .error x → fails (exec (.ccvtExecute core) s) s2 x) ∧
        ∀ s3 r3, r2 = .ok () → puts s2 = (s3, r3) →
          (∀ x, r3 = .error x → fails (exec (.ccvtExecute core) s) (undoWrites s2 s3) x) ∧
          (∀ m, r3 = .ok m → TablesForm s3 → ∃ v, v = { s3 with
              tower := { s3.tower with cores := v.tower.cores, slots := v.tower.slots, nans := v.tower.nans }, watch := v.watch } ∧
            (∃ w, w = cstatAdd (getCore s3 c).stat.cstat m.count.sats (decide (0 < m.count.nonfinite)) (te.2 || m.clipped) m.count.poolFull ∧
              getCore v c = { getCore s3 c with stat := { (getCore s3 c).stat with cstat := w } }) ∧
            (∀ x, x ≠ c → getCore v x = getCore s3 x) ∧ (d.flags.testBit 2 = false → v.watch = s3.watch) ∧ (m.nan = none → v.tower.nans = s3.tower.nans) ∧
            ends (exec (.ccvtExecute core) s) v)) ∧
    (op = .cdec → ∀ s1 r1, coreRead s c d.scale 4 = (s1, r1) → (∀ x, r1 = .error x → fails (exec (.cdecExecute core) s) s1 x) ∧
      ∀ sb s2 r2, r1 = .ok sb → convProbe c .cdec d (List.range d.rows) s1 = (s2, r2) → (∀ x, r2 = .error x → fails (exec (.cdecExecute core) s) s2 x) ∧
        ∀ s3 r3, r2 = .ok () → cdecRows c d (if isZb d.srcFmt then fpVal f32 (leNat sb) else .fin false 1 0) (List.range d.rows) none s2 = (s3, r3) →
          (∀ x, r3 = .error x → fails (exec (.cdecExecute core) s) (undoWrites s2 s3) x) ∧
          ∀ nan, r3 = .ok nan → TablesForm s3 → ∃ v, v = { s3 with tower := { s3.tower with slots := v.tower.slots, nans := v.tower.nans } } ∧
            (nan = none → v = s3) ∧ ends (exec (.cdecExecute core) s) v))

/-- R212 to R222, R228 to R230, R233, R235 to R253: what the row engine and the conversion unit compute. Each row operation's elements, and the statistics that
it records, by Table 08.2 and R216 to R221; a row's checks, its reads, its write and its effects; and for CAMAX, CCVT and CDEC the largest magnitude, the
codes of each block with its exponents, and the decoded elements, row by row. The model's choices: a row counts in NANROW_CNT where all its outputs are NaN
(log 28), the pool's unused bytes hold a free value (Config.poolFill, log 8), and the soft maximum's backward pass narrows y before it uses it (log 38). -/
def Obligations.ElementResults : Prop :=
  (∀ (d : RowDesc) (strict : Bool) (recd : RowStat) (xs dys gam bet : List Nat) (mask : Nat → Bool) (o : RowOut) (zs : List (Option Nat)) (un : List Nat),
    o = rowCompute d strict recd xs dys gam bet mask → zs = (List.range xs.length).map (fun j => if mask j then none else some (rMul d.param (xs.getD j 0))) →
    un = zs.filterMap id → gam.length = xs.length → bet.length = xs.length →
    (d.op = 0 → o.outs.length = xs.length ∧ o.dgamma = [] ∧ o.dbeta = [] ∧ (d.mode = 1 → o.stat = recd) ∧
      (d.mode ≠ 1 →
        ((∃ v ∈ un, fpIsNan f32 v = true) → o.stat = ⟨0x7FC00000, 0x7FC00000, false, false, true, 0⟩) ∧
        ((∀ v ∈ un, fpIsNan f32 v = false) → (∀ v ∈ un, v = 0xFF800000) → o.stat = ⟨0xFF800000, 0, true, false, false, 0⟩) ∧
        ((∀ v ∈ un, fpIsNan f32 v = false) → (∃ v ∈ un, v ≠ 0xFF800000) → ∀ k m sum, k = un.count 0x7F800000 →
          m = un.foldl (fun a x => (fpMinMax f32 false true a x).bits) 0xFF800000 →
          sum = rSum strict (zs.map fun z => z.map fun v => rExp strict (rSub v m)) →
          o.stat = if k ≠ 0 then ⟨0x7F800000, rDiv true 0x3F800000 (rNat k), false, true, false, k - 1⟩
            else ⟨m, rDiv strict 0x3F800000 sum, false, false, false, 0⟩)) ∧
      ∀ j, j < xs.length → o.outs.getD j 0 = if o.stat.nanrow then 0x7FC00000 else if o.stat.empty then 0 else match zs.getD j none with
        | none => 0
        | some v => if o.stat.inf then (if v = 0x7F800000 then o.stat.stat1 else 0) else if v = 0xFF800000 then 0
          else rMul (rExp strict (rSub v o.stat.stat0)) o.stat.stat1) ∧
    (d.op = 1 → o.stat = recd ∧ o.dgamma = [] ∧ o.dbeta = [] ∧ (dys.length = xs.length → o.outs.length = xs.length) ∧ (dys.length = xs.length → ∀ (ys : List Nat) (g : Nat), ys.length = xs.length →
      (∀ j, j < xs.length → ∃ y, y = (rowCompute { d with op := 0, mode := 1 } strict recd xs dys gam bet mask).outs.getD j 0 ∧
        ys.getD j 0 = if d.outFmt = 0 then canon32 y else widen32 (rowFmt d.outFmt) false (fpCvt f32 (rowFmt d.outFmt) false y).bits) →
      g = rSum strict ((List.range xs.length).map fun j => if mask j then none else some (rMul (ys.getD j 0) (dys.getD j 0))) →
      ∀ j, j < xs.length → o.outs.getD j 0 = if recd.empty then 0 else if recd.nanrow then 0x7FC00000 else if mask j then 0
        else rMul (rMul (ys.getD j 0) (rSub (dys.getD j 0) g)) d.param)) ∧
    (d.op = 2 ∨ d.op = 4 → o.outs.length = xs.length ∧ o.dgamma = [] ∧ o.dbeta = [] ∧ (d.mode = 1 → o.stat = recd) ∧
      (d.mode ≠ 1 → ((∃ v ∈ xs, fpIsNan f32 v = true ∨ fpIsInf f32 v = true) → o.stat = ⟨0x7FC00000, 0x7FC00000, false, false, true, 0⟩) ∧
        ((∀ v ∈ xs, fpIsNan f32 v = false ∧ fpIsInf f32 v = false) → ∀ mu var, mu = rDiv strict (rSum strict (xs.map some)) (rNat xs.length) →
          var = rDiv strict (rSumSq strict (if d.op = 2 then xs.map fun x => rSub x mu else xs)) (rNat xs.length) →
          o.stat = ⟨if d.op = 2 then mu else 0, rRsqrt strict (rAdd var d.param), false, false, false, 0⟩)) ∧
      ∀ j n, j < xs.length → n = rMul (if d.op = 2 then rSub (xs.getD j 0) o.stat.stat0 else xs.getD j 0) o.stat.stat1 →
        o.outs.getD j 0 = if o.stat.nanrow then 0x7FC00000 else if d.op = 2 then rFma n (gam.getD j 0) (bet.getD j 0) else rMul n (gam.getD j 0)) ∧
    (d.op = 3 ∨ d.op = 5 → dys.length = xs.length → o.outs.length = xs.length ∧ o.dgamma.length = xs.length ∧ o.dbeta.length = xs.length ∧ o.stat = recd ∧
      ∀ (n g : Nat → Nat) (a b : Nat), (∀ j, n j = rMul (if d.op = 3 then rSub (xs.getD j 0) recd.stat0 else xs.getD j 0) recd.stat1) →
        (∀ j, g j = rMul (dys.getD j 0) (gam.getD j 0)) →
        a = (if d.op = 3 then rDiv strict (rSum strict ((List.range xs.length).map fun j => some (g j))) (rNat xs.length) else 0) →
        b = rDiv strict (rSum strict ((List.range xs.length).map fun j => some (rMul (g j) (n j)))) (rNat xs.length) →
        ∀ j, j < xs.length →
          (recd.nanrow = true → o.outs.getD j 0 = 0x7FC00000 ∧ o.dgamma.getD j 0 = 0x7FC00000 ∧ o.dbeta.getD j 0 = 0x7FC00000) ∧
          (recd.nanrow = false → o.outs.getD j 0 = rMul (rFma (rNeg (n j)) b (rSub (g j) a)) recd.stat1 ∧
            o.dgamma.getD j 0 = rMul (dys.getD j 0) (n j) ∧ o.dbeta.getD j 0 = dys.getD j 0))) ∧
  (∀ (xs : List (Option Nat)) (sq : List Nat), (rSum true xs = (xs.filterMap id).foldl rAdd 0) ∧ (rSumSq true sq = sq.foldl (fun a x => rFma x x a) 0) ∧
    (xs ≠ [] → xs.length ≤ 32 → xs.filterMap id ≠ [] →
      rSum false xs = r32 (fvAdd (fpVal f32 0) (blockSum ((xs.filterMap id).map (fpVal f32))))) ∧
    (sq ≠ [] → sq.length ≤ 32 → rSumSq false sq = r32 (fvAdd (fpVal f32 0) (blockSum (sq.map fun x => fvMul (fpVal f32 x) (fpVal f32 x)))))) ∧
  (∀ (s : State) (team c r : Nat) (e : QEntry Nat) (d : RowDesc) (strict seen : Bool) (rs : List Nat), rowLoop team c e d strict [] seen s = (s, none) ∧
    ∀ s1 q, rowStep s team c e d strict r seen = (s1, q) →
      (∀ x, q = .error x → rowLoop team c e d strict (r :: rs) seen s = (s1, some x)) ∧
      (∀ b, q = .ok b → rowLoop team c e d strict (r :: rs) seen s = rowLoop team c e d strict rs b s1)) ∧
  (∀ (s s0 : State) (team c r i : Nat) (e : QEntry Nat) (d : RowDesc) (strict seen : Bool) (uses reads : Prop), i = d.recBase + r →
    uses = (d.op % 2 = 1 ∨ d.mode ≠ 2) → reads = (d.op % 2 = 1 ∨ d.mode = 1) →
    (uses → 16384 ≤ i → s0 = rstatOn s c false false false true 0 0) → ((uses → i < 16384) → s0 = s) →
    (uses → recCapacity s team ≤ i → rowStep s team c e d strict r seen = (s, .error (0xFE00000000000000 + i))) ∧
    (uses → i < recCapacity s team → 16384 ≤ i → recPlace s team i / 32 ∈ s.mem.badNm →
      rowStep s team c e d strict r seen = nmUeAt s0 (recPlace s team i)) ∧
    ((uses → i < recCapacity s team) → (uses → 16384 ≤ i → recPlace s team i / 32 ∉ s.mem.badNm) →
      (reads → (recGet s team i).flags % 8 ≠ d.op / 2 + 1 ∨ (recGet s team i).tensor ≠ d.tensor →
        rowStep s team c e d strict r seen = (s0, .error (0xFE00000000000000 + i))) ∧
      ((reads → (recGet s team i).flags % 8 = d.op / 2 + 1 ∧ (recGet s team i).tensor = d.tensor) →
        (∀ s1 x, rowInputs s0 c d r = (s1, .error x) → rowStep s team c e d strict r seen = (s1, .error x)) ∧
        ∀ (s1 s2 : State) (bss : List (List Byte)) (o : RowOut) (f : FpFmt) (w : Nat) (ys : List Nat) (q : Except Nat Unit),
          rowInputs s0 c d r = (s1, .ok bss) → f = rowFmt d.outFmt → w = (if d.outFmt = 0 then 4 else 2) →
          o = rowCompute d strict (recStat (recGet s team i)) (rowVals d.inFmt (bss.getD 0 []) d.n)
            (if d.op % 2 = 1 then rowVals d.inFmt (bss.getD 1 []) d.n else [])
            (if d.gamma = 0 then List.replicate d.n 0x3F800000 else rowVals 0 (bss.getD 2 []) d.n)
            (if d.op = 2 ∧ d.betaDg ≠ 0 then rowVals 0 (bss.getD 3 []) d.n else List.replicate d.n 0) (rowMasked d (bss.getD 4 []) r) →
          ys = o.outs.map (fun v => if d.outFmt = 0 then canon32 v else (fpCvt f32 f false v).bits) →
          unitWrite s1 c ⟨d.dev, d.y + r * d.ld, d.n * w⟩ (ys.flatMap (leBytes w)) = (s2, q) →
          (∀ x, q = .error x → rowStep s team c e d strict r seen = (s2, .error x)) ∧
          (q = .ok () → TablesForm s2 → smWf emptyRec (getTeam s2 team).side = true → smWf emptyRec (getTeam s2 team).ovf = true →
            ∃ v, v = { s2 with tower := v.tower } ∧ recGet v team i = (if d.op % 2 = 0 ∧ d.mode = 0 then statRec d o.stat else recGet s2 team i) ∧
            (∀ t j, t ≠ team ∨ j ≠ i → recGet v t j = recGet s2 t j) ∧ (∀ k, k ≠ c → getCore v k = getCore s2 k) ∧
            (∃ n, n = (if d.op = 0 ∧ d.mode ≠ 1 ∧ o.stat.empty = true then 1 else 0) ∧ getCore v c = { getCore s2 c with stat := { (getCore s2 c).stat with
              rstat := rstatAdd (getCore s2 c).stat.rstat (ys.any (fpIsNan f)) (ys.any (fpIsInf f)) (n == 1) false n (b2n (ys.all (fpIsNan f))) } }) ∧
            (seen = true ∨ ys.any (fpIsNan f) = false → v.tower.nans = s2.tower.nans) ∧
            rowStep s team c e d strict r seen =
              mBind (if (d.op = 3 ∨ d.op = 5) ∧ d.betaDg ≠ 0 then rowAdds c d.betaDg o.dgamma 0 v else (v, .ok ())) fun v1 _ =>
                mBind (if d.op = 3 ∧ d.maskDb ≠ 0 then rowAdds c d.maskDb o.dbeta 0 v1 else (v1, .ok ())) fun v2 _ =>
                  (v2, .ok (seen || ys.any (fpIsNan f))))))) ∧
  (∀ (s : State) (c base x j : Nat) (vs : List Nat), rowAdds c base [] j s = (s, .ok ()) ∧
    (0 < (getNode s c).suppress.tadds → rowAdds c base (x :: vs) j s =
      rowAdds c base vs (j + 1) (onNode s c fun n => { n with suppress := { n.suppress with tadds := n.suppress.tadds - 1 } })) ∧
    ((getNode s c).suppress.tadds = 0 → ∀ s1 q, memTadd s c (base + 4 * j) x = (s1, q) →
      (∀ e, q = .error e → rowAdds c base (x :: vs) j s = (s1, .error e)) ∧
      (q = .ok () → rowAdds c base (x :: vs) j s =
        rowAdds c base vs (j + 1) (onNode s1 c fun n => { n with eff := { n.eff with tadds := n.eff.tadds + 1 } })))) ∧
  (∀ (s s1 : State) (c r : Nat) (d : ConvDesc) (rs : List Nat) (m : Option Nat) (q : Except Nat (List Byte)), camaxRows c d [] m s = (s, .ok m) ∧
    (unitRead s c ⟨d.flags.testBit 0, d.src + r * d.srcLd, d.cols * (fmtBits d.srcFmt / 8)⟩ false = (s1, q) →
      (∀ x, q = .error x → camaxRows c d (r :: rs) m s = (s1, .error x)) ∧
      ∀ bs xs, q = .ok bs → xs = (List.range d.cols).map (fun j => plainDecode d.srcFmt (getLe bs (j * (fmtBits d.srcFmt / 8)) (fmtBits d.srcFmt / 8))) →
        ∃ m', camaxRows c d (r :: rs) m s = camaxRows c d rs m' s1 ∧
          (m' = none ↔ m = none ∧ ∀ x ∈ xs, fvIsFin x = false) ∧
          ∀ v, m' = some v → (∀ x ∈ xs, fvIsFin x = true → fpMag f32 (r32 (fvAbs x)) ≤ v) ∧ (∀ n, m = some n → n ≤ v) ∧
            (m = some v ∨ ∃ x ∈ xs, fvIsFin x = true ∧ v = fpMag f32 (r32 (fvAbs x))))) ∧
  (∀ (s s1 s2 : State) (c r amax : Nat) (t : Int) (d : ConvDesc) (rs : List Nat) (m : CcvtSum) (q : Except Nat (List Byte)) (q2 : Except Nat Unit)
    (xs : List FVal) (o : List Byte × ConvCount), ccvtRows c d t amax [] m s = (s, .ok m) ∧
    (unitRead s c ⟨d.flags.testBit 0, d.src + r * d.srcLd, d.cols * (fmtBits d.srcFmt / 8)⟩ false = (s1, q) →
      (∀ x, q = .error x → ccvtRows c d t amax (r :: rs) m s = (s1, .error x)) ∧
      ∀ bs, q = .ok bs → xs = (List.range d.cols).map (fun j => plainDecode d.srcFmt (getLe bs (j * (fmtBits d.srcFmt / 8)) (fmtBits d.srcFmt / 8))) →
        o = convRow ⟨d.dstFmt, d.log2, d.escMax, d.outShift, d.pool, d.cols⟩ t (fun _ => none) xs →
        unitWrite s1 c (convDstRow .ccvt d r) o.1 = (s2, q2) →
        (∀ x, q2 = .error x → ccvtRows c d t amax (r :: rs) m s = (s2, .error x)) ∧
        (q2 = .ok () → ∃ m', ccvtRows c d t amax (r :: rs) m s = ccvtRows c d t amax rs m' s2 ∧ m'.count = m.count.add o.2 ∧
          (m'.clipped = true ↔ m.clipped = true ∨ (isZb d.dstFmt = true ∧ ∃ x ∈ xs, fvIsFin x = true ∧ magLt (fpVal f32 amax) x = true)) ∧
          m'.nan = (m.nan <|> ((rowElems d.dstFmt d.log2 (bytesAt o.1) o.1.length d.cols).findIdx? fvIsNan).map fun j => r * 2 ^ 32 + j)))) ∧
  (∀ (s s1 s2 : State) (c r : Nat) (d : ConvDesc) (S : FVal) (rs : List Nat) (m : Option Nat) (q : Except Nat (List Byte)) (q2 : Except Nat Unit) (f : FpFmt)
    (vs : List Nat), cdecRows c d S [] m s = (s, .ok m) ∧
    (unitRead s c (convSrcRow .cdec d r) false = (s1, q) → (∀ x, q = .error x → cdecRows c d S (r :: rs) m s = (s1, .error x)) ∧
      ∀ bs, q = .ok bs → f = (if d.dstFmt = 0 then f32 else bf16) →
        vs = (rowElems d.srcFmt d.log2 (bytesAt bs) bs.length d.cols).map (fun v => (fpOfVal f (fvMul v S)).bits) →
        unitWrite s1 c ⟨d.flags.testBit 1, d.dst + r * d.dstLd, d.cols * (fmtBits d.dstFmt / 8)⟩ (vs.flatMap (leBytes (fmtBits d.dstFmt / 8))) = (s2, q2) →
        (∀ x, q2 = .error x → cdecRows c d S (r :: rs) m s = (s2, .error x)) ∧
        (q2 = .ok () → cdecRows c d S (r :: rs) m s = cdecRows c d S rs (m <|> (vs.findIdx? (fpIsNan f)).map fun j => r * 2 ^ 32 + j) s2))) ∧
  (∀ (fmt log2 n off rowEnd B hw ew : Nat) (row : Nat → Nat → Nat) (code : Nat → Nat) (l : List FVal), l = decodeBlock fmt log2 n row off rowEnd → B = 2 ^ log2 →
    hw = row off 4 → (∀ i, code i = row (off + 4) (B * fmtBits fmt / 8) / 2 ^ (fmtBits fmt * i) % 2 ^ fmtBits fmt) → ew = (if fmt = 11 then 4 else 2) →
    l.length = B ∧
    (5 ≤ fmt → fmt ≤ 10 → ∀ i, i < B → l.getD i .nan = if hw % 256 = 255 then .nan else fvScale ((hw % 256 : Nat) - 127 : Int) (mxElem fmt (code i))) ∧
    (fmt ∈ [11, 12, 13] → ∀ esc tag count side bad, esc = (fun i => code i = 2 ^ (fmtBits fmt - 1)) → tag = hw / 256 % 4 → count = hw / 1024 % 8 →
      side = hw / 8192 % 2 ^ 19 →
      bad = (tag = 3 ∨ 4 < count ∨ count < ((List.range (min n B)).filter fun i => code i = 2 ^ (fmtBits fmt - 1)).length ∨
        (count ≠ 0 ∧ rowEnd < off + 4 * side + ew * count)) →
      ∀ i, i < B → (bad ∨ tag = 2 → l.getD i .nan = .nan) ∧ (¬ bad → tag = 1 → l.getD i .nan = .fin false 0 0) ∧
        (¬ bad → tag = 0 → ¬ esc i → l.getD i .nan = fvScale (sgn 8 (hw % 256)) (gridDecode fmt (code i))) ∧
        (¬ bad → tag = 0 → esc i → ∀ k, k = ((List.range i).filter fun i => code i = 2 ^ (fmtBits fmt - 1)).length →
          l.getD i .nan = if k < count then fpVal (if fmt = 11 then f32 else bf16) (row (off + 4 * side + ew * k) ew) else .nan))) ∧
  (∀ (fmt log2 rowEnd cols j B : Nat) (row : Nat → Nat → Nat), B = 2 ^ log2 → j < cols → (rowElems fmt log2 row rowEnd cols).getD j .nan =
    if isBlockFmt fmt then (decodeBlock fmt log2 (min B (cols - j / B * B)) row (j / B * recBytes fmt log2) rowEnd).getD (j % B) .nan
    else plainDecode fmt (row (j * (fmtBits fmt / 8)) (fmtBits fmt / 8))) ∧
  (∀ (fmt w : Nat) (bad : Prop), bad = (fpIsNan f32 w = true ∨ fpIsInf f32 w = true ∨ (w.testBit 31 = true ∧ fpIsZero f32 w = false)) → w < 2 ^ 32 →
    (bad → tensorExp fmt w = (0, true)) ∧ (¬ bad → fpIsZero f32 w = true → tensorExp fmt w = (0, false)) ∧
    (¬ bad → fpIsZero f32 w = false → ∃ t : Int, tensorExp fmt w = (max (-126) (min 127 t), false) ∧
      magLt (fvScale t (maxVal fmt)) (fpVal f32 w) = false ∧ magLt (fvScale (t - 1) (maxVal fmt)) (fpVal f32 w) = true)) ∧
  (∀ (fmt : Nat) (xs : List FVal) (o : List Byte × ConvCount) (rec_ : Nat → List Nat → List Byte), o = mxBlock fmt xs → xs.length ≤ 32 →
    (rec_ = fun e8 codes => leBytes 4 e8 ++ leBytes (32 * fmtBits fmt / 8) (packCodes (fmtBits fmt) (codes ++ List.replicate (32 - codes.length) 0))) →
    ((∃ x ∈ xs, fvIsFin x = false) → o.1 = rec_ 255 (xs.map fun _ => 0) ∧ o.2.nonfinite = (xs.filter fun x => !fvIsFin x).length ∧ o.2.zeros = 0) ∧
    ((∀ x ∈ xs, fvIsFin x = true) → (∀ x ∈ xs, fvIsZero x = true) → o.1 = rec_ 0x7F (xs.map fun _ => 0) ∧ o.2.zeros = xs.length) ∧
    ((∀ x ∈ xs, fvIsFin x = true) → ∀ a ∈ xs, fvIsZero a = false → (∀ x ∈ xs, magLt a x = false) → ∀ X : Int,
      X = max (-127) (min 127 (ratLog2 (magQ a).1 (magQ a).2 - mxEmax fmt)) → o.1 = rec_ (X + 127).toNat (xs.map fun x => (mxEncode fmt X x).1) ∧
        o.2.sats = (xs.filter fun x => (mxEncode fmt X x).2).length) ∧
    o.2.elements = xs.length) ∧
  (∀ (fmt n : Nat) (X : Int) (neg : Bool) (m : Nat) (e : Int),
    (fmt = 10 → n = rneInt m (e - X + 6) → mxEncode 10 X (.fin neg m e) = (wrapN 8 (if neg then -(min n 127 : Nat) else (min n 127 : Nat) : Int), decide (127 < n))) ∧
    (fmt ≠ 10 → n = (gridRound (gridOf fmt).1 (gridQmin fmt) .near (dyNum m (e - X)) (dyDen (e - X))).1 →
      mxEncode fmt X (.fin neg m e) = (min n (gridMax fmt) + (if neg then 2 ^ (fmtBits fmt - 1) else 0), decide (gridMax fmt < n)))) ∧
  (∀ (xs : List FVal) (at' : Nat → FVal), (at' = fun i => xs.getD i .nan) → (ranked xs).Nodup ∧ (∀ i, i ∈ ranked xs ↔ i < xs.length ∧ fvIsFin (at' i) = true) ∧
    (ranked xs).Pairwise fun i j => magLt (at' i) (at' j) = false ∧ (magLt (at' j) (at' i) = true ∨ i < j)) ∧
  (∀ (p : ConvParams) (T : Int) (room : Nat) (xs : List FVal) (b : ZbBlock) (at' : Nat → FVal) (thr : FVal) (cand left esc : List Nat),
    b = zbBlock p T room (fun _ => none) xs → (at' = fun i => xs.getD i .nan) →
    thr = fvScale p.outShift (fvAbs (((ranked xs)[p.escMax]?.map at').getD (.fin false 0 0))) →
    cand = ((List.range xs.length).filter fun i => !fvIsFin (at' i)) ++ (((ranked xs).take p.escMax).filter fun i => magLt thr (at' i)) →
    left = cand.drop (min p.escMax room) → esc.Perm (cand.take (min p.escMax room)) → esc.Pairwise (· < ·) →
    b.count.elements = xs.length ∧
    ((∀ x ∈ xs, fvIsZero x = true) → b.tag = 1 ∧ b.exp = 0 ∧ b.sides = [] ∧ b.codes = xs.map (fun _ => 0) ∧ b.count.zeros = xs.length) ∧
    ((∃ x ∈ xs, fvIsZero x = false) → (∃ i ∈ left, at' i = .nan) → b.tag = 2 ∧ b.exp = 0 ∧ b.sides = [] ∧ b.codes = xs.map (fun _ => 0)) ∧
    ((∃ x ∈ xs, fvIsZero x = false) → (∀ i ∈ left, at' i ≠ .nan) → b.tag = 0 ∧ b.codes.length = xs.length ∧
      b.sides = esc.map (fun i => (fpOfVal (if p.fmt = 11 then f32 else bf16) (fvScale (-T) (at' i))).bits) ∧
      (∀ i, i < xs.length →
        (i ∈ esc → b.codes.getD i 0 = 2 ^ (fmtBits p.fmt - 1)) ∧
        (i ∉ esc → i ∈ left → b.codes.getD i 0 = gridMax p.fmt + if fvNegSign (at' i) then 2 ^ (fmtBits p.fmt - 1) else 0) ∧
        (i ∉ cand → b.codes.getD i 0 = (encodeZb p.fmt none (T + b.exp) (at' i)).1)) ∧
      ((∀ i, i < xs.length → i ∉ cand → fvIsZero (at' i) = true) → b.exp = 0) ∧
      (∀ i, i < xs.length → i ∉ cand → fvIsZero (at' i) = false → (∀ j, j < xs.length → j ∉ cand → magLt (at' i) (at' j) = false) →
        ∃ t : Int, b.exp = max (-127) (min 127 t) ∧ magLt (fvScale (T + t) (maxVal p.fmt)) (at' i) = false ∧
          magLt (fvScale (T + t - 1) (maxVal p.fmt)) (at' i) = true))) ∧
  (∀ (fmt : Nat) (k : Int) (neg : Bool) (m : Nat) (e : Int), encodeZb fmt none k (.fin neg m e) =
      if magLt (maxVal fmt) (.fin false m (e - k)) then (gridMax fmt + if neg then 2 ^ (fmtBits fmt - 1) else 0, true)
      else (if (gridRound (gridOf fmt).1 (gridQmin fmt) .near (dyNum m (e - k)) (dyDen (e - k))).1 = 0 then 0
         else (gridRound (gridOf fmt).1 (gridQmin fmt) .near (dyNum m (e - k)) (dyDen (e - k))).1 + if neg then 2 ^ (fmtBits fmt - 1) else 0, false)) ∧
  (∀ (p : ConvParams) (T : Int) (xs : List FVal) (blocks : List (List FVal)) (o : List Byte × ConvCount), o = convRow p T (fun _ => none) xs →
    blocks = chunksOf (2 ^ p.log2) (xs.length + 1) xs → blocks.flatten = xs ∧ (∀ b ∈ blocks, b ≠ [] ∧ b.length ≤ 2 ^ p.log2) ∧
    (isZb p.fmt = false → o.1 = blocks.flatMap (fun b => (mxBlock p.fmt b).1) ∧ o.2.elements = xs.length) ∧
    (isZb p.fmt = true → ∃ r fill, r = zbBlocks p T (fun _ => none) blocks.length 0 0 blocks ∧ o = (r.1 ++ r.2.1 ++ fill, r.2.2) ∧
      fill.length = 4 * p.poolWords - r.2.1.length)) ∧
  (∀ (p : ConvParams) (T : Int) (nb i used B room off : Nat) (xs : List FVal) (rest : List (List FVal)) (b : ZbBlock) (o q : List Byte × List Byte × ConvCount),
    B = 2 ^ p.log2 → room = (if p.fmt = 11 then 1 else 2) * (p.poolWords - used) → b = zbBlock p T room (fun _ => none) xs →
    o = zbBlocks p T (fun _ => none) nb i used (xs :: rest) →
    q = zbBlocks p T (fun _ => none) nb (i + 1) (used + if p.fmt = 11 then b.sides.length else (b.sides.length + 1) / 2) rest →
    off = (if b.sides = [] then 0 else (nb * recBytes p.fmt p.log2 + 4 * used - i * recBytes p.fmt p.log2) / 4) →
    o.1 = leBytes 4 (wrapN 8 b.exp + 256 * b.tag + 1024 * b.sides.length + 8192 * off) ++
      leBytes (B * fmtBits p.fmt / 8) (packCodes (fmtBits p.fmt) (b.codes ++ List.replicate (B - b.codes.length) 0)) ++ q.1 ∧
    o.2.2 = b.count.add q.2.2 ∧ ∃ pad, o.2.1 = (b.sides.flatMap fun v => leBytes (if p.fmt = 11 then 4 else 2) v) ++ pad ++ q.2.1)

/-- R323, R325 to R329, R346 to R351, R414, R415: the activation stacks' instructions, their spills and refills, PSEND and NWRITE: each waits, fails, is
suppressed by a replay, or is applied. The model's choices: SPILL_REFILL_DONE ends a wait (log 32), a frame's header holds free bytes (log 165), a PSEND
reads its whole source first (log 43), a replayed NWRITE adopts the transfer in flight (log 89), and an NWRITE's packets have InfiniBand's numbers
(log 11, PRESUMED). -/
def Obligations.StackSendAndWrite : Prop :=
  (∀ (core : BitVec 11) (s : State) (c : Nat) (x : TeamSt), c = core.toNat → x = getTeam s (c / 8) →
    stkOf s c = [] ∨ unitServed s c = false ∨ (x.waiting = true ∧ (x.moved = false ∨ x.stkq.head?.map (·.1) ≠ some c)) →
    exec (.stackApply core) s = .next s) ∧
  (∀ (core : BitVec 11) (s : State) (c team : Nat) (e : QEntry StkOp) (es : List (Nat × QEntry StkOp)) (x : TeamSt) (gone : TeamSt → TeamSt), c = core.toNat →
    team = c / 8 → x = getTeam s team → stkOf s c = (c, e) :: es → unitServed s c = true → TablesForm s →
    (x.waiting = false ∨ (x.moved = true ∧ x.stkq.head?.map (·.1) = some c)) →
    gone = (fun y => { y with stkq := y.stkq.filter (fun z => !(z.1 == c && z.2.thr == e.thr)), waiting := false, moved := false }) →
    (0 < (getNode s c).suppress.stackOps → ∀ v w r, v = onNode s c (fun n => { n with suppress := { n.suppress with
        stackOps := n.suppress.stackOps - 1
        stackRes := n.suppress.stackRes.tail } }) →
      stkDeliver v c e.thr e.op ((getNode s c).suppress.stackRes.headD 0) = (w, r) → TablesForm w →
      (r = .ok () → HeadLeaves (exec (.stackApply core) s) w c .stack (inStkq · c) fun u =>
        getTeam u team = { getTeam w team with stkq := dropFirst c (getTeam w team).stkq, waiting := false, moved := false }) ∧
      (∀ a, r = .error a → HeadFails (exec (.stackApply core) s) w c e.thr e.pc .stack (inStkq · c) (0x0740, a) fun u =>
        getTeam u team = gone x)) ∧
    ((getNode s c).suppress.stackOps = 0 →
      (∀ f, stkFault s c e.op = some f → HeadFails (exec (.stackApply core) s) s c e.thr e.pc .stack (inStkq · c) f fun u => getTeam u team = gone x) ∧
      (stkFault s c e.op = none → stkMustWait s c e.op = true → ∃ v, OnlyTeam s v team { x with
          waiting := true
          moved := false
          stkq := (c, e) :: dropFirst c x.stkq } ∧
        exec (.stackApply core) s = .next
          { v with mem := { v.mem with cnt := { v.mem.cnt with asWait := min (v.mem.cnt.asWait + 1) (2 ^ 32 - 1) } } }) ∧
      (stkFault s c e.op = none → stkMustWait s c e.op = false → ∀ off d s1 a, e.op = .push off → readStkDesc s c off = some d →
        unitRead s c ⟨d.flags.testBit 0, d.addr, d.len⟩ false = (s1, .error a) → TablesForm s1 →
        HeadFails (exec (.stackApply core) s) s1 c e.thr e.pc .stack (inStkq · c) (0x0740, a) fun u => getTeam u team = gone (getTeam s1 team)) ∧
      (stkFault s c e.op = none → stkMustWait s c e.op = false → ∀ a, nearBad s team (stkReads x e.op).1 (stkReads x e.op).2 = some a →
        HeadFails (exec (.stackApply core) s) { s with mem := { s.mem with cnt := { s.mem.cnt with nmUe := min (s.mem.cnt.nmUe + 1) (2 ^ 32 - 1) } } } c
          e.thr e.pc .stack (inStkq · c) (0x0740, 0xFB00000000000000 + a) fun u => getTeam u team = gone x) ∧
      (stkFault s c e.op = none → stkMustWait s c e.op = false → nearBad s team (stkReads x e.op).1 (stkReads x e.op).2 = none → ∀ s1 bs tag s2 y r,
        (∀ off d, e.op = .push off → readStkDesc s c off = some d → unitRead s c ⟨d.flags.testBit 0, d.addr, d.len⟩ false = (s1, .ok bs) ∧ tag = d.tag) →
        ((∀ off, e.op ≠ .push off) → s1 = s ∧ bs = [] ∧ tag = 0) → y = stkChange s1 team e.op bs tag (getTeam s1 team) →
        stkDeliver s1 c e.thr e.op y.2 = (s2, r) → getTeam s2 team = getTeam s1 team → TablesForm s1 → TablesForm s2 →
        (∀ a, r = .error a → HeadFails (exec (.stackApply core) s) s2 c e.thr e.pc .stack (inStkq · c) (0x0740, a) fun u =>
          getTeam u team = gone (getTeam s1 team)) ∧
        (∀ lo hi, lo = (getTeam s1 team).used - (getTeam s1 team).near → hi = y.1.used - y.1.near → r = .ok () → ∃ w, w = { s2 with
            tower := { s2.tower with teams := w.tower.teams }
            mem := { s2.mem with badNm := (nearHeal s2 team (getTeam s1 team).used y.1.used).mem.badNm } } ∧
          (∀ k, k ≠ team → getTeam w k = getTeam s2 k) ∧ getTeam w team = y.1 ∧
          (hi ≤ lo → ∃ v, OnlyNode w v c { getNode w c with eff := { (getNode w c).eff with
              stackOps := (getNode w c).eff.stackOps + 1
              stackRes := (getNode w c).eff.stackRes ++ [y.2] } } ∧
            HeadLeaves (exec (.stackApply core) s) v c .stack (inStkq · c) fun u =>
              getTeam u team = { y.1 with stkq := dropFirst c y.1.stkq, waiting := false, moved := false }) ∧
          (lo < hi → ∀ z, z = (memWrite { w with draws := w.draws + 1 } (extentPlace w team + lo)
              (((stackImage w.draws 0 y.1.frames.reverse).drop lo).take (hi - lo))).1 → TablesForm z →
            ∃ v, OnlyNode z v c { getNode z c with eff := { (getNode z c).eff with
              stackOps := (getNode z c).eff.stackOps + 1
              stackRes := (getNode z c).eff.stackRes ++ [y.2] } } ∧
            HeadLeaves (exec (.stackApply core) s) v c .stack (inStkq · c) fun u =>
              getTeam u team = { getTeam z team with stkq := dropFirst c (getTeam z team).stkq, waiting := false, moved := false }))))) ∧
  (∀ (s : State) (team tag : Nat) (bs : List Byte) (x : TeamSt) (near : Nat), near = stackNear s team →
    (∀ off, stkChange s team (.push off) bs tag x = ({ x with
      frames := .data tag bs :: x.frames
      used := x.used + (64 + roundUp bs.length 64)
      near := min (x.near + (64 + roundUp bs.length 64)) near }, 0)) ∧
    (∀ tg user, stkChange s team (.mark tg user) bs tag x = ({ x with
      frames := .mark tg user :: x.frames
      used := x.used + 64
      near := min (x.near + 64) near }, 0)) ∧
    (∀ off tg data fs, x.frames = .data tg data :: fs →
      stkChange s team (.peek off) bs tag x = (x, leNat data) ∧
      stkChange s team (.pop off) bs tag x = ({ x with
        frames := fs
        used := x.used - (64 + roundUp data.length 64)
        held := x.held + (64 + roundUp data.length 64)
        near := x.near - (64 + roundUp data.length 64) }, leNat data)) ∧
    (∀ d t tg user fs, x.frames = .mark tg user :: fs → stkChange s team (.unmark d t) bs tag x = ({ x with
      frames := fs
      used := x.used - 64
      held := x.held + 64
      near := x.near - 64 }, user)) ∧
    (∀ d, stkChange s team (.used d) bs tag x = (x, x.used))) ∧
  (∀ (team : BitVec 8) (s : State) (t : Nat) (x : TeamSt) (near : Nat), t = team.toNat → x = getTeam s t → near = stackNear s t → TablesForm s →
    (x.waiting = false → exec (.spillRefillDone team) s =
      .next (moveNear s t (max (min x.used (near - near / 8)) (x.used - cfgXmib s (t / 64) * 16384))).1) ∧
    (x.waiting = true → x.stkq = [] → ∃ u, exec (.spillRefillDone team) s = .next u ∧ OnlyTeam s u t { x with waiting := false, moved := false }) ∧
    (∀ c e q m s1 r, x.waiting = true → x.stkq = (c, e) :: q → c / 8 = t → m = stkMoves s c e.op →
      moveNear s t (if m.1 ≠ 0 then min x.near (near - m.1) else max x.near (min x.used m.2)) = (s1, r) → TablesForm s1 →
      (r = .ok () → ∃ u, exec (.spillRefillDone team) s = .next u ∧ OnlyTeam s1 u t { getTeam s1 t with moved := true }) ∧
      (∀ a, r = .error a → HeadFails (exec (.spillRefillDone team) s) s1 c e.thr e.pc .stack (inStkq · c) (0x0740, a) fun u =>
        ∃ y, y = getTeam s1 t ∧ getTeam u t = { y with
          stkq := y.stkq.filter (fun z => !(z.1 == c && z.2.thr == e.thr))
          waiting := false
          moved := false }))) ∧
  (∀ (s : State) (t goal : Nat) (x : TeamSt), x = getTeam s t → TablesForm s →
    (goal = x.near → moveNear s t goal = (s, .ok ())) ∧
    (∀ w r, goal < x.near → memWrite { s with draws := s.draws + 1 } (extentPlace s t + (x.used - x.near))
        (((stackImage s.draws 0 x.frames.reverse).drop (x.used - x.near)).take (x.used - goal - (x.used - x.near))) = (w, r) → TablesForm w →
      ∃ v, moveNear s t goal = (v, .ok ()) ∧ OnlyTeam w v t { getTeam w t with near := min goal (stackNear w t) }) ∧
    (∀ s1 r, x.near < goal → memRead s (extentPlace s t + (x.used - goal)) (goal - x.near) = (s1, r) → TablesForm s1 →
      (∀ a, r = .error a → moveNear s t goal = (s1, .error a)) ∧
      (∀ bs, r = .ok bs → ∃ v, moveNear s t goal = (v, .ok ()) ∧ OnlyTeam s1 v t { getTeam s1 t with
        near := min goal (stackNear s1 t)
        frames := (refillFrames (x.used - goal) bs 0 (getTeam s1 t).frames.reverse).reverse }))) ∧
  (∀ (core : BitVec 11) (s : State) (c : Nat), c = core.toNat →
    ((getCore s c).packq = [] ∨ unitServed s c = false → exec (.psendExecute core) s = .next s) ∧
    (∀ e q, (getCore s c).packq = e :: q → unitServed s c = true → TablesForm s →
      (0 < (getNode s c).suppress.psends → ∃ v, OnlyNode s v c { getNode s c with
          suppress := { (getNode s c).suppress with psends := (getNode s c).suppress.psends - 1 } } ∧
        HeadLeaves (exec (.psendExecute core) s) v c .pack (inPackq · c) fun u => (getCore u c).packq = q) ∧
      ((getNode s c).suppress.psends = 0 → ∀ s1 r, psendCheck s c e.op = (s1, r) → TablesForm s1 →
        (∀ f, r = .error f → HeadFails (exec (.psendExecute core) s) s1 c e.thr e.pc .pack (inPackq · c) f fun u =>
          (getCore u c).packq = (getCore s1 c).packq.filter fun z => z.thr != e.thr) ∧
        (∀ j s2 r2, r = .ok j → unitReads c false ((List.range j.desc.nrows).map (psendRow j.desc)) s1 = (s2, r2) → TablesForm s2 →
          (∀ x, r2 = .error x → HeadFails (exec (.psendExecute core) s) s2 c e.thr e.pc .pack (inPackq · c) (0x0740, x) fun u =>
            (getCore u c).packq = (getCore s2 c).packq.filter fun z => z.thr != e.thr) ∧
          (∀ bs s3 x, r2 = .ok bs → psendRun s2 c j = (s3, .error x) → TablesForm s3 →
            HeadFails (exec (.psendExecute core) s) s3 c e.thr e.pc .pack (inPackq · c) (0x0740, x) fun u =>
              (getCore u c).packq = (getCore s3 c).packq.filter fun z => z.thr != e.thr) ∧
          (∀ bs s3, r2 = .ok bs → psendRun s2 c j = (s3, .ok ()) → TablesForm s3 → ∃ v, OnlyNode s3 v c { getNode s3 c with
              eff := { (getNode s3 c).eff with psends := (getNode s3 c).eff.psends + 1 } } ∧
            HeadLeaves (exec (.psendExecute core) s) v c .pack (inPackq · c) fun u => (getCore u c).packq = (getCore s3 c).packq.tail))))) ∧
  (∀ (r : NArgs) (s : State) (th : Thread) (c id off : Nat) (d : NwDesc) (x : StreamSlot), c = r.core.toNat → CanIssue s c r.thr.toNat th → r.func = 0 →
    r.rsv = 0 → id = c * 8 + r.idx.toNat → off = (reg th r.g).toNat → x = getStream s id → d = nwDesc (spadRead s c off 64) → TablesForm s →
    (x.adopt = true ∨ x.run = none → r.idx.toNat ∈ (getNode s c).suppress.posted → InCode s c (th.pc + 4) → ∃ v u, exec (.nwrite r) s = .next u ∧
      GoesOnAt v u c r.thr.toNat th ∧
      OnlyNode s v c { getNode s c with suppress := { (getNode s c).suppress with posted := (getNode s c).suppress.posted.erase r.idx.toNat } }) ∧
    (x.adopt = true → r.idx.toNat ∉ (getNode s c).suppress.posted → InCode s c (th.pc + 4) → ∃ v u, v = { s with tower := { s.tower with streams := v.tower.streams } } ∧
      getStream v id = { x with adopt := false } ∧ (∀ k, k ≠ id → getStream v k = getStream s k) ∧ exec (.nwrite r) s = .next u ∧
      GoesOnAt v u c r.thr.toNat th) ∧
    (x.adopt = false → x.run ≠ none → ∃ u, exec (.nwrite r) s = .next u ∧
      OnlyThread s u c r.thr.toNat { th with st := .blocked (.room (.stream r.idx.toNat)) }) ∧
    (x.adopt = false → x.run = none → r.idx.toNat ∉ (getNode s c).suppress.posted →
        (scratchLen s c < off + 64 ∨ nwDescOk d (scratchLen s c) = false →
          exec (.nwrite r) s = .next (stopThread s c r.thr.toNat 0x0740 ((0xFF00000000000000 + off) % 2 ^ 64))) ∧
        (off + 64 ≤ scratchLen s c → nwDescOk d (scratchLen s c) = true → ∀ v, v = nwStart s c id d → CanIssue v c r.thr.toNat th →
          InCode v c (th.pc + 4) → ∃ u, exec (.nwrite r) s = .next u ∧ GoesOnAt v u c r.thr.toNat th ∧
            (findConn s d.qpn = none → v = { s with tower := { s.tower with streams := v.tower.streams, slots := v.tower.slots } } ∧
              (getStream v id).run = some (.nwrite 0 d.qpn 0 d.syncId d.signalN (d.flags.testBit 1)) ∧ (getStream v id).forced = some 0x0305) ∧
            (∀ y, findConn s d.qpn = some y → y.error = true ∨ y.closing ≠ none →
              v = { s with tower := { s.tower with streams := v.tower.streams, slots := v.tower.slots } } ∧
              (getStream v id).run = some (.nwrite y.hub d.qpn 0 d.syncId d.signalN (d.flags.testBit 1)) ∧ (getStream v id).forced = some 0x0305) ∧
            (∀ y f, findConn s d.qpn = some y → y.error = false → y.closing = none → d.flags.testBit 0 = true → devAccessFault s false d.src d.len = some f →
              v = { s with tower := { s.tower with streams := v.tower.streams, slots := v.tower.slots } } ∧
              (getStream v id).run = some (.nwrite y.hub d.qpn 0 d.syncId d.signalN (d.flags.testBit 1)) ∧ (getStream v id).forced = some f.1) ∧
            (∀ y s1 bs n, findConn s d.qpn = some y → y.error = false → y.closing = none → n = (d.len + 4095) / 4096 →
              (d.flags.testBit 0 = false → s1 = s ∧ bs = spadRead s c d.src d.len) →
              (d.flags.testBit 0 = true → devAccessFault s false d.src d.len = none ∧ coreRead s c d.src d.len = (s1, .ok bs)) → TablesForm s1 →
              ∃ w, v = (nwPackets y d bs).foldl (fun a p => connSends a y p) w ∧
                w = { s1 with tower := { s1.tower with streams := w.tower.streams, slots := w.tower.slots },
                              eth := { s1.eth with conns := s1.eth.conns.map fun z => if z.qpn = d.qpn then { z with
                                sendPsn := z.sendPsn + n
                                since := if z.flights = [] then s.now else z.since
                                flights := z.flights ++ [⟨id, y.sendPsn, y.sendPsn + n - 1, nwPackets y d bs⟩] } else z } } ∧
                (getStream w id).run = some (.nwrite y.hub d.qpn (y.sendPsn + n - 1) d.syncId d.signalN (d.flags.testBit 1)) ∧
                (getStream w id).forced = none))))

/-! ### Memory and reliability -/

/-- R270, R271, R277, R282, R305, R306, R310, R464, R471 to R490: what NaN reports, alarms, the errors of memory, and the faults of cores, teams, lanes,
clocks, modules and hubs do. What a team node holds after its fault is a free value (R480). The model's choices: STILL_ALARM sends an alarm that its record
made due (log 36), which accesses go on without a module (log 84) and its credits (log 149), the fence of a core that makes its team LOST (log 126), a second
fault in a team waits for the boundary (log 133), where an uncorrectable near word lies (log 163), a scanned team has no ballast in its tick (log 169), a
fault of an unused team (log 175), lane failures, lost clocks and hangs as core faults whose core stays readable (log 90), and the numbers from 2048 on for
the spare cores and from 2304 on for the unused teams' (log 91). -/
def Obligations.FaultsAndRepairs : Prop :=
  (∀ (idx : Nat) (s v : State) (r : NanRep), v = { s with tower := { s.tower with nans := s.tower.nans.eraseIdx idx } } →
    (s.tower.nans[idx]? = none → exec (.nanReport idx) s = .next s) ∧
    (s.tower.nans[idx]? = some r → (∃ j ∈ s.tower.nans, nanBefore j r = true) → exec (.nanReport idx) s = .next s) ∧
    (s.tower.nans[idx]? = some r → (∀ j ∈ s.tower.nans, nanBefore j r = false) → cfgNanArm s = true → s.watch.trapped = false → EventRoom s → exec (.nanReport idx) s =
      .next (withEvent { v with watch := { v.watch with trapped := true, trapRec := r.body } } 0x0801 0x000A r.body)) ∧
    (s.tower.nans[idx]? = some r → (∀ j ∈ s.tower.nans, nanBefore j r = false) → cfgNanArm s = false ∨ s.watch.trapped = true →
      exec (.nanReport idx) s = .next { v with watch := { v.watch with nanCnt := min (v.watch.nanCnt + 1) (2 ^ 32 - 1) } })) ∧
  (∀ s : State, (s.watch.alarms = [] → exec .stillAlarm s = .next s) ∧
    ∀ a rest, s.watch.alarms = a :: rest → EventRoom s → exec .stillAlarm s = .next { s with
      watch := { s.watch with alarms := rest, alarmCnt := min (s.watch.alarmCnt + 1) (2 ^ 32 - 1) }
      mp := (withEvent { s with tick := { s.tick with count := a.tick } } 0x0802 0x000B (leBytes 4 a.tensor ++ leBytes 1 a.source ++ leBytes 1 0 ++
        leBytes 2 a.run ++ leBytes 8 a.step ++ leBytes 2 a.permille ++ leBytes 2 a.pct ++ leBytes 4 0)).mp }) ∧
  (∀ (layer : BitVec 2) (s : State) (n : Nat), n = layer.toNat →
    ((layerGet s.mem n).emptying = false → exec (.partitionFlushDone layer) s = .next s) ∧
    ((layerGet s.mem n).emptying = true → ∃ v, v = { s with mem := v.mem } ∧
      layerGet v.mem n = { layerGet s.mem n with emptying := false, tadds := [] } ∧ (∀ k, k < 4 → k ≠ n → layerGet v.mem k = layerGet s.mem k) ∧
      v.mem.dev = s.mem.dev ∧ v.mem.cnt = s.mem.cnt ∧
      exec (.partitionFlushDone layer) s = .next (accSettle (accRelease (layerGet s.mem n).tadds v).2 (accRelease (layerGet s.mem n).tadds v).1))) ∧
  (∀ (f : ScrubFinding) (s : State) (stk near : Prop) (unit : Nat), stk = (∃ k, regionOf s f.addr = some (.stack k)) →
    near = (¬ stk ∧ nearBase ≤ f.addr ∧ f.addr < nearBase + 4 * layerLen) → unit = f.addr / 64 → Memory.wf s.mem = true →
    (¬ stk → ¬ near → exec (.stackScrub f) s = .next s) ∧ (stk → stackLost s f.addr = true → exec (.stackScrub f) s = .next s) ∧
    (near → 2 ≤ f.kind → exec (.stackScrub f) s = .next s) ∧
    (stk → stackLost s f.addr = false → f.kind = 0 → exec (.stackScrub f) s =
      .next { s with mem := { s.mem with cnt := { s.mem.cnt with stkCe := min (s.mem.cnt.stkCe + 1) (2 ^ 32 - 1) } } }) ∧
    (near → f.kind = 0 → exec (.stackScrub f) s =
      .next { s with mem := { s.mem with cnt := { s.mem.cnt with nmCe := min (s.mem.cnt.nmCe + 1) (2 ^ 32 - 1) } } }) ∧
    (near → f.kind = 1 → exec (.stackScrub f) s = .next { s with mem := { s.mem with
      badNm := if f.addr / 32 ∈ s.mem.badNm then s.mem.badNm else s.mem.badNm ++ [f.addr / 32]
      cnt := { s.mem.cnt with nmUe := min (s.mem.cnt.nmUe + 1) (2 ^ 32 - 1) } } }) ∧
    (stk → stackLost s f.addr = false → f.kind = 1 → ∃ u, exec (.stackScrub f) s = .next u ∧
      u = { s with mem := { s.mem with dev := u.mem.dev, bad := u.mem.bad, cnt := u.mem.cnt } } ∧
      ((unit ∉ u.mem.bad ∧ u.mem.cnt = { s.mem.cnt with parFix := min (s.mem.cnt.parFix + 1) (2 ^ 32 - 1) }) ∨
       (unit ∈ u.mem.bad ∧ u.mem.dev = s.mem.dev ∧ u.mem.cnt = { s.mem.cnt with stkUe := min (s.mem.cnt.stkUe + 1) (2 ^ 32 - 1) }))) ∧
    (stk → stackLost s f.addr = false → 2 ≤ f.kind → ∀ hub j base want sound, hub = f.addr / hubWindow s → j = f.addr % hubWindow s / 2048 / parD s →
      base = hub * hubWindow s + parIdx s j * 2048 → want = (List.range 2048).map (parityByte s hub j) →
      sound = (f.addr % hubWindow s / 2048 < protGran s hub ∧ groupParOk s hub j = true ∧ stackLost s base = false ∧
        ∀ i, j * parD s ≤ i → i < j * parD s + parD s → stackLost s (hub * hubWindow s + i * 2048) = false) →
      (¬ sound ∨ want = cellBytes s.mem.dev base 2048 → exec (.stackScrub f) s = .next s) ∧
      (sound → want ≠ cellBytes s.mem.dev base 2048 → ∃ u, exec (.stackScrub f) s = .next u ∧
        u = { s with mem := { s.mem with dev := u.mem.dev, cnt := { s.mem.cnt with parMismatch := min (s.mem.cnt.parMismatch + 1) (2 ^ 32 - 1) } } } ∧
        cellBytes u.mem.dev base 2048 = want ∧ ∀ a, a < base ∨ base + 2048 ≤ a → smGet 0 u.mem.dev a = smGet 0 s.mem.dev a))) ∧
  (∀ (stack : Nat) (s : State) (there : Prop), there = (stack < hubCount s * stacksPerHub s ∧ stack / stacksPerHub s ∈ s.dev.hubsPresent ∧
      stack ∉ s.mem.lost ∧ hubFitted s (stack / stacksPerHub s) = true) →
    (s.dev.state = 0 ∨ (s.dev.state ≠ 1 ∧ ¬ there) → exec (.stackLost stack) s = .next s) ∧
    (s.dev.state = 1 → exec (.stackLost stack) s = .next (keptFault s (.stack stack))) ∧
    (2 ≤ s.dev.state → there → EventRoom s → ∃ v, exec (.stackLost stack) s = .next (withEvent v 0x0705 0x000C (substBody v 1 1 0 stack 0 0 0)) ∧
      v = { s with mem := { s.mem with lost := v.mem.lost, dev := v.mem.dev, bad := v.mem.bad, cut := v.mem.cut } } ∧
      (∀ i, i ∈ v.mem.lost ↔ i = stack ∨ i ∈ s.mem.lost) ∧
      v.mem.dev = s.mem.dev.filter (fun c => !(decide (c.1 < stackEnd s) && stackOf s c.1 == stack)) ∧
      v.mem.bad = s.mem.bad.filter (fun b => !(decide (b * 64 < stackEnd s) && stackOf s (b * 64) == stack)) ∧ CutRight v)) ∧
  (∀ (hub module : Nat) (s : State) (there : Prop),
    there = (hubFitted s hub = true ∧ module < 192 / hubCount s ∧ (hub, module) ∉ s.rel.modules) →
    (s.dev.state = 0 ∨ (s.dev.state ≠ 1 ∧ ¬ there) → exec (.moduleLost hub module) s = .next s) ∧
    (s.dev.state = 1 → exec (.moduleLost hub module) s = .next (keptFault s (.module hub module))) ∧
    (2 ≤ s.dev.state → there → EventRoom s → ∃ v, exec (.moduleLost hub module) s =
        .next (withEvent v 0x0705 0x000C (substBody v 2 1 0 hub module ((partnerModule v hub module).getD 0xFF) 0)) ∧
      v = { s with
        rel := { s.rel with modules := s.rel.modules ++ [(hub, module)], credits := s.rel.credits ++ [((hub, module), 0, 0)],
                              moduleCnt := min (s.rel.moduleCnt + 1) (2 ^ 32 - 1) }
        mem := { s.mem with cut := v.mem.cut } } ∧ CutRight v)) ∧
  (∀ (hub : Nat) (s : State), TablesForm s →
    (s.dev.state = 0 ∨ (s.dev.state ≠ 1 ∧ hubFitted s hub = false) → exec (.hubLost hub) s = .next s) ∧
    (s.dev.state = 1 → exec (.hubLost hub) s = .next (keptFault s (.hub hub))) ∧
    (2 ≤ s.dev.state → hubFitted s hub = true → ∃ u, exec (.hubLost hub) s = .next u ∧
      u = { s with
        dev := { s.dev with hubsLost := u.dev.hubsLost }
        rel := { s.rel with alert := true }
        step := { s.step with copyBacks := s.step.copyBacks.filter fun c => match findTensor s c.tensor with | some t => t.hub != hub | none => true }
        eth := u.eth
        mp := u.mp } ∧
      (∀ k, k ∈ u.dev.hubsLost ↔ k = hub ∨ k ∈ s.dev.hubsLost) ∧
      (∀ p, p < 16 → portMapped s hub p = true → (getPort u (hub * 16 + p)).state = 0) ∧
      ∀ n, n / 16 ≠ hub → (getPort u n).state = (getPort s n).state)) ∧
  (∀ e ∈ triggerTable, ∀ (core : BitVec 12) (readable : Bool) (s : State) (i : Nat), i = core.toNat →
    (s.dev.state = 1 → exec (.coreFault core e.1 readable) s = .next (keptFault s (.core i e.2 readable))) ∧
    (s.dev.state ≠ 1 → s.dev.state ≠ 2 ∨ 2376 ≤ i → exec (.coreFault core e.1 readable) s = .next s) ∧
    (∀ n k, s.dev.state = 2 → 2304 ≤ i → i < 2376 → n = (i - 2304) / 9 → k = (i - 2304) % 9 →
      (unusedTeam s n = none → exec (.coreFault core e.1 readable) s = .next s) ∧
      ∀ p m, unusedTeam s n = some p → m = smGet 0 s.bring.fenced (n / 2 * 66 + p) →
        (m.testBit k = true → exec (.coreFault core e.1 readable) s = .next s) ∧
        (m.testBit k = false → keysRise none s.bring.fenced = true → ∃ u, exec (.coreFault core e.1 readable) s = .next u ∧
          u = { s with rel := { s.rel with ffrPending := u.rel.ffrPending }, bring := { s.bring with fenced := u.bring.fenced } } ∧
          smGet 0 u.bring.fenced (n / 2 * 66 + p) = withCore m k)) ∧
    (∀ r, s.dev.state = 2 → 2048 ≤ i → i < 2304 → r = getRel s (i - 2048) → TablesForm s →
      (r.lost = true ∨ r.onSpare ≠ none ∨ r.fenced.testBit 8 = true → exec (.coreFault core e.1 readable) s = .next s) ∧
      (r.lost = false → r.onSpare = none → r.fenced.testBit 8 = false → EventRoom s → ∃ v,
        exec (.coreFault core e.1 readable) s = .next (withEvent v 0x0705 0x000C (substBody v 0 e.2 0 ((i - 2048) / 64) (i % 64) 0xFF 0xFF)) ∧
        v = { s with rel := { s.rel with teams := v.rel.teams, ffrPending := v.rel.ffrPending }, bring := { s.bring with fenced := v.bring.fenced } } ∧
        getRel v (i - 2048) = { r with fenced := withCore r.fenced 8 } ∧ ∀ t, t ≠ i - 2048 → getRel v t = getRel s t)) ∧
    (∀ r t slot, s.dev.state = 2 → i < 2048 → t = i / 8 → slot = i % 8 → r = getRel s t → TablesForm s →
      (r.lost = true ∨ r.lostDue ≠ none ∨ (getNode s i).mode = 3 → exec (.coreFault core e.1 readable) s = .next s) ∧
      (r.lost = false → r.lostDue = none → (getNode s i).mode ≠ 3 → ∃ u, exec (.coreFault core e.1 readable) s = .next u ∧
        (∀ x, x ≠ t → getRel u x = getRel s x) ∧
        (r.degraded = true ∨ r.degradeDue ≠ none →
          getRel u t = { r with fenced := withCore r.fenced (servingCore r slot), lostDue := some (e.2, slot, tickOrZero s) } ∧
          (∀ k, k < 8 → (getNode u (8 * t + k)).mode = if servingCore r k = servingCore r slot then 3 else (getNode s (8 * t + k)).mode) ∧
          u.tower.cores = s.tower.cores) ∧
        (r.degraded = false → r.degradeDue = none → SlotStopped s u i readable ∧
          (r.onSpare = none → r.fenced.testBit 8 = false →
            getRel u t = { r with
              fenced := withCore r.fenced slot
              onSpare := some slot
              subst := min (r.subst + 1) 65535
              fresh := true
              stateLost := (getRel u t).stateLost } ∧ u.rel.substCnt = min (s.rel.substCnt + 1) (2 ^ 32 - 1) ∧
            (EventRoom s → (readable = true → (getNode s i).eff.accEnd = []) →
              withEvent s 0x0705 0x000C (substBody s 0 e.2 (if readable then 0 else 1) (t / 64) (t % 64) slot 8) = { s with mp := u.mp })) ∧
          (r.onSpare ≠ none ∨ r.fenced.testBit 8 = true → ∃ core', core' = (if r.onSpare = some slot then 8 else slot) ∧
            getRel u t = { r with
              fenced := withCore r.fenced core'
              degradeDue := some (e.2, slot, hostSlot (withCore r.fenced core'))
              stateLost := (getRel u t).stateLost } ∧ ((readable = true → (getNode s i).eff.accEnd = []) → u.mp = s.mp)))))) ∧
  (∀ (core : BitVec 11) (s : State) (hung : Prop), hung = (slotServed s core.toNat = true ∧
      ∃ th ∈ (getCore s core.toNat).threads, th.2.st = .ready ∧ th.2.since + 131072 ≤ s.now) →
    (hung → exec (.coreHang core) s = exec (.coreFault (core.setWidth 12) .hang true) s) ∧ (¬ hung → exec (.coreHang core) s = .next s)) ∧
  (∀ (core : BitVec 11) (s : State) (c : Nat) (n : SlotNode), c = core.toNat → n = getNode s c → TablesForm s →
    (n.mode ≠ 1 → exec (.restoreDone core) s = .next s) ∧
    (n.mode = 1 → ∃ u, exec (.restoreDone core) s = .next u ∧
      u = { s with tower := { s.tower with slots := u.tower.slots }, tick := u.tick, watch := u.watch } ∧ (∀ k, k ≠ c → getNode u k = getNode s k) ∧
      getNode u c = { n with mode := if (getRel s (c / 8)).degradeDue ≠ none then 4
        else if n.suppress.instrs = 0 ∧ n.suppress.entries = 0 ∧ n.suppress.posted = [] then 0 else 2 })) ∧
  (∀ (team : BitVec 8) (s : State) (t : Nat) (r : TeamRel), t = team.toNat → r = getRel s t → TablesForm s →
    (s.dev.state = 1 → exec (.teamCommonFault team) s = .next (keptFault s (.common t 6))) ∧
    (s.dev.state ≠ 1 → s.dev.state ≠ 2 ∨ r.lost = true → exec (.teamCommonFault team) s = .next s) ∧
    (s.dev.state = 2 → r.lost = false → ∃ u, exec (.teamCommonFault team) s = .next u ∧ TeamFails s u t 6)) ∧
  (∀ (b : BundleRef) (f : LaneRetries) (lane : Nat) (s v : State) (x y : BundleRel) (known fails : Prop), x = findBundle s b → lane = f.lane →
    known = (lane ∈ x.failed ∨ (lane, true) ∈ x.due) → y = { x with due := x.due.filter (fun d => d.1 != lane) ++ [(lane, true)] } →
    fails = (∃ i a d, f.at_[i]? = some a ∧ f.at_[i + 3]? = some d ∧ d ≤ a + 3000000) →
    v = putBundle s y → findBundle v b = y ∧ (∀ o, o ≠ b → findBundle v o = findBundle s o) ∧ v = { s with rel := { s.rel with bundles := v.rel.bundles } } ∧
    (132 ≤ lane ∨ b.iface < 1 ∨ 8 < b.iface ∨ 2 < b.kind ∨ s.dev.state = 0 ∨ ¬ fails ∨ known → exec (.laneFail b f) s = .next s) ∧
    (lane < 132 → 1 ≤ b.iface → b.iface ≤ 8 → b.kind ≤ 2 → s.dev.state ≠ 0 → fails → ¬ known →
      (x.failed.length + (y.due.filter (·.2)).length + 64 ≤ 132 → exec (.laneFail b f) s = .next v) ∧
      (132 < x.failed.length + (y.due.filter (·.2)).length + 64 →
        (b.kind = 0 → b.owner < 4096 → exec (.laneFail b f) s = exec (.coreFault (BitVec.ofNat 12 b.owner) .channel true) v) ∧
        (b.kind = 1 →
          (s.dev.state = 1 → exec (.laneFail b f) s = .next (keptFault v (.common b.owner 7))) ∧
          (s.dev.state ≠ 1 → s.dev.state ≠ 2 ∨ (getRel s b.owner).lost = true → exec (.laneFail b f) s = .next v) ∧
          (s.dev.state = 2 → (getRel s b.owner).lost = false → b.owner < 256 → TablesForm s → ∃ u, exec (.laneFail b f) s = .next u ∧ TeamFails v u b.owner 7) ∧
          (s.dev.state = 2 → (getRel s b.owner).lost = false → 256 ≤ b.owner → (unusedTeam s (b.owner - 256) = none → exec (.laneFail b f) s = .next v) ∧
            ∀ p, unusedTeam s (b.owner - 256) = some p → UnusedFails v (exec (.laneFail b f) s) (b.owner - 256) p)) ∧
        (b.kind = 2 → exec (.laneFail b f) s =
          .next (if s.dev.state = 1 then keptFault v .unowned else { v with rel := { v.rel with alert := true } }))))) ∧
  (∀ (t : TripleRef) (s : State) (n : Nat) (valid : Prop), n = ((s.rel.bonds.find? fun p => p.1 == t).map (·.2)).getD 0 →
    valid = (match t with | .core c => c < 2376 | .node k i => k < 264 ∧ i < 3) →
    (¬ valid ∨ 2 ≤ n ∨ s.dev.state = 0 → exec (.clockBondLoss t) s = .next s) ∧
    (valid → n < 2 → s.dev.state ≠ 0 → ∀ v, v = { s with rel := { s.rel with bonds := (s.rel.bonds.filter fun p => p.1 != t) ++ [(t, n + 1)] } } →
      (n = 0 → exec (.clockBondLoss t) s = .next { v with rel := { v.rel with clkOneCnt := min (v.rel.clkOneCnt + 1) (2 ^ 32 - 1) } }) ∧
      (∀ c, n = 1 → t = .core c → exec (.clockBondLoss t) s = exec (.coreFault (BitVec.ofNat 12 c) .bond true) v) ∧
      (∀ k i, n = 1 → t = .node k i → k < 256 → exec (.clockBondLoss t) s = exec (.teamCommonFault (BitVec.ofNat 8 k)) v) ∧
      (∀ k i, n = 1 → t = .node k i → 256 ≤ k → (s.dev.state = 1 → exec (.clockBondLoss t) s = .next (keptFault v (.common k 6))) ∧
        (s.dev.state ≠ 1 → s.dev.state ≠ 2 ∨ (getRel s k).lost = true ∨ unusedTeam s (k - 256) = none → exec (.clockBondLoss t) s = .next v) ∧
        ∀ p, s.dev.state = 2 → (getRel s k).lost = false → unusedTeam s (k - 256) = some p → UnusedFails v (exec (.clockBondLoss t) s) (k - 256) p))) ∧
  (∀ (f : ScanFinding) (s : State) (layer at_ bg : Nat) (team : Option Nat) (scan : Option ScanRun) (due : Prop), layer = (if f.layer = 4 then 0 else f.layer) →
    at_ = layer * 66 + f.phys → bg = (if f.layer = 4 then 264 + f.phys else at_) → team = logicalOf s layer f.phys →
    scan = s.rel.scans.find? (fun r => r.layer == f.layer && decide (smGet 0 r.slots f.phys < 70)) →
    due = (f.layer ≤ 4 ∧ f.phys ≤ 65 ∧ s.tick.running = true ∧ s.tick.inMargin = true ∧ at_ ∉ s.rel.scanned ∧ (∀ t, team = some t → marginBusy s t = false) ∧
      (scan = none → smGet 0 s.rel.bgSlots bg * 259200000000000 ≤ 70 * (s.now - s.tick.readyAt))) →
    (¬ due → exec (.farrierScanSlot f) s = .next s) ∧
    (due → TablesForm s → ∃ b v w : State, ∃ seen weak, (team = none → b = s) ∧
      (∀ t, team = some t → b = { s with tower := { s.tower with teams := b.tower.teams }, tick := b.tick, watch := b.watch } ∧
        getTeam b t = { getTeam s t with ballast := false } ∧ (∀ k, k ≠ t → getTeam b k = getTeam s k) ∧ b.tick.acc.scanning.testBit t = true) ∧
      v = { b with rel := { s.rel with scanned := s.rel.scanned ++ [at_] } } ∧
      seen = f.lanes.filter (fun l => decide (l.lane ∉ (findBundle s l.ref).failed)) ∧ weak = seen.filter (fun l => decide (l.margin < 16)) ∧
      w = weak.foldl (fun o l => markLane o l.ref l.lane (decide (l.margin < 8))) v ∧
      (scan = none → exec (.farrierScanSlot f) s = .next { w with rel := { w.rel with bgSlots := smInc w.rel.bgSlots bg } }) ∧
      (∀ r z n q, scan = some r → z = (if r.swap then w else v) → (r.swap = false ∨ weak = [] → n = 0) →
        (∀ l, r.swap = true → weak = [l] → n = if laneSwaps v l.ref l.lane then 1 else 0) → (r.swap = false ∨ weak.length ≤ 1) → q = { r with
          slots := smInc r.slots f.phys
          lanes := r.lanes + seen.length
          marginal := r.marginal + weak.length
          swapped := r.swapped + n
          minMargin := seen.foldl (fun m l => min m (min 255 l.margin)) r.minMargin } →
        ((∃ p, p < 66 ∧ smGet 0 q.slots p < 70) → exec (.farrierScanSlot f) s =
          .next { z with rel := { z.rel with scans := z.rel.scans.map fun y => if y.layer = r.layer then q else y } }) ∧
        (∀ y, (∀ p, p < 66 → 70 ≤ smGet 0 q.slots p) → r.swap = false → (s.mp.slots.filter fun x => match x.work with | .scan l _ => l == r.layer | _ => false) = [y] →
          Outstanding s y → exec (.farrierScanSlot f) s = .next (endedWith { z with rel := { z.rel with scans := s.rel.scans.filter fun y =>
            y.layer != r.layer } } y 0 0 (scanPayload s q))))))

/-! ### Training steps and the pack protocol -/

/-- R317, R337, R364 to R367, R378 to R381, R388, R393 to R398, R419 to R425: the groom engine's events, the votes of a step, the messages of the pack
protocol as they arrive, and its timers. The model's choices: which repeats count (log 48), a NACK is not checked for membership and a REPAIR of what is
gone gets GONE (log 49), when an ACK tells a grant (log 50) and how the grant goes round (log 153), when a refresh reads and runs (log 112), that an update
does not start while no arithmetic mode is latched for its step (log 52) and how one after a commit by the fallback runs, `late` (log 57). -/
def Obligations.StepAndPackEvents : Prop :=
  (∀ s : State,
    (∀ n, s.step.snapshot = some n → n.copied = false → evalRunning s = false → ∃ v, v = { s with
        step := { s.step with snapshot := some { n with copied := true } } } ∧
      exec .snapshotCopy s = .next ((s.step.tensors.filter fun t => isWeight t && tSnap t).foldl (snapTensor n.epoch) v)) ∧
    (s.step.snapshot = none ∨ (∃ n, s.step.snapshot = some n ∧ n.copied = true) ∨ evalRunning s = true → exec .snapshotCopy s = .next s) ∧
    (∀ n x, s.step.snapshot = some n → n.copied = true → x.sid = n.sid → Outstanding s x → exec .snapshotCopyDone s =
      .next (endedWith { s with step := { s.step with snapshot := none, evalResume := true } } x 0 0 (leBytes 8 n.epoch))) ∧
    (s.step.snapshot = none ∨ (∃ n, s.step.snapshot = some n ∧ n.copied = false) → exec .snapshotCopyDone s = .next s)) ∧
  (∀ (epoch : Nat) (s s1 s2 s3 s4 : State) (t : Tensor) (c l : Nat) (hb b w : List Byte), c = (if epoch = s.step.epochCur then epochSlot t else 1 - epochSlot t) →
    memRead s t.hyper 128 = (s1, .ok hb) → l = wslotLen t (hyperOf hb).pool → memRead s1 (t.work + c * l) l = (s2, .ok b) →
    memWrite s2 (t.work + 2 * l) b = (s3, .ok ()) → memRead s3 (t.work + 3 * l + 4 * c) 4 = (s4, .ok w) →
    snapTensor epoch s t = (memWrite s4 (t.work + 3 * l + 8) w).1) ∧
  (∀ (s : State) (k : Nat), hubServed s k = true ↔ hubFitted s k = true ∧ 256 + k ∉ s.tick.pacedTeams) ∧
  (∀ s : State,
    (s.step.switch = none ∨ (∃ w, s.step.switch = some w ∧ w.retired = false) ∨ (∃ k ∈ s.tick.tasks, k.admitted = true ∧ k.epochRes ≠ s.step.epochCur) ∨
        (∃ n, s.step.snapshot = some n ∧ n.epoch ≠ s.step.epochCur) → exec .pushStart s = .next s) ∧
    (∀ w, s.step.switch = some w → w.retired = true → (∀ k ∈ s.tick.tasks, k.admitted = true → k.epochRes = s.step.epochCur) →
      (∀ n, s.step.snapshot = some n → n.epoch = s.step.epochCur) →
      ∃ u, exec .pushStart s = .next u ∧ u.step.switch = some { w with started := true } ∧
        u.step.tensors.map (·.id) = s.step.tensors.map (·.id) ∧
        ∀ t ∈ s.step.tensors, isWeight t = true → t.pushed = false → (∀ c ∈ s.step.copyBacks, c.tensor ≠ t.id) → decisionWaits s t w.step = false →
          ∀ y ∈ u.step.tensors, y.id = t.id → y.pushed = true)) ∧
  (∀ (tensor : W32) (s : State) (t : Tensor) (p : Pack), (findTensor s tensor.toNat = none ∨ packOf s tensor.toNat = none →
      exec (.updateStart tensor) s = .next s) ∧
    (findTensor s tensor.toNat = some t → packOf s tensor.toNat = some p → (updDue p t = none → exec (.updateStart tensor) s = .next s) ∧
      ∀ x, updDue p t = some x → (s.step.latched.find? (fun l => l.1 == x.step) = none → exec (.updateStart tensor) s = .next s) ∧
        ∀ l, s.step.latched.find? (fun l => l.1 == x.step) = some l → (updReady s p t x.step = false → exec (.updateStart tensor) s = .next s) ∧
          (updReady s p t x.step = true →
            (waitsFactor t x.step = true → t.id ∈ x.waitedFactor → exec (.updateStart tensor) s = .next s) ∧
            (waitsFactor t x.step = true → t.id ∉ x.waitedFactor → ∃ u, exec (.updateStart tensor) s = .next u ∧
              u = { s with step := { s.step with packs := u.step.packs, groom := { s.step.groom with
                waitFactor := min (s.step.groom.waitFactor + 1) (2 ^ 32 - 1) } } }) ∧
            (waitsFactor t x.step = false → extentBusy s p t.hub = true → t.id ∈ x.waitedShadow → exec (.updateStart tensor) s = .next s) ∧
            (waitsFactor t x.step = false → extentBusy s p t.hub = true → t.id ∉ x.waitedShadow → ∃ u, exec (.updateStart tensor) s = .next u ∧
              u = { s with step := { s.step with packs := u.step.packs, groom := { s.step.groom with
                waitShadow := min (s.step.groom.waitShadow + 1) (2 ^ 32 - 1) } } }) ∧
            (waitsFactor t x.step = false → extentBusy s p t.hub = false → ∀ v bm s1 r h sh before, stepBitmap s p.id x.step t = (v, bm) →
              memRead v t.hyper 128 = (s1, r) → h = (match r with | .ok b => some b | .error _ => none) →
              sh = ((shadowPlan s p t.hub).find? fun q => q.1 == t.id).map (·.2) → before = x.updates.find? (fun y => y.tensor == t.id) →
              (∀ c, startCause s1 t (h.map hyperOf) sh x.step = some c → ∃ u, exec (.updateStart tensor) s = .next u ∧ UpdateFails s1 u p x t c) ∧
              (∀ hb, h = some hb → startCause s1 t (some (hyperOf hb)) sh x.step = none →
                (groomSpace s1 t.hub < spaceUsed s1 t.hub + updFootprint t (hyperOf hb) → exec (.updateStart tensor) s = .next s1) ∧
                (spaceUsed s1 t.hub + updFootprint t (hyperOf hb) ≤ groomSpace s1 t.hub → ∃ u y, exec (.updateStart tensor) s = .next u ∧
                  y ∈ (getPS u p.id x.step).updates ∧ sh ≠ none ∧ y = {
                    tensor := t.id
                    shadow := sh
                    phase := .running
                    hyper := hb
                    bitmap := bm
                    strict := l.2
                    footprint := updFootprint t (hyperOf hb)
                    late := committed x
                    written := (before.map (·.written)).getD []
                    amax := (before.map (·.amax)).getD 0
                    nan := before.bind (·.nan)
                    nanSent := (before.map (·.nanSent)).getD false })))))) ∧
  (∀ (tensor : W32) (s : State), (runningOf s tensor.toNat = none ∨ findTensor s tensor.toNat = none → exec (.updateFinish tensor) s = .next s ∧
      ∀ cause, exec (.updateInterrupt tensor cause) s = .next s) ∧
    ∀ (p : Pack) (x : PackStep) (v : Update) (t : Tensor) (ts : TensorStep), runningOf s tensor.toNat = some (p, x, v) →
      findTensor s tensor.toNat = some t → ts = (x.tensors.find? fun y => y.tensor == t.id).getD { tensor := t.id } →
      (hubServed s t.hub = false ∨ canFinish p t v ts = false → exec (.updateFinish tensor) s = .next s) ∧
      (∀ lost : State → Pack → PackStep → Prop, hubServed s t.hub = true → canFinish p t v ts = true →
        lost = (fun s1 p x => ∃ u, exec (.updateFinish tensor) s = .next u ∧ UpdateFails s1 u p x t 2 ∧
          u.step.tensors = tensorMap s1 t.id fun y => { y with lostState := true }) →
        (heldMode t (hyperOf v.hyper) = true → ∀ s1 r, readUpdIn s t v ts x.step (List.range t.rows) = (s1, r) →
          (∀ e, r = .error e → lost s1 p x) ∧
          (∀ q s2 r2, r = .ok q → writeShadow s1 t v x.step q.2 q.1 (ruleRun t q.1 (trainedIn t v.bitmap)) = (s2, r2) →
            (∀ e, r2 = .error e → lost s2 p x) ∧
            (r2 = .ok () → ∃ u, exec (.updateFinish tensor) s = .next u ∧
              u = { s2 with tower := { s2.tower with nans := u.tower.nans }, step := { s2.step with packs := u.step.packs } } ∧
              (∀ y ∈ (getPS u p.id x.step).updates, y.tensor = t.id → y.phase = .finished) ∧
              ∀ y ∈ (getPS u p.id x.step).tensors, y.tensor = t.id → y.reduced = []))) ∧
        (heldMode t (hyperOf v.hyper) = false → ∀ s1, s1 = updateRows s t.id → (runningOf s1 t.id = none → exec (.updateFinish tensor) s = .next s1) ∧
          ∀ p' x' v' h s2 r, runningOf s1 t.id = some (p', x', v') → h = hyperOf v'.hyper → hubRead s1 (currentSlot s1 t) 64 = (s2, r) →
            (∀ e, r = .error e → lost s2 p' x') ∧
            ∀ hd s3 r2, r = .ok hd → sealShadow s2 t v' (v'.shadow.getD 0) x'.step (getLe hd 8 4) (gMul v'.strict (getLe hd 12 4) h.beta1)
                (gMul v'.strict (getLe hd 16 4) h.beta2) v'.amax = (s3, r2) →
              (∀ e, r2 = .error e → lost s3 p' x') ∧
              (r2 = .ok () → ∃ u, exec (.updateFinish tensor) s = .next u ∧
                u = { s3 with tower := { s3.tower with nans := u.tower.nans }, step := { s3.step with packs := u.step.packs } } ∧
                ∀ y ∈ (getPS u p'.id x'.step).updates, y.tensor = t.id → y.phase = .finished))) ∧
      (∀ cause, cause = .restart ∨ cause = .sramError false → exec (.updateInterrupt tensor cause) s =
        .next { s with step := { s.step with groom := { s.step.groom with rerun := min (s.step.groom.rerun + 1) (2 ^ 32 - 1) } } }) ∧
      (∃ u, exec (.updateInterrupt tensor (.sramError true)) s = .next u ∧ UpdateFails s u p x t 1 ∧ u.step.tensors = s.step.tensors) ∧
      (∃ u, exec (.updateInterrupt tensor .stateLost) s = .next u ∧ UpdateFails s u p x t 2 ∧
        u.step.tensors = tensorMap s t.id fun y => { y with lostState := true })) ∧
  (∀ (tensor : W32) (s : State), (s.step.copyBacks.find? (fun c => c.tensor == tensor.toNat) = none ∨ findTensor s tensor.toNat = none →
      exec (.copybackDone tensor) s = .next s) ∧
    (∀ t, findTensor s tensor.toNat = some t → hubServed s t.hub = false → exec (.copybackDone tensor) s = .next s) ∧
    ∀ c t s1 r, s.step.copyBacks.find? (fun c => c.tensor == tensor.toNat) = some c → findTensor s tensor.toNat = some t → hubServed s t.hub = true →
      hubRead s c.shadow (sslotLen t) = (s1, r) →
      (∀ e, r = .error e → exec (.copybackDone tensor) s = .next s1) ∧
      (∀ b, r = .ok b → ∃ u, exec (.copybackDone tensor) s = .next u ∧
        u = { s1 with mem := u.mem, step := { s1.step with copyBacks := s1.step.copyBacks.filter fun y => y.tensor != t.id } })) ∧
  (∀ (tensor : W32) (s : State), (findTensor s tensor.toNat = none → exec (.factorRefresh tensor) s = .next s) ∧
    ∀ (t : Tensor) (busy : Prop), findTensor s tensor.toNat = some t →
      busy = (∃ r ∈ runningUpdates s, hubOfUpdate s r.2.2 = t.hub ∧ ∃ v, findTensor s r.2.2.tensor = some v ∧ 2 < v.rule) →
      (refreshFree s t = false ∨ busy ∨ hubServed s t.hub = false → exec (.factorRefresh tensor) s = .next s) ∧
      ∀ j rest s0 bad, t.refreshes = j :: rest → refreshFree s t = true → ¬ busy → hubServed s t.hub = true →
        s0 = { s with step := { s.step with tensors := tensorMap s t.id fun y => { y with refreshes := rest } } } →
        bad = (fun v : State => { v with step := { v.step with groom := { v.step.groom with factorBad := min (v.step.groom.factorBad + 1) (2 ^ 32 - 1) } } }) →
        (j.inputs = none ∨ groomSpace s t.hub < refreshFootprint t → exec (.factorRefresh tensor) s = .next (bad s0)) ∧
        (∀ hb sl sr strict L R, j.inputs = some (hb, sl, sr) → refreshFootprint t ≤ groomSpace s t.hub → strict = refreshStrict s j.step →
          L = refreshSide strict (hyperOf hb) sl → R = refreshSide strict (hyperOf hb) sr →
          ∃ v, v = { s0 with tower := { s.tower with nans := v.tower.nans } } ∧
            (matsNan (L.elems ++ R.elems) = none → matsNan (L.prods ++ R.prods) = none → v.tower.nans = s.tower.nans) ∧
            ((∀ r ∈ L.X ++ R.X, ∀ w ∈ r, finite32 w = true) → exec (.factorRefresh tensor) s = .next (writeFactors v t j.step L.X R.X)) ∧
            ((∃ r ∈ L.X ++ R.X, ∃ w ∈ r, finite32 w = false) → exec (.factorRefresh tensor) s = .next (bad v)))) ∧
  (∀ (s : State) (t : Tensor) (step : Option Nat) (L R : List (List Nat)), ∃ u, writeFactors s t step L R = u ∧
    u = { s with mem := u.mem, step := { s.step with tensors := match step with
      | none => s.step.tensors
      | some n => tensorMap s t.id fun y => { y with refreshed := some n } } }) ∧
  (∀ (pack : W32) (step : W64) (tensor : W32) (s : State),
    (findPack s pack.toNat = none ∨ findTensor s tensor.toNat = none → exec (.stagedConvert pack step tensor) s = .next s) ∧
    ∀ p t x, findPack s pack.toNat = some p → findTensor s tensor.toNat = some t → x = getTS s p.id step.toNat t.id →
      (t.id ∉ p.tensors ∨ (∃ m, m < p.n ∧ smGet? x.ts m = none) → exec (.stagedConvert pack step tensor) s = .next s) ∧
      (t.id ∈ p.tensors → (∀ m, m < p.n → smGet? x.ts m ≠ none) → ∃ v, exec (.stagedConvert pack step tensor) s =
          .next (x.staged.foldl (fun o r => rowCheck (tallyRow o p.id step.toNat t.id r) p step.toNat t r.row) v) ∧
        v = { s with step := { s.step with packs := v.step.packs } } ∧ getTS v p.id step.toNat t.id = { x with staged := [] })) ∧
  (∀ (pack : W32) (s : State), (findPack s pack.toNat).bind fencedStep = none →
    exec (.voteSend pack) s = .next s ∧ exec (.voteTimeout pack) s = .next s ∧ exec (.fallbackDecision pack) s = .next s) ∧
  (∀ (pack : W32) (s : State) (p : Pack) (x : PackStep) (commit ready : Bool), findPack s pack.toNat = some p → fencedStep p = some x →
    ready = (allGathered s p x.step && (updatesDone s p x || updateFailed x)) → commit = (!anyBad s p x.step && !updateFailed x) →
    (x.voted ≠ none ∨ ready = false → exec (.voteSend pack) s = .next s) ∧
    (x.voted = none → ready = true → ∃ u y, exec (.voteSend pack) s = .next u ∧ y = getPS u p.id x.step ∧
      y.voted = some commit ∧ y.votedAt = s.now ∧ (p.me, commit) ∈ y.votes) ∧
    ((∀ y ∈ p.steps, y.fence = none ∨ y.decision ≠ none ∨ y.voted ≠ none ∨ s.now < y.fenceAt + cfgVoteTimeout s * 3000) →
      exec (.voteTimeout pack) s = .next s) ∧
    (∀ y ∈ p.steps, y.fence ≠ none → y.decision = none → y.voted = none → y.fenceAt + cfgVoteTimeout s * 3000 ≤ s.now → overdueStep s p ≠ none) ∧
    (∀ z, overdueStep s p = some z → ∃ u y, exec (.voteTimeout pack) s = .next u ∧ y = getPS u p.id z.step ∧
      y.voted = some false ∧ y.votedAt = s.now ∧ (p.me, false) ∈ y.votes ∧ u.step.cnt.timeout = min (s.step.cnt.timeout + 1) (2 ^ 32 - 1)) ∧
    (x.voted = none ∨ s.now < x.votedAt + cfgVoteTimeout s * 3000 → exec (.fallbackDecision pack) s = .next s) ∧
    (x.voted ≠ none → x.votedAt + cfgVoteTimeout s * 3000 ≤ s.now → ∃ u, exec (.fallbackDecision pack) s = .next u ∧
      u.step.cnt.fallback = min (s.step.cnt.fallback + 1) (2 ^ 32 - 1) ∧
      (getPS u p.id x.step).decision = some (allGathered s p x.step && !anyBad s p x.step, 1,
        if packPortDown s p = none then 0x0503 else 0x0502, (packPortDown s p).getD 0))) ∧
  (∀ e ∈ ([(.contrib, 1), (.scale, 2), (.scaleAck, 3), (.ack, 4), (.reduced, 5), (.shardDone, 6), (.vote, 7), (.repair, 8), (.nack, 9)] :
      List ((PackRx → Instr) × Nat)), ∀ (m : PackRx) (s v : State) (h : PackHdr), v = frameArrived s m.toNetFrame → h = packHdr m.bytes →
    (∀ u, frameEnds s m.toNetFrame = some u → exec (e.1 m) s = .next u) ∧
    (frameEnds s m.toNetFrame = none → packFormOk m.bytes = false → exec (e.1 m) s =
      .next (hubCounted v m.hub fun k => { k with malformed := min (k.malformed + 1) (2 ^ 32 - 1) })) ∧
    (frameEnds s m.toNetFrame = none → packFormOk m.bytes = true → h.type ≠ e.2 → exec (e.1 m) s = .next v) ∧
    (frameEnds s m.toNetFrame = none → packFormOk m.bytes = true → h.type = e.2 →
      (e.2 = 9 → exec (e.1 m) s = .next (hubCounted v m.hub fun k => { k with
        nackRx := min (k.nackRx + 1) (2 ^ 32 - 1)
        lastReason := getBe (packPayload m.bytes) 0 1
        lastMember := h.member })) ∧
      (e.2 ≠ 9 → findPack s h.pack = none → exec (e.1 m) s = .next (if e.2 = 4 then v else sendNack v m.hub m.port m.src none 1 m.bytes)) ∧
      (∀ p, e.2 ≠ 9 → findPack s h.pack = some p → p.n ≤ h.member ∨ 5 < h.srcHub ∨ memberAddr p h.member h.srcHub ≠ m.src →
        exec (e.1 m) s = .next (if e.2 = 4 then v else sendNack v m.hub m.port m.src (some p) 2 m.bytes)))) ∧
  (∀ e ∈ ([(.contrib, 1), (.reduced, 5), (.shardDone, 6), (.vote, 7)] : List ((PackRx → Instr) × Nat)),
    ∀ (m : PackRx) (s v : State) (p : Pack) (h : PackHdr) (mc : Bool) (x y : RecvStream), PackArrives s m e.2 p h → v = packIn s m h →
    mc = decide (e.2 ≠ 1) → x = getRecv v p mc h.member (if mc then 0 else h.srcHub) h.dstHub →
    (mc = true → unwrapSeq x.next h.seq < x.next → exec (e.1 m) s =
      .next (hubCounted v m.hub fun k => { k with repeatCnt := min (k.repeatCnt + 1) (2 ^ 32 - 1) })) ∧
    (mc = false → unwrapSeq x.next h.seq < x.next → exec (e.1 m) s =
      .next (sendAck (hubCounted v m.hub fun k => { k with repeatCnt := min (k.repeatCnt + 1) (2 ^ 32 - 1) }) { x with ce := x.ce || m.ce })) ∧
    (mc = false → x.next ≤ unwrapSeq x.next h.seq → (x.limit : Int) ≤ unwrapSeq x.next h.seq → exec (e.1 m) s =
      .next (sendNack v m.hub m.port m.src (some p) 8 m.bytes)) ∧
    (unwrapSeq x.next h.seq = x.next → x.buffer = [] → (mc = false → x.next < x.limit ∧ x.unacked ≠ 7) → y = { x with
        ce := x.ce || m.ce
        next := x.next + 1
        unacked := x.unacked + 1
        unackedAt := if x.unacked = 0 then s.now else x.unackedAt } →
      exec (e.1 m) s = .next (skipReplies (putRecv (deliver (putRecv v y) m p.id m.bytes) { y with gapSince := none, lastRepair := none })))) ∧
  (∀ (m : PackRx) (s v : State) (p : Pack) (h : PackHdr) (T : Nat), v = packIn s m h → T = getBe (packPayload m.bytes) 0 1 →
    (PackArrives s m 2 p h →
      (stepAcceptable p h.step = false → exec (.scale m) s = .next (rejectStale v m p m.bytes)) ∧
      (stepAcceptable p h.step = true → rxTensor v p h.tensor = none → exec (.scale m) s = .next (rejectUnknown v m p m.bytes 4)) ∧
      (∀ t, stepAcceptable p h.step = true → rxTensor v p h.tensor = some t →
        (shardRows t.rows p.n p.me = [] → exec (.scale m) s = .next (rejectUnknown v m p m.bytes 4)) ∧
        ∀ w same, shardRows t.rows p.n p.me ≠ [] → takeT (stepBitmap v p.id h.step t).1 p.id h.step t.id h.member (sgn 8 T) = (w, same) →
          exec (.scale m) s = .next (shardCheck (if same then
            sendPlain w p h.dstHub h.member h.srcHub 3 h.step t.id (beBytes 1 T ++ beBytes 3 0) else rejectUnknown w m p m.bytes 6) p h.step t))) ∧
    (PackArrives s m 3 p h → exec (.scaleAck m) s = .next { v with eth := { v.eth with scales := v.eth.scales.filter fun c =>
      !(c.pack == p.id && c.step == h.step && c.tensor == h.tensor && c.dst == h.member && getBe c.bytes 0 1 == T) } }) ∧
    (PackArrives s m 4 p h → (v.eth.sends.find? (sameSend p.id false h.dstHub h.member h.srcHub) = none → exec (.ack m) s = .next v) ∧
      ∀ x a lim, v.eth.sends.find? (sameSend p.id false h.dstHub h.member h.srcHub) = some x →
        a = unwrapSeq x.acked ((getBe (packPayload m.bytes) 0 4 + 1) % 2 ^ 32) → lim = unwrapSeq x.limit ((getBe (packPayload m.bytes) 4 4 + 1) % 2 ^ 32) →
        ∃ y, exec (.ack m) s = .next (putSend (flushStream v p y).1 (flushStream v p y).2) ∧ y.limit = max x.limit lim.toNat ∧ y.sent = x.sent ∧
          ((x.acked : Int) < a ∧ a ≤ x.sent → y.acked = a.toNat ∧ y.since = s.now ∧ y.interval = 300000) ∧
          (a ≤ x.acked ∨ (x.sent : Int) < a → y.acked = x.acked ∧ y.since = x.since ∧ y.interval = x.interval) ∧
          y.held = x.held.filter (fun o => decide (y.acked ≤ o.seq)) ∧
          (getBe (packPayload m.bytes) 8 4 % 2 = 1 → y.rate = rateNow s.now x.rate x.rateAt / 2 ∧ y.rateAt = s.now) ∧
          (getBe (packPayload m.bytes) 8 4 % 2 = 0 → y.rate = x.rate ∧ y.rateAt = x.rateAt)) ∧
    (PackArrives s m 8 p h → ∀ held, held = v.eth.sends.find? (fun x => x.pack == p.id && x.mc && x.dstHub == getBe (packPayload m.bytes) 0 1) →
      (held = none → exec (.repair m) s = .next (sendNack v m.hub m.port m.src (some p) 9 m.bytes)) ∧
      ∀ x lo hi out, held = some x → lo = (unwrapSeq x.next (getBe (packPayload m.bytes) 4 4)).toNat →
        hi = (if getBe (packPayload m.bytes) 8 4 = 0xFFFFFFFF then x.next else (unwrapSeq x.next (getBe (packPayload m.bytes) 8 4)).toNat + 1) →
        out = x.held.filter (fun o => decide (lo ≤ o.seq ∧ o.seq < hi)) →
        (out = [] → exec (.repair m) s = .next (sendNack v m.hub m.port m.src (some p) 9 m.bytes)) ∧
        (out ≠ [] → streamPort v p x.srcHub h.member h.srcHub none = none → exec (.repair m) s = .next v) ∧
        (∀ q, out ≠ [] → streamPort v p x.srcHub h.member h.srcHub none = some q → (portGw v x.srcHub q = 0 → exec (.repair m) s = .next v) ∧
          (portGw v x.srcHub q ≠ 0 → exec (.repair m) s =
            .next (out.foldl (fun w o => portSends w x.srcHub q (.pack x.srcHub q m.src o.bytes)) v))))) ∧
  (∀ (key : StreamKey) (s : State),
    (findPack s key.pack = none → exec (.ackTimer key) s = .next s ∧ exec (.retransmit key) s = .next s) ∧
    (∀ p, findPack s key.pack = some p →
      (s.eth.recvs.find? (sameRecv key.pack false key.member key.srcHub key.dstHub) = none → exec (.ackTimer key) s = .next s) ∧
      (∀ x lim due, s.eth.recvs.filter (fun y => !y.mc && y.hub == key.dstHub) = [x] →
        sameRecv key.pack false key.member key.srcHub key.dstHub x = true →
        lim = x.limit + min (4096 - (grantedBuffers s key.dstHub + stagedMsgs s key.dstHub)) (x.next + creditW p.n - x.limit) →
        due = ((0 < x.unacked ∧ x.unackedAt + 30000 ≤ s.now) ∨ (x.unacked = 0 ∧ x.told < lim)) →
        ∃ u, exec (.ackTimer key) s = .next u ∧
          u = { s with eth := { s.eth with recvs := u.eth.recvs, grantAt := u.eth.grantAt, ports := u.eth.ports, tx := u.eth.tx } } ∧
          (¬ due → u.eth.ports = s.eth.ports ∧ u.eth.tx = s.eth.tx ∧
            u.eth.recvs.find? (sameRecv key.pack false key.member key.srcHub key.dstHub) = some { x with limit := lim }) ∧
          (due → ∃ y, u.eth.recvs.find? (sameRecv key.pack false key.member key.srcHub key.dstHub) = some y ∧ lim ≤ y.limit ∧
            y = { x with unacked := 0, limit := y.limit, told := y.limit, ce := false })) ∧
      (s.eth.sends.find? (sameSend key.pack false key.srcHub key.member key.dstHub) = none → exec (.retransmit key) s = .next s) ∧
      (∀ x, s.eth.sends.find? (sameSend key.pack false key.srcHub key.member key.dstHub) = some x →
        (x.held.find? (fun o => decide (x.acked ≤ o.seq ∧ o.seq < x.sent)) = none ∨ s.now < x.since + x.interval ∨
          streamPort s p x.srcHub x.dst x.dstHub x.port = none → exec (.retransmit key) s = .next s) ∧
        (∀ o q, x.held.find? (fun o => decide (x.acked ≤ o.seq ∧ o.seq < x.sent)) = some o → x.since + x.interval ≤ s.now →
          streamPort s p x.srcHub x.dst x.dstHub x.port = some q → TablesForm s → ∃ u, exec (.retransmit key) s = .next u ∧ u = { s with eth := u.eth } ∧
            u.eth.sends.find? (sameSend key.pack false key.srcHub key.member key.dstHub) =
              some { x with port := some q, since := s.now, interval := min (2 * x.interval) 19200000 } ∧
            getHubEth u x.srcHub = { getHubEth s x.srcHub with retx := min ((getHubEth s x.srcHub).retx + 1) (2 ^ 32 - 1) } ∧
            (portGw s x.srcHub q = 0 → u.eth.tx = s.eth.tx ∧ u.eth.ports = s.eth.ports) ∧
            (portGw s x.srcHub q ≠ 0 → ∀ v, v = portSends s x.srcHub q (.pack x.srcHub q (memberAddr p x.dst x.dstHub) o.bytes) →
              u.eth.tx = v.eth.tx ∧ u.eth.ports = v.eth.ports))))) ∧
  (∀ (pack tensor : W32) (dst : W16) (s : State) (due : Option ScaleOut),
    due = s.eth.scales.find? (fun c => c.pack == pack.toNat && c.tensor == tensor.toNat && c.dst == dst.toNat && decide (c.at_ + 300000 ≤ s.now)) →
    (due = none ∨ findPack s pack.toNat = none ∨ findTensor s tensor.toNat = none → exec (.scaleResend pack tensor dst) s = .next s) ∧
    (∀ c p t v, due = some c → findPack s pack.toNat = some p → findTensor s tensor.toNat = some t →
      v = { s with eth := { s.eth with scales := s.eth.scales.map fun y => if y = c then { y with at_ := s.now } else y } } →
      exec (.scaleResend pack tensor dst) s = .next (sendPlain v p t.hub c.dst (destHub p c.dst t.hub) 2 c.step t.id c.bytes))) ∧
  (∀ (pack : W32) (src : W16) (s : State), (findPack s pack.toNat = none ∨ (∃ p, findPack s pack.toNat = some p ∧ p.n ≤ src.toNat) →
      exec (.repairTimer pack src) s = .next s) ∧
    ∀ p due, findPack s pack.toNat = some p → src.toNat < p.n → due = (fun (g : Nat) (x : RecvStream) => (∀ t, x.lastRepair = some t → t + 300000 ≤ s.now) ∧
        ((g = 0 ∧ lacksVote s p src.toNat = true) ∨ ∃ t, x.gapSince = some t ∧ t + 150000 ≤ s.now)) →
      (∃ u, exec (.repairTimer pack src) s = .next u ∧ u = { s with eth := u.eth } ∧ ∀ g x, g < 6 → x = getRecv s p true src.toNat 0 g →
        (due g x → getRecv u p true src.toNat 0 g = { x with lastRepair := some s.now }) ∧ (¬ due g x → getRecv u p true src.toNat 0 g = x)) ∧
      ((∀ g, g < 6 → ¬ due g (getRecv s p true src.toNat 0 g)) → exec (.repairTimer pack src) s = .next s) ∧
      ∀ g x hub upTo, g < 6 → x = getRecv s p true src.toNat 0 g → due g x → (∀ k, k < 6 → k ≠ g → ¬ due k (getRecv s p true src.toNat 0 k)) →
        hub = (if hubFitted s g then g else ((List.range 6).find? (hubFitted s)).getD 0) →
        upTo = (if g = 0 ∧ lacksVote s p src.toNat = true then 0xFFFFFFFF
          else (x.buffer.foldl (fun a q => min a q.1) (x.next + 2 ^ 31) + 2 ^ 32 - 1) % 2 ^ 32) →
        exec (.repairTimer pack src) s = .next (sendPlain (hubCounted (putRecv s { x with lastRepair := some s.now }) hub fun e =>
            { e with repair := min (e.repair + 1) (2 ^ 32 - 1) }) p hub src.toNat (destHub p src.toNat hub) 8 0 0
          (beBytes 1 g ++ beBytes 3 0 ++ beBytes 4 (x.next % 2 ^ 32) ++ beBytes 4 upTo)))

/-- R352 to R358, R360 to R363, R366, R420: what a CONTRIB, a REDUCED, a SHARD_DONE and a VOTE do once their stream delivers them, what the tally adds for
a contribution row, when a row is complete and what its reduced row holds, and how votes decide a step. The model's choices: an accumulator that saturates
counts each time and gives the bound with the sign of the exact sum (log 139); an unreadable bitmap trains no row (log 174). -/
def Obligations.PackMessagesDeliver : Prop :=
  (∀ (p : Pack) (n : Nat), stepAcceptable p n = true ↔ (∃ d, p.lastDecided = some d ∧ (n = d + 1 ∨ n = d + 2)) ∨
    (p.lastDecided = none ∧ ((∃ x ∈ p.steps.take 2, x.step = n) ∨ p.steps.length < 2))) ∧
  (∀ (s : State) (m : PackRx) (id : Nat) (b : List Byte), findPack s id = none → deliver s m id b = s) ∧
  (∀ (s : State) (m : PackRx) (b : List Byte) (p : Pack) (h : PackHdr) (nack : State → Nat → State), findPack s p.id = some p → h = packHdr b →
    nack = (fun v reason => sendNack v m.hub m.port m.src (some p) reason b) → ∀ (unknown dup : PackCnt → PackCnt),
    unknown = (fun k => { k with unknown := min (k.unknown + 1) (2 ^ 32 - 1) }) → dup = (fun k => { k with dup := min (k.dup + 1) (2 ^ 32 - 1) }) →
    (h.type ∈ [1, 5, 6, 7] → stepAcceptable p h.step = false → deliver s m p.id b =
      nack (packCounted s fun k => { k with stale := min (k.stale + 1) (2 ^ 32 - 1) }) 3) ∧
    (h.type ∈ [1, 5, 6] → stepAcceptable p h.step = true → h.tensor ∉ p.tensors ∨ findTensor s h.tensor = none →
      deliver s m p.id b = nack (packCounted s unknown) 4) ∧
    (∀ (t : Tensor) (v : State) (bm pl : List Byte) (x : TensorStep), stepAcceptable p h.step = true → h.tensor ∈ p.tensors → findTensor s h.tensor = some t →
      stepBitmap s p.id h.step t = (v, bm) → pl = packPayload b → x = getTS v p.id h.step t.id →
      (∀ (row blk nblk log2 : Nat) (T : Int) (mine ends : Prop) (seg : RowSeg) (same : RowSeg → Bool) (vals : List FVal), h.type = 1 →
        row = getBe pl 4 4 → blk = getBe pl 8 4 → nblk = getBe pl 12 2 → log2 = getBe pl 1 1 → T = sgn 8 (getBe pl 2 1) →
        ends = (getBe pl 14 2 % 2 = 1) → mine = (row < t.rows ∧ ownerOf t.rows p.n row = p.me ∧ trainedIn t bm row = true) →
        same = (fun q => q.member == h.member && q.row == row) → seg = (x.segs.find? same).getD ⟨h.member, row, 0, [], 0⟩ →
        vals = seg.vals ++ rxSegVals (getBe pl 0 1) log2 t.cols blk ((rxBlocks (getBe pl 0 1) log2 nblk (pl.drop 16)).getD []) →
        (¬ mine → deliver s m p.id b = shardCheck (nack (packCounted v unknown) 4) p h.step t) ∧
        (mine → h.member ∈ smGet [] x.bits row → deliver s m p.id b = shardCheck (nack (packCounted v dup) 5) p h.step t) ∧
        (mine → h.member ∉ smGet [] x.bits row →
          (∀ o, smGet? x.ts h.member = some o → o ≠ T → deliver s m p.id b = shardCheck (nack (packCounted v unknown) 6) p h.step t) ∧
          ((∀ o, smGet? x.ts h.member = some o → o = T) → ∀ form, form = (contribFmtOk (getBe pl 0 1) log2 = true ∧ blk = seg.blocks ∧
              seg.vals.length = blk * 2 ^ log2 ∧ blk + nblk ≤ (t.cols + 2 ^ log2 - 1) / 2 ^ log2 ∧
              (ends → blk + nblk = (t.cols + 2 ^ log2 - 1) / 2 ^ log2)) →
            (¬ form → deliver s m p.id b = shardCheck (nack (packCounted v unknown) 7) p h.step t) ∧
            (form → ∃ w, getTS w p.id h.step t.id = { x with
                ts := if smGet? x.ts h.member = none then smIns x.ts h.member T else x.ts
                segs := x.segs.filter (fun q => !same q) ++ (if getBe pl 14 2 % 2 = 1 then [] else [⟨h.member, row, blk + nblk, vals, seg.msgs + 1⟩])
                bits := if getBe pl 14 2 % 2 = 1 then smMod [] x.bits row (fun l => l ++ [h.member]) else x.bits
                staged := x.staged ++ (if getBe pl 14 2 % 2 = 1 then [⟨row, h.member, vals.take t.cols, seg.msgs + 1⟩] else []) } ∧
              w = { v with step := { v.step with packs := w.step.packs, cnt := { v.step.cnt with
                contrib := if getBe pl 14 2 % 2 = 1 then min (v.step.cnt.contrib + 1) (2 ^ 32 - 1) else v.step.cnt.contrib } } } ∧
              (ends → deliver s m p.id b = shardCheck (convertStaged w p h.step t) p h.step t) ∧
              (¬ ends → deliver s m p.id b = shardCheck w p h.step t))))) ∧
      (∀ (row col n : Nat), h.type = 5 → row = getBe pl 0 4 → col = getBe pl 4 4 → n = getBe pl 8 2 →
        ∀ theirs, theirs = (row < t.rows ∧ ownerOf t.rows p.n row = h.member ∧ trainedIn t bm row = true) →
        (¬ theirs → deliver s m p.id b = nack (packCounted v unknown) 4) ∧
        (theirs → t.cols < col + n → deliver s m p.id b = nack (packCounted v unknown) 7) ∧
        (theirs → col + n ≤ t.cols → deliver s m p.id b =
          placeReduced v p.id h.step t row col ((List.range n).map fun i => getBe pl (12 + 4 * i) 4)))) ∧
    (∀ (t : Tensor) (pl : List Byte) (x : TensorStep) (q : Partial) (up : Nat), h.type = 6 → stepAcceptable p h.step = true → h.tensor ∈ p.tensors →
      findTensor s h.tensor = some t → pl = packPayload b → x = getTS s p.id h.step t.id →
      q = (x.partials.find? fun q => q.member == h.member).getD { member := h.member } → up = (sgn 16 (getBe pl 2 2) + 298).toNat →
      (q.last = true → deliver s m p.id b = s) ∧
      (q.last = false → ∃ u, deliver s m p.id b = u ∧ u = { s with step := { s.step with packs := u.step.packs } } ∧
        getTS u p.id h.step t.id = { x with partials := x.partials.filter (fun y => y.member != h.member) ++ [{
          member := h.member
          sumsq := getBe pl 16 48 * 2 ^ up
          nonfinite := q.nonfinite || getBe pl 0 2 % 2 == 1
          last := getBe pl 0 2 / 2 % 2 == 1
          chunks := (List.range (getBe pl 4 4)).foldl (fun l i => smSet 0 l (getBe pl 8 8 + i) (getBe pl (72 + 48 * i) 48 * 2 ^ up)) q.chunks }] })) ∧
    (∀ x : PackStep, h.type = 7 → stepAcceptable p h.step = true → x = getPS s p.id h.step →
      ((∃ v ∈ x.votes, v.1 = h.member) → deliver s m p.id b = nack (packCounted s dup) 5) ∧
      ((∀ v ∈ x.votes, v.1 ≠ h.member) → ∃ v, deliver s m p.id b = voteCheck v p.id h.step ∧ v = { s with step := { s.step with packs := v.step.packs } } ∧
        getPS v p.id h.step = { x with votes := x.votes ++ [(h.member, getBe (packPayload b) 0 1 % 2 == 1)] }))) ∧
  (∀ (s : State) (p : Pack) (step : Nat) (t : Tensor) (x : TensorStep), x = getTS s p.id step t.id →
    ((∃ m, m < p.n ∧ smGet? x.ts m = none) → convertStaged s p step t = s) ∧
    ((∀ m, m < p.n → smGet? x.ts m ≠ none) → ∃ v, convertStaged s p step t =
        x.staged.foldl (fun o r => rowCheck (tallyRow o p.id step t.id r) p step t r.row) v ∧
      v = { s with step := { s.step with packs := v.step.packs } } ∧ getTS v p.id step t.id = { x with staged := [] })) ∧
  (∀ x : TensorStep, (∀ q ∈ x.ts, q.2 ≤ tMax x) ∧ ((∀ q ∈ x.ts, -126 ≤ q.2) → x.ts ≠ [] → ∃ q ∈ x.ts, tMax x = q.2)) ∧
  (∀ (m : Nat) (e : Int), (0 ≤ e → rneInt m e = m * 2 ^ e.toNat) ∧ (e < 0 → ∀ d k, d = 2 ^ (-e).toNat → k = rneInt m e →
    2 * m ≤ 2 * d * k + d ∧ 2 * d * k ≤ 2 * m + d ∧ (2 * m = 2 * d * k + d ∨ 2 * d * k = 2 * m + d → k % 2 = 0))) ∧
  (∀ (s : State) (pack step tensor : Nat) (r : Staged) (x : TensorStep) (k : FVal → Int) (nans : List Nat), findPack s pack ≠ none →
    x = getTS s pack step tensor →
    (∀ w, k w = match w with
      | .fin neg m e => (if neg then -1 else 1) * (rneInt m (e + ((smGet? x.ts r.member).getD 0 - (tMax x - 96))) : Int)
      | _ => 0) →
    nans = (List.range r.vals.length).filter (fun j => match r.vals[j]? with | some (.fin _ _ _) => false | _ => true) →
    ∃ u, tallyRow s pack step tensor r = u ∧
      u = { s with step := { s.step with packs := u.step.packs, cnt := { s.step.cnt with
        under := min (s.step.cnt.under + (r.vals.filter fun w => match w with | .fin _ m _ => m != 0 && k w == 0 | _ => false).length) (2 ^ 32 - 1)
        nonfinite := min (s.step.cnt.nonfinite + nans.length) (2 ^ 32 - 1) } } } ∧
      getTS u pack step tensor = { x with
        accs := smMod [] x.accs r.row fun l => smIns l r.member (r.vals.map k)
        nanBits := smMod [] x.nanBits r.row fun l => l ++ nans.filter fun j => decide (j ∉ l)
        convd := smMod [] x.convd r.row fun l => l ++ [r.member] }) ∧
  (∀ (s : State) (pack step tensor : Nat) (a b : Staged) (u v : State) (x y z : TensorStep), findPack s pack ≠ none → x = getTS s pack step tensor →
    a.member ≠ b.member → keysRise none x.accs = true → keysRise none x.nanBits = true → (∀ q ∈ x.accs, keysRise none q.2 = true) →
    u = tallyRow (tallyRow s pack step tensor a) pack step tensor b → v = tallyRow (tallyRow s pack step tensor b) pack step tensor a →
    y = getTS u pack step tensor → z = getTS v pack step tensor →
    y.accs = z.accs ∧ u.step.cnt = v.step.cnt ∧ ∀ row j, j ∈ smGet [] y.nanBits row ↔ j ∈ smGet [] z.nanBits row) ∧
  (∀ (s : State) (p : Pack) (step : Nat) (t : Tensor) (row : Nat) (x : TensorStep), findPack s p.id ≠ none → x = getTS s p.id step t.id →
    (row ∈ x.doneRows ∨ (smGet [] x.bits row).length < p.n ∨ (smGet [] x.convd row).length < p.n → rowCheck s p step t row = s) ∧
    (row ∉ x.doneRows → p.n ≤ (smGet [] x.bits row).length → p.n ≤ (smGet [] x.convd row).length → ∀ (ks : Nat → List Int) (es : List (Nat × Nat)) (nan : Nat → Prop),
      ks = (fun j => (smGet [] x.accs row).map fun c => c.2.getD j 0) → nan = (fun j => j < t.cols ∧ j ∈ smGet [] x.nanBits row) → es.length = t.cols →
      (∀ j e, es[j]? = some e → (nan j → e = (0x7FC00000, ((ks j).foldl tallyPut (0, 0)).2)) ∧ (¬ nan j → e = reduceElem (tMax x - 96) (ks j))) →
      ∃ v, rowCheck s p step t row =
          shardCheck (sendReduced (placeReduced v p.id step t row 0 (es.map (·.1))) p step t row (es.map (·.1))) p step t ∧
        v = { s with
          tower := { s.tower with nans := v.tower.nans }
          step := { s.step with
            packs := v.step.packs
            cnt := { s.step.cnt with tallySat := min (s.step.cnt.tallySat + (es.map (·.2)).sum) (2 ^ 32 - 1) } } } ∧
        ((∀ j, ¬ nan j) ∨ x.nanSent = true → v.tower.nans = s.tower.nans) ∧
        (∀ j, nan j → (∀ i, i < j → ¬ nan i) → x.nanSent = false →
          v.tower.nans = (nanHub s t.hub 5 t.id (row * t.cols + j) step (fenceTag s (getPS s p.id step))).tower.nans) ∧
        ∃ y, getTS v p.id step t.id = { x with
            doneRows := x.doneRows ++ [row]
            accs := smDel x.accs row
            nanBits := smDel x.nanBits row
            nanSent := y
            own := partialAdd t x.own row (es.map (·.1)) } ∧ (y = true ↔ x.nanSent = true ∨ ∃ j, nan j))) ∧
  (∀ (a : Int) (n : Nat) (k top : Int), top = 2 ^ 127 - 1 →
    (top < k → tallyPut (a, n) k = (top, n + 1)) ∧ (k < -top → tallyPut (a, n) k = (-top, n + 1)) ∧
    (-top ≤ k → k ≤ top → (-top ≤ a + k → a + k ≤ top → tallyPut (a, n) k = (a + k, n)) ∧ (top < a + k → tallyPut (a, n) k = (top, n + 1)) ∧
      (a + k < -top → tallyPut (a, n) k = (-top, n + 1)))) ∧
  (∀ (lsb : Int) (ks : List Int) (n m r : Nat), n = (ks.foldl tallyPut (0, 0)).2 → m = (if n = 0 then ks.sum.natAbs else 2 ^ 127 - 1) →
    r = (fpOfVal f32 (.fin (decide (ks.sum < 0)) m lsb)).bits →
    (m = 0 → reduceElem lsb ks = (0, 0)) ∧
    (m ≠ 0 → fpIsInf f32 r = false → reduceElem lsb ks = (r, n)) ∧
    (m ≠ 0 → fpIsInf f32 r = true → reduceElem lsb ks = (if ks.sum < 0 then 0xFF7FFFFF else 0x7F7FFFFF, n + 1)) ∧
    ((ks.map Int.natAbs).sum < 2 ^ 127 → n = 0 ∧ ∀ ls : List Int, ls.Perm ks → reduceElem lsb ls = reduceElem lsb ks)) ∧
  (∀ (s : State) (pack step : Nat) (t : Tensor) (row col : Nat) (vals : List Nat) (x : TensorStep) (parts : List (Nat × Nat × List Nat))
    (held : Nat → Prop) (at_ : Nat → Option Nat), findPack s pack ≠ none → x = getTS s pack step t.id →
    held = (fun j => smGet? x.reduced row ≠ none ∨ row ∈ x.released ∨ ∃ q ∈ x.redPart, q.1 = row ∧ q.2.1 ≤ j ∧ j < q.2.1 + q.2.2.length) →
    parts = x.redPart ++ [(row, col, vals)] →
    at_ = (fun j => (parts.find? fun q => q.1 == row && decide (q.2.1 ≤ j ∧ j < q.2.1 + q.2.2.length)).map fun q => q.2.2.getD (j - q.2.1) 0) →
    ((∀ j, j < vals.length → held (col + j)) → placeReduced s pack step t row col vals =
      packCounted s fun k => { k with dup := min (k.dup + 1) (2 ^ 32 - 1) }) ∧
    ((∃ j, j < vals.length ∧ ¬ held (col + j)) → ∃ u, placeReduced s pack step t row col vals = u ∧
      u = { s with step := { s.step with
        packs := u.step.packs
        latchDue := if step ∈ s.step.latchDue then s.step.latchDue else s.step.latchDue ++ [step] } } ∧
      (∀ whole, (List.range t.cols).map at_ = whole.map some → getTS u pack step t.id = { x with
        reduced := smIns x.reduced row whole
        redPart := x.redPart.filter fun q => q.1 != row }) ∧
      ((∃ j, j < t.cols ∧ at_ j = none) → getTS u pack step t.id = { x with redPart := parts }))) ∧
  (∀ (s : State) (p : Pack) (step : Nat) (t : Tensor) (row : Nat) (vals : List Nat), vals ≠ [] → vals.length ≤ 2237 → sendReduced s p step t row vals =
    sendGroup s p t.hub t.hub 5 step t.id
      (beBytes 4 row ++ beBytes 4 0 ++ beBytes 2 vals.length ++ beBytes 2 0 ++ vals.flatMap (beBytes 4))) ∧
  (∀ (t : Tensor) (q : Partial) (row : Nat) (vals : List Nat) (u : Partial), u = partialAdd t q row vals → u.member = q.member ∧ u.last = q.last ∧
    u.sumsq = q.sumsq + (vals.map sqUnits).sum ∧ (u.nonfinite = true ↔ q.nonfinite = true ∨ ∃ b ∈ vals, fpIsNan f32 b = true) ∧
    (tClipChunk t = false → u.chunks = q.chunks) ∧
    (tClipChunk t = true → t.chunk ≠ 0 → keysRise none q.chunks = true → ∀ c, smGet 0 u.chunks c = smGet 0 q.chunks c +
      ((List.range vals.length).map fun j => if (row * t.cols + j) / t.chunk = c then sqUnits (vals.getD j 0) else 0).sum)) ∧
  (∀ (b : Nat) (neg : Bool) (m : Nat) (e : Int), fpVal f32 b = .fin neg m e → sqUnits b = m * m * 2 ^ (2 * e + 298).toNat) ∧
  (∀ (s : State) (p : Pack) (step : Nat) (t : Tensor) (x : TensorStep) (mine rows : List Nat) (waits : Prop), findPack s p.id ≠ none →
    x = getTS s p.id step t.id → mine = shardRows t.rows p.n p.me → rows = mine.filter (trainedIn t (x.bitmap.getD [])) →
    waits = (x.shardSent = true ∨ (tMasked t = true ∧ x.bitmap = none ∧ mine ≠ []) ∨ ∃ r ∈ rows, r ∉ x.doneRows) →
    (waits → shardCheck s p step t = s) ∧
    (¬ waits → ∀ (q : Partial) (lsb : Int), q = { x.own with member := p.me, last := true } →
      lsb = (if rows = [] then -298 else max (2 * (tMax x - 96)) (-298)) → ∃ v, shardCheck s p step t = sendShardDone v p step t lsb rows q ∧
        v = { s with step := { s.step with packs := v.step.packs } } ∧
        getTS v p.id step t.id = { x with shardSent := true, partials := x.partials.filter (fun y => y.member != p.me) ++ [q] })) ∧
  (∀ (s : State) (p : Pack) (step : Nat) (t : Tensor) (lsb : Int) (rows : List Nat) (q : Partial) (c n up : Nat), chunkSpan t rows = (c, n) → n ≤ 185 →
    up = (lsb + 298).toNat → sendShardDone s p step t lsb rows q = sendGroup s p t.hub t.hub 6 step t.id
      (beBytes 2 (if q.nonfinite then 3 else 2) ++ beBytes 2 (wrapN 16 lsb) ++ beBytes 4 n ++ beBytes 8 c ++ beBytes 48 (q.sumsq / 2 ^ up) ++
        beBytes 8 0 ++ (List.range n).flatMap fun j => beBytes 48 (smGet 0 q.chunks (c + j) / 2 ^ up))) ∧
  (∀ x : TensorStep, (tensorFlag x = true ↔ ∃ q ∈ x.partials, q.nonfinite = true) ∧ (tensorFlag x = true → tensorNorm2 x = 0x7FC00000) ∧
    (tensorFlag x = false → tensorNorm2 x = (fpOfVal f32 (.fin false (x.partials.map (·.sumsq)).sum (-298))).bits)) ∧
  (∀ (s : State) (pack step : Nat) (p : Pack) (x : PackStep), findPack s pack = some p → findPS p step = some x →
    (x.decision ≠ none ∨ (∃ m, m < p.n ∧ ∀ v ∈ x.votes, v.1 ≠ m) → voteCheck s pack step = s) ∧
    (x.decision = none → (∀ m, m < p.n → ∃ v ∈ x.votes, v.1 = m) → ∀ commit, commit = x.votes.all (·.2) → ∃ u q, voteCheck s pack step = u ∧
      getPS u pack step = { x with decision := some (commit, 0, if commit then 0 else 0x0402, 0) } ∧
      findPack u pack = some q ∧ q.lastDecided = some step ∧
      u.step.cnt = { s.step.cnt with skip := if commit then s.step.cnt.skip else min (s.step.cnt.skip + 1) (2 ^ 32 - 1) }))

/-! ### Ports and the host link -/

/-- R411, R412, R415: the RoCEv2 connections: requests, acknowledgements and congestion packets as they arrive, retries, and the rate's recovery. The
model's choices (log 11, PRESUMED: the InfiniBand specification that R411 names): packet numbers, NAK codes, the answer to a duplicate; (log 183, PRESUMED)
where a received header has its fields. -/
def Obligations.RocePackets : Prop :=
  (∀ e ∈ ([.rdmaWrite, .rdmaRead, .rcInvalidRequest, .rcAck] : List (RocePkt → Instr)), ∀ (m : RocePkt) (s : State),
    (∀ u, frameEnds s m.toNetFrame = some u → exec (e m) s = .next u) ∧
    (frameEnds s m.toNetFrame = none → findConn s m.qpn = none ∨ (∃ c, findConn s m.qpn = some c ∧ (c.error = true ∨ c.hub ≠ m.hub)) →
      exec (e m) s = .next (frameArrived s m.toNetFrame))) ∧
  (∀ (m : RocePkt) (s v : State) (c : RcConn) (d : Int), RoceArrives s m c → v = roceIn s m c → d = sgn 24 (m.psn + 2 ^ 24 - c.recvPsn % 2 ^ 24) →
    (d < 0 → ∀ e ∈ ([.rdmaWrite, .rcInvalidRequest] : List (RocePkt → Instr)),
      exec (e m) s = .next (connSends v c (.ack c.remoteQpn (m.psn % 2 ^ 24)))) ∧
    (0 < d → ∀ e ∈ ([.rdmaWrite, .rdmaRead, .rcInvalidRequest] : List (RocePkt → Instr)),
      exec (e m) s = .next (connSends v c (.nak c.remoteQpn (c.recvPsn % 2 ^ 24) 0))) ∧
    (d < 0 → (rcDenied v c false m = true → exec (.rdmaRead m) s = .next (rcRefused v c m 2)) ∧
      (rcDenied v c false m = false → 16 ≤ readsOut v c → exec (.rdmaRead m) s = .next (rcRefused v c m 1)) ∧
      (rcDenied v c false m = false → readsOut v c < 16 → ∀ w r, memRead v m.va m.len = (w, r) →
        (∀ x, r = .error x → exec (.rdmaRead m) s = .next (rcRefused w c m 2)) ∧
        (∀ bs, r = .ok bs → exec (.rdmaRead m) s = .next ((readPackets c m.psn bs).foldl (fun o t => connSends o c t) w))))) ∧
  (∀ (v : State) (c : RcConn), readsOut v c = ((getPort v (c.hub * 16 + c.port)).txHeld.filter fun t => match t with
    | .roce _ _ _ dst (.readResp q _ _ last _) => last && q == c.remoteQpn && dst == c.remoteAddr
    | _ => false).length) ∧
  (∀ (m : RocePkt) (s v : State) (c : RcConn), RoceArrives s m c → v = roceIn s m c → sgn 24 (m.psn + 2 ^ 24 - c.recvPsn % 2 ^ 24) = 0 →
    exec (.rcInvalidRequest m) s = .next (rcRefused v c m 1) ∧
    (m.rkey ≠ c.rkey ∨ ¬ (m.va < 2 ^ 48 ∧ m.va % 4 = 0 ∧ m.len % 4 = 0 ∧ 4 ≤ m.len ∧ m.len ≤ 2 ^ 28) →
      exec (.rdmaRead m) s = .next (rcRefused v c m 2) ∧ (m.first = true → exec (.rdmaWrite m) s = .next (rcRefused v c m 2))) ∧
    (devAccessFault v false m.va m.len ≠ none → exec (.rdmaRead m) s = .next (rcRefused v c m 2)) ∧
    (rcDenied v c false m = false → 16 ≤ readsOut v c → exec (.rdmaRead m) s = .next (rcRefused v c m 1)) ∧
    (rcDenied v c false m = false → readsOut v c < 16 → ∀ w r, memRead v m.va m.len = (w, r) →
      (∀ x, r = .error x → exec (.rdmaRead m) s = .next (rcRefused w c m 2)) ∧
      (∀ bs, r = .ok bs → exec (.rdmaRead m) s = .next ((readPackets c m.psn bs).foldl (fun o t => connSends o c t) (connChanged w c.qpn fun x =>
        { x with recvPsn := (x.recvPsn + (m.len + 4095) / 4096) % 2 ^ 24 })) ∧
        (readPackets c m.psn bs).length = (bs.length + 4095) / 4096 ∧
        ∀ t ∈ readPackets c m.psn bs, ∃ psn a b part, t = .readResp c.remoteQpn psn a b part ∧ part.length ≤ 4096)) ∧
    (m.first = true → devAccessFault v true m.va m.len ≠ none → exec (.rdmaWrite m) s = .next (rcRefused v c m 2)) ∧
    (m.first = false → c.write = none → exec (.rdmaWrite m) s = .next (rcRefused v c m 1)) ∧
    (∀ a left, (m.first = true → rcDenied v c true m = false ∧ a = m.va ∧ left = m.len) →
      (m.first = false → c.write = some (a, left)) →
      (left < m.data.length ∨ (m.last = true ∧ m.data.length ≠ left) ∨ 4096 < m.data.length ∨ (m.last = false ∧ m.data.length ≠ 4096) →
        exec (.rdmaWrite m) s = .next (rcRefused v c m 1)) ∧
      (m.data.length ≤ left → m.data.length ≤ 4096 → (m.last = true → m.data.length = left) → (m.last = false → m.data.length = 4096) → ∀ w r x, memWrite v a m.data = (w, r) →
        x = connChanged w c.qpn (fun y => { y with
          recvPsn := (y.recvPsn + 1) % 2 ^ 24
          write := if m.last then none else some (a + m.data.length, left - m.data.length) }) →
        (∀ y, r = .error y → exec (.rdmaWrite m) s = .next (rcRefused w c m 2)) ∧
        (r = .ok () → m.last = false → exec (.rdmaWrite m) s = .next x) ∧
        (r = .ok () → m.last = true → ∀ y, y = connSends x c (.ack c.remoteQpn (m.psn % 2 ^ 24)) →
          (m.imm = none ∨ (∃ i, m.imm = some i ∧ i.toNat % 65536 = 0) → exec (.rdmaWrite m) s = .next y) ∧
          (∀ i, m.imm = some i → i.toNat % 65536 ≠ 0 → exec (.rdmaWrite m) s = .next (syncAdd y (i.toNat / 65536) (i.toNat % 65536))))))) ∧
  (∀ (m : RocePkt) (s : State) (c : RcConn) (done : List Flight), RoceArrives s m c →
    done = c.flights.takeWhile (fun f => decide (0 ≤ sgn 24 (m.psn + 2 ^ 24 - f.lastPsn % 2 ^ 24))) → exec (.rcAck m) s =
      .next (closeCheck (done.foldl (fun o f => nwPost o f.slot 0) (connChanged (roceIn s m c) c.qpn fun x => { x with
        flights := x.flights.drop done.length
        retries := 0
        since := s.now })) c.qpn)) ∧
  (∀ (hub qpn : Nat) (s : State), (findConn s qpn = none → exec (.rcRetry hub qpn) s = .next s ∧ exec (.rateRecovery hub qpn) s = .next s) ∧
    ∀ c, findConn s qpn = some c →
      (c.hub ≠ hub ∨ c.error = true ∨ c.flights = [] ∨ s.now < c.since + 3000000 → exec (.rcRetry hub qpn) s = .next s) ∧
      (c.hub = hub → c.error = false → c.flights ≠ [] → c.since + 3000000 ≤ s.now →
        (c.retries < 7 → exec (.rcRetry hub qpn) s = .next ((c.flights.flatMap (·.pkts)).foldl (fun o t => connSends o c t)
          (connChanged s qpn fun x => { x with retries := x.retries + 1, since := s.now }))) ∧
        (7 ≤ c.retries → exec (.rcRetry hub qpn) s = .next (closeCheck (c.flights.foldl (fun o f => nwPost o f.slot 0x0305)
          (hubCounted (connChanged s qpn fun x => { x with error := true, flights := [] }) hub fun k => { k with
            rcErr := min (k.rcErr + 1) (2 ^ 32 - 1) })) qpn))) ∧
      (c.hub = hub → c.rate < 2 ^ 32 → c.rateAt + 150000 ≤ s.now → exec (.rateRecovery hub qpn) s =
        .next (connChanged s qpn fun x => { x with rate := min (2 ^ 32) (x.rate + 2 ^ 28), rateAt := s.now })) ∧
      (c.hub ≠ hub ∨ 2 ^ 32 ≤ c.rate ∨ s.now < c.rateAt + 150000 → exec (.rateRecovery hub qpn) s = .next s)) ∧
  (∀ (m : RocePkt) (s v : State), v = frameArrived s m.toNetFrame → (∀ u, frameEnds s m.toNetFrame = some u → exec (.cnpReceived m) s = .next u) ∧
    (frameEnds s m.toNetFrame = none →
      (findConn s m.qpn = none ∨ (∃ c, findConn s m.qpn = some c ∧ c.hub ≠ m.hub) → exec (.cnpReceived m) s = .next v) ∧
      ∀ c, findConn s m.qpn = some c → c.hub = m.hub → exec (.cnpReceived m) s =
        .next (connChanged v m.qpn fun x => { x with rate := x.rate / 2, rateAt := s.now })))

/-- R402 to R410: the ports' frames, flow control and link states. The model's choices: what a request for another address counts (log 170), what becomes
of frames that wait and of the receive buffers when a link goes down (log 171), the priority of a frame without a class (log 154), a LINK_DOWN for
uncorrectable codewords tells their count in 10 ms (log 174), an ICMP message that is discarded counts as a received frame (log 59), and where a received
header has its fields (log 183, PRESUMED). -/
def Obligations.PortEvents : Prop :=
  (∀ (f : NetFrame) (s v drop : State) (mac asked : Nat), mac = (s.dev.fuses.macBase + (f.hub * 16 + f.port)) % 2 ^ 48 →
    asked = 0x3333FF000000 + portIp s f.hub f.port true % 2 ^ 24 → v = frameArrived s f → drop = portChanged v f.hub f.port (fun p => { p with
      rxDrop := min (p.rxDrop + 1) (2 ^ 64 - 1) }) →
    (portUp s f.hub f.port = false → exec (.arpRequest f) s = .next s ∧ exec (.neighbourSolicitation f) s = .next s ∧ exec (.icmpDiscard f) s = .next s ∧
      exec (.rxDrop f) s = .next s ∧ ∀ kind, exec (.malformedFrame f kind) s = .next s) ∧
    (portUp s f.hub f.port = true → f.size < 64 ∨ 9216 < f.size → ∀ i ∈ ([.arpRequest f, .neighbourSolicitation f, .icmpDiscard f, .rxDrop f,
      .malformedFrame f .fcs, .malformedFrame f .ip, .malformedFrame f .udp, .malformedFrame f .pack] : List Instr),
      exec i s = .next (portChanged s f.hub f.port (frameCounts f false))) ∧
    (portUp s f.hub f.port = true → exec (.malformedFrame f .fcs) s = .next (portChanged s f.hub f.port (frameCounts f false))) ∧
    (portUp s f.hub f.port = true → 64 ≤ f.size → f.size ≤ 9216 →
      (f.isArp = false ∨ (f.dstMac ≠ mac ∧ f.dstMac ≠ 2 ^ 48 - 1) ∨ f.dst ≠ portIp s f.hub f.port false → exec (.arpRequest f) s = .next drop) ∧
      (f.isArp = true → f.dstMac = mac ∨ f.dstMac = 2 ^ 48 - 1 → f.dst = portIp s f.hub f.port false → exec (.arpRequest f) s =
        .next (portSends v f.hub f.port (.arpReply f.hub f.port f.srcMac f.src))) ∧
      (f.isNs = false ∨ (f.dstMac ≠ mac ∧ f.dstMac ≠ asked) ∨ f.dst ≠ portIp s f.hub f.port true ∨ f.dst = 0 →
        exec (.neighbourSolicitation f) s = .next drop) ∧
      (f.isNs = true → f.dstMac = mac ∨ f.dstMac = asked → f.dst = portIp s f.hub f.port true → f.dst ≠ 0 → f.src ≠ 0 → exec (.neighbourSolicitation f) s =
        .next (if portGw s f.hub f.port = 0 then v else portSends v f.hub f.port (.neighbourAdvert f.hub f.port f.src))) ∧
      (f.isNs = true → f.dstMac = mac ∨ f.dstMac = asked → f.dst = portIp s f.hub f.port true → f.dst ≠ 0 → f.src = 0 → exec (.neighbourSolicitation f) s =
        .next (portSends v f.hub f.port (.neighbourAdvert f.hub f.port (0xFF02 * 2 ^ 112 + 1)))) ∧
      exec (.icmpDiscard f) s = .next v ∧
      ((f.dstMac ≠ mac ∧ joined s f.hub f.port f.dst = false ∧ f.dst ≠ 0) ∨
        (f.dst ≠ 0 ∧ f.dst ≠ portIp s f.hub f.port false ∧ f.dst ≠ portIp s f.hub f.port true ∧ joined s f.hub f.port f.dst = false) ∨
        (f.udp ∉ [0, 23108, 4791, 319, 320]) → exec (.rxDrop f) s = .next drop) ∧
      (frameOurs s f = true → exec (.rxDrop f) s = .next v) ∧
      ∀ kind, kind ≠ .fcs → exec (.malformedFrame f kind) s =
        .next (hubCounted v f.hub fun k => { k with malformed := min (k.malformed + 1) (2 ^ 32 - 1) }))) ∧
  (∀ (hub port : Nat) (enable : BitVec 8) (quanta : List W16) (s : State) (p : PortSt), p = getPort s (hub * 16 + port) → TablesForm s →
    (portUp s hub port = false → exec (.pfcFrame hub port enable quanta) s = .next s) ∧
    (portUp s hub port = true → p.txHeld = [] → keysRise none p.pausedTill = true → keysRise none p.pausedSince = true → ∃ u q,
      exec (.pfcFrame hub port enable quanta) s = .next u ∧ q = getPort u (hub * 16 + port) ∧ u = { s with eth := { s.eth with ports := u.eth.ports } } ∧
      (∀ n, n ≠ hub * 16 + port → getPort u n = getPort s n) ∧ q = { p with
        rxFrames := min (p.rxFrames + 1) (2 ^ 64 - 1)
        pfcRx := min (p.pfcRx + 1) (2 ^ 32 - 1)
        pausedTill := q.pausedTill
        pausedSince := q.pausedSince } ∧
      ∀ i till on ignored, i < 8 → on = (enable.getLsbD i = true ∧ hubEthF s hub 18 8 / 2 ^ i % 2 = 1) →
        ignored = (∃ t, smGet? p.ignoreTill i = some t ∧ s.now < t) →
        till = s.now + (quanta.getD i 0).toNat * 1536 / (200 * max 1 (portLanes s hub port)) →
        (¬ on ∨ ignored → smGet? q.pausedTill i = smGet? p.pausedTill i ∧ smGet? q.pausedSince i = smGet? p.pausedSince i) ∧
        (on → ¬ ignored → till = s.now → smGet? q.pausedTill i = none ∧ smGet? q.pausedSince i = none) ∧
        (on → ¬ ignored → s.now < till → smGet? q.pausedTill i = some till ∧
          ((∃ t, smGet? p.pausedTill i = some t ∧ s.now < t) → smGet? q.pausedSince i = smGet? p.pausedSince i) ∧
          ((∀ t, smGet? p.pausedTill i = some t → t ≤ s.now) → smGet? q.pausedSince i = some s.now)))) ∧
  (∀ (hub port : Nat) (prio : BitVec 3) (s : State) (p : PortSt) (due : Prop), p = getPort s (hub * 16 + port) → due = (∃ t till,
      smGet? p.pausedSince prio.toNat = some t ∧ smGet? p.pausedTill prio.toNat = some till ∧ t + 600000000 ≤ s.now ∧ s.now < till) →
    (¬ due → exec (.pfcWatchdog hub port prio) s = .next s) ∧
    (due → exec (.pfcWatchdog hub port prio) s = .next (portRelease (portChanged s hub port fun y => { y with
      pausedTill := smDel y.pausedTill prio.toNat
      pausedSince := smDel y.pausedSince prio.toNat
      pfcWd := min (y.pfcWd + 1) (2 ^ 32 - 1)
      ignoreTill := smIns y.ignoreTill prio.toNat (s.now + 600000000) }) hub port))) ∧
  (∀ (hub port : Nat) (s : State) (p : PortSt) (n : Nat), n = hub * 16 + port → p = getPort s n → TablesForm s → eventCount s + 1 < 1024 → s.mp.dropRun = 0 →
    (∀ cause code v down n2, (cause, code) ∈ ([(.signal, 1), (.fec, 2), (.codewords n2, 2), (.command, 4)] : List (LinkCause × Nat)) →
      down = min (p.downCnt + 1) (2 ^ 32 - 1) →
      v = withEvent s 0x0502 0x0010 (leBytes 1 hub ++ leBytes 1 port ++ leBytes 1 0 ++ leBytes 1 code ++ leBytes 4 down) →
      (portUp s hub port = false → exec (.linkDown hub port cause) s = .next s) ∧
      (portUp s hub port = true → cause = .codewords n2 → n2 ≤ 100 → ∃ u, exec (.linkDown hub port cause) s = .next u ∧
        u = { s with eth := { s.eth with ports := u.eth.ports } } ∧ (∀ k, k ≠ n → getPort u k = getPort s k) ∧
        getPort u n = { p with fecCorr := min p.fecCorr (2 ^ 64 - 1), fecUncorr := min (p.fecUncorr + n2) (2 ^ 64 - 1) }) ∧
      (portUp s hub port = true → (cause = .codewords n2 → 100 < n2) → ∃ u, exec (.linkDown hub port cause) s = .next u ∧ u = { s with eth := u.eth, mp := u.mp } ∧
        (getPort u n).state = 1 ∧ (getPort u n).downCnt = down ∧ (getPort u n).trainAt = s.now ∧
        (getPort u n).fecUncorr = min (p.fecUncorr + (if cause = .codewords n2 then n2 else 0)) (2 ^ 64 - 1) ∧
        (∀ q, s.eth.ptp = some q → q.port = n → u.eth.ptp = none) ∧
        (∀ k, k ≠ n → (getPort u k).state = (getPort s k).state) ∧
        u.mp = (withEvent v 0 0x0010 (leBytes 1 hub ++ leBytes 1 port ++ leBytes 1 1 ++ leBytes 1 0 ++ leBytes 4 down)).mp)) ∧
    (portMapped s hub port = true → p.state = 1 → ∃ u, exec (.linkUp hub port) s = .next u ∧ u = { s with eth := u.eth, mp := u.mp } ∧
      (getPort u n).state = 2 ∧ (getPort u n).downCnt = p.downCnt ∧ (∀ k, k ≠ n → (getPort u k).state = (getPort s k).state) ∧
      u.mp = (withEvent s 0 0x0010 (leBytes 1 hub ++ leBytes 1 port ++ leBytes 1 2 ++ leBytes 1 0 ++ leBytes 4 p.downCnt)).mp) ∧
    (portMapped s hub port = false ∨ p.state ≠ 1 → exec (.linkUp hub port) s = .next s)) ∧
  (∀ (hub port : Nat) (s : State) (p : PortSt) (due : Prop), p = getPort s (hub * 16 + port) →
    due = (portMapped s hub port = true ∧ p.state = 1 ∧ p.trainAt + 1500000000 ≤ s.now) →
    (¬ due → exec (.anRetry hub port) s = .next s) ∧
    (due → exec (.anRetry hub port) s =
      .next { s with eth := { s.eth with ports := smMod {} s.eth.ports (hub * 16 + port) fun y => { y with trainAt := s.now } } }))

/-- R429 to R443: the flits, timers and states of the host link. The model's choices: an INIT flit in UP is checked and has no other effect (log 71),
training begins at most each 100 ms and RECOVERY stays with failed lanes (log 121), the credits that an INIT exchange offers (log 152). -/
def Obligations.HostLinkEvents : Prop :=
  (∀ e ∈ ([(.dataFlit, 1), (.creditFlit, 2), (.idleFlit, 0)] : List ((List Byte → Instr) × Nat)), ∀ (raw : List Byte) (s : State),
    (s.bxl.state ≠ 4 → exec (e.1 raw) s = .next s) ∧
    (s.bxl.state = 4 → flitOpen raw = none → ∃ u, exec (e.1 raw) s = .next u ∧
      NakSent { s with bxl := { s.bxl with badFlit := min (s.bxl.badFlit + 1) (2 ^ 32 - 1) } } u) ∧
    (∀ bs fixed h v, s.bxl.state = 4 → flitOpen raw = some (bs, fixed) → h = flitHeader bs →
      v = { s with bxl := { s.bxl with fecCorr := if fixed then min (s.bxl.fecCorr + 1) (2 ^ 32 - 1) else s.bxl.fecCorr } } →
      (h.kind ≠ e.2 → exec (e.1 raw) s = .next s) ∧
      (h.kind = e.2 → e.2 ≠ 0 → 0 < seqDiff h.fseq s.bxl.rxSeq → ∃ u, exec (e.1 raw) s = .next u ∧ NakSent v u) ∧
      (h.kind = e.2 → e.2 ≠ 0 → seqDiff h.fseq s.bxl.rxSeq < 0 → exec (e.1 raw) s = .next v) ∧
      (h.kind = 0 → e.2 = 0 → flitFormOk h = false → exec (e.1 raw) s =
        .next { v with bxl := { v.bxl with protoErr := min (v.bxl.protoErr + 1) (2 ^ 32 - 1) } }) ∧
      (h.kind = 0 → e.2 = 0 → flitFormOk h = true → ∃ w, (h.nak = false → exec (e.1 raw) s = .next w) ∧
        (h.nak = true → ∃ u, exec (e.1 raw) s = .next u ∧ Replayed w u) ∧
        (0 ≤ seqDiff h.ack s.bxl.txSeq → w = { v with bxl := { v.bxl with protoErr := min (v.bxl.protoErr + 1) (2 ^ 32 - 1) } }) ∧
        (seqDiff h.ack s.bxl.txSeq < 0 → w.bxl.unacked = s.bxl.unacked.filter (fun f => decide (0 < seqDiff f.fseq h.ack)) ∧
          ((∀ f ∈ s.bxl.unacked, 0 < seqDiff f.fseq h.ack) → w = v))) ∧
      (h.kind = e.2 → e.2 ≠ 0 → seqDiff h.fseq s.bxl.rxSeq = 0 → ∀ w x, w = { v with bxl := { v.bxl with
          rxSeq := (v.bxl.rxSeq + 1) % 4096
          nakSent := false } } → x = creditIn (ackIn w h) h →
        (e.2 = 2 → flitFormOk h = false → ∃ u, u = { w with bxl := { w.bxl with protoErr := min (w.bxl.protoErr + 1) (2 ^ 32 - 1) } } ∧
          exec (e.1 raw) s = .next (ackOut v u)) ∧
        (∀ y, e.2 = 1 → flitFormOk h = false ∨ h.sop ≠ (openPkt w h.vc).isNone →
          y = (if 0 < smGet 0 w.bxl.granted h.vc then returnCredit (spendCredit w h.vc) h.vc 1 else w) → exec (e.1 raw) s =
          .next (ackOut v (abortOpen { y with bxl := { y.bxl with protoErr := min (y.bxl.protoErr + 1) (2 ^ 32 - 1) } } h.vc))) ∧
        (e.2 = 2 → flitFormOk h = true → exec (e.1 raw) s = .next (ackOut v x)) ∧
        (e.2 = 1 → flitFormOk h = true → h.sop = (openPkt w h.vc).isNone → 0 < smGet 0 x.bxl.granted h.vc →
          exec (e.1 raw) s = .next (ackOut v (takeData (spendCredit x h.vc) h ((bs.drop 8).take h.fill)))) ∧
        (e.2 = 1 → flitFormOk h = true → h.sop = (openPkt w h.vc).isNone → smGet 0 x.bxl.granted h.vc = 0 →
          exec (e.1 raw) s = .next (ackOut v (overrunFlit x h)))))) ∧
  (∀ (s : State) (h : FlitHdr) (data : List Byte), openPkt s h.vc = none → h.eop = false → takeData s h data = { s with bxl := { s.bxl with
    opens := s.bxl.opens.filter (fun o => o.vc != h.vc) ++ [⟨h.vc, data.take 4100, data.length, 1, false, decide (h.vc = 2) && !bulkKnown s (getLe data 0 4)⟩] } }) ∧
  (∀ (s : State) (phase : Prop), phase = (s.bxl.state = 3 ∨ (s.bxl.state = 5 ∧ s.bxl.initPhase = true)) →
    (¬ phase → exec .initResend s = .next s ∧ (s.bxl.state ≠ 4 → ∀ raw, exec (.initFlit raw) s = .next s)) ∧
    (∀ raw, s.bxl.state = 4 → flitOpen raw = none → ∃ u, exec (.initFlit raw) s = .next u ∧
      NakSent { s with bxl := { s.bxl with badFlit := min (s.bxl.badFlit + 1) (2 ^ 32 - 1) } } u) ∧
    (∀ raw bs fixed h v, s.bxl.state = 4 → flitOpen raw = some (bs, fixed) → h = flitHeader bs →
      v = { s with bxl := { s.bxl with fecCorr := if fixed then min (s.bxl.fecCorr + 1) (2 ^ 32 - 1) else s.bxl.fecCorr } } →
      (h.kind ≠ 3 → exec (.initFlit raw) s = .next s) ∧
      (h.kind = 3 → exec (.initFlit raw) s = .next (if flitFormOk h = true ∧ seqDiff h.ack s.bxl.txSeq < 0 then v else
        { v with bxl := { v.bxl with protoErr := min (v.bxl.protoErr + 1) (2 ^ 32 - 1) } }))) ∧
    (s.now < s.bxl.lastInit + 3000 → exec .initResend s = .next s) ∧
    (phase → s.bxl.lastInit + 3000 ≤ s.now → ∃ u, exec .initResend s = .next u ∧ InitSent s u) ∧
    (∀ raw, phase → flitOpen raw = none → exec (.initFlit raw) s =
      .next { s with bxl := { s.bxl with badFlit := min (s.bxl.badFlit + 1) (2 ^ 32 - 1) } }) ∧
    (∀ raw bs fixed h v, phase → flitOpen raw = some (bs, fixed) → h = flitHeader bs →
      v = { s with bxl := { s.bxl with fecCorr := if fixed then min (s.bxl.fecCorr + 1) (2 ^ 32 - 1) else s.bxl.fecCorr } } →
      (h.kind ≠ 3 → exec (.initFlit raw) s = .next s) ∧
      (h.kind = 3 → flitFormOk h = false → exec (.initFlit raw) s =
        .next { v with bxl := { v.bxl with protoErr := min (v.bxl.protoErr + 1) (2 ^ 32 - 1) } }) ∧
      (h.kind = 3 → flitFormOk h = true → ∃ w x y again rx n l, again = (s.bxl.seqReset || (getB bs 11).testBit 0) ∧ rx = getLe bs 12 2 % 4096 ∧
        n = ([h.ack, rx].filter fun a => decide (0 ≤ seqDiff a s.bxl.txSeq)).length ∧
        w = (if again then seqResetBoth v else if n = 0 then v
          else { v with bxl := { v.bxl with protoErr := min (v.bxl.protoErr + n) (2 ^ 32 - 1) } }) ∧ InitSent w x ∧
        y = { linkAt x 4 with bxl := { (linkAt x 4).bxl with seqReset := false, replayFrom := none, replayRun := 0, ackSince := s.now } } ∧
        l = (if 0 ≤ seqDiff rx s.bxl.txSeq then (s.bxl.txSeq + 4095 - s.bxl.unacked.length) % 4096 else rx) ∧
        exec (.initFlit raw) s = .next (sendCredits (pump (if again then sendAgain (takeFree y bs)
          else resendAll (takeFree (ackFlits (settleCredits y l) l) bs))))))) ∧
  (∀ s : State,
    (s.bxl.state ≠ 4 ∨ s.now < s.bxl.ackSince + 3000 → exec .replayTimeout s = .next s) ∧
    (s.bxl.state = 4 → s.bxl.ackSince + 3000 ≤ s.now → ∃ u, exec .replayTimeout s = .next u ∧ Replayed s u) ∧
    (∀ cause, cause = .laneLock ∨ 4 ≤ s.bxl.replayRun → s.bxl.state = 4 → exec (.recovery cause) s =
      .next { linkAt s 5 with bxl := { (linkAt s 5).bxl with recoveryCnt := min (s.bxl.recoveryCnt + 1) (2 ^ 32 - 1) } }) ∧
    (∀ cause, s.bxl.state ≠ 4 ∨ (cause = .replays ∧ s.bxl.replayRun < 4) → exec (.recovery cause) s = .next s) ∧
    (∀ lane, (s.bxl.state = 0 → s.bxl.txOn = true → exec (.signalDetect lane) s = .next (linkAt s 1)) ∧
      (s.bxl.state = 1 → s.bxl.lastTrain = 0 ∨ s.bxl.lastTrain + 300000000 ≤ s.now → exec (.signalDetect lane) s =
        .next { linkAt s 2 with bxl := { (linkAt s 2).bxl with lastTrain := max 1 s.now } }) ∧
      ((s.bxl.state = 0 ∧ s.bxl.txOn = false) ∨ (s.bxl.state = 1 ∧ s.bxl.lastTrain ≠ 0 ∧ s.now < s.bxl.lastTrain + 300000000) ∨ 2 ≤ s.bxl.state →
        exec (.signalDetect lane) s = .next s)) ∧
    (∀ (ok : BitVec 4) (w : Nat) (v : State),
      w = (if ok = 15 then 4 else if (ok.extractLsb' 0 2 == 3) != (ok.extractLsb' 2 2 == 3) then 2 else 0) →
      v = { s with bxl := { s.bxl with width := w, laneOk := ok.toNat } } →
      (s.bxl.state = 2 → w = 0 → exec (.trainDone ok) s = .next (linkAt s 1)) ∧
      (s.bxl.state = 2 → w ≠ 0 → ∃ x u, exec (.trainDone ok) s = .next u ∧ Offers (linkAt v 3) x ∧ InitSent x u) ∧
      (s.bxl.state = 5 → s.bxl.initPhase = false → w ≠ 0 → ∃ x u, exec (.trainDone ok) s = .next u ∧
        Offers { v with bxl := { v.bxl with initPhase := true } } x ∧ InitSent x u) ∧
      ((s.bxl.state ≠ 2 ∧ s.bxl.state ≠ 5) ∨ (s.bxl.state = 5 ∧ (s.bxl.initPhase = true ∨ w = 0)) → exec (.trainDone ok) s = .next s)) ∧
    (s.bxl.state = 2 → s.bxl.stateSince + 600000000 ≤ s.now → exec .trainTimeout s = .next (linkAt s 1)) ∧
    (s.bxl.state ≠ 2 ∨ s.now < s.bxl.stateSince + 600000000 → exec .trainTimeout s = .next s) ∧
    (s.bxl.state = 5 → s.bxl.stateSince + 300000000 ≤ s.now → exec .recoveryTimeout s = .next { linkAt s 0 with bxl := { (linkAt s 0).bxl with
      downCnt := min (s.bxl.downCnt + 1) (2 ^ 32 - 1)
      width := 0
      laneOk := 0 } }) ∧
    (s.bxl.state ≠ 5 ∨ s.now < s.bxl.stateSince + 300000000 → exec .recoveryTimeout s = .next s))
end

