-- ==== Sys2Proof/Laws/Packets.lean ====
section
/-! SUPPORT. A command packet that a settled block takes: what acceptance does before the work of the opcode, and what a final reply does after it. -/

namespace Sys2Proof.Machine

/-- The slot that a packet takes. -/
def newSlot (s : State) (op : Nat) (p : Pkt) (acked : Bool) (w : Work) : Slot :=
  { sid := s.mp.nextSid, mgmt := p.chan == .management, tag := p.tag.toNat, stepValid := p.flags.getLsbD 0, step := p.step.toNat, opcode := op,
    acked := acked, work := w, at_ := s.now,
    ref := if op = 0x0303 then getLe p.params 38 2 else if op = 0x0403 then getLe p.params 0 4 else 0 }

theorem find_newSlot {l : List Slot} {n : Nat} (hs : ∀ x ∈ l, x.sid < n) (y : Slot) (hy : y.sid = n) :
    (l ++ [y]).find? (fun x => x.sid == n) = some y := by
  rw [List.find?_append]
  have h : l.find? (fun x => x.sid == n) = none := by
    rw [List.find?_eq_none]
    intro x hx
    have := hs x hx
    simp
    omega
  simp [h, hy]

theorem map_newSlot {l : List Slot} {n : Nat} (hs : ∀ x ∈ l, x.sid < n) (f : Slot → Slot) :
    l.map (fun x => if x.sid = n then f x else x) = l := by
  induction l with
  | nil => rfl
  | cons y l ih =>
    have h1 := hs y (by simp)
    rw [List.map_cons, ih (fun x hx => hs x (by simp [hx])), if_neg (by omega)]

/-- A slot change reaches the new slot alone. -/
theorem modSlot_newSlot {s : State} {l : List Slot} {n : Nat} (y : Slot) (hl : s.mp.slots = l ++ [y]) (hs : ∀ x ∈ l, x.sid < n) (hy : y.sid = n)
    (f : Slot → Slot) : modSlot s n f = { s with mp := { s.mp with slots := l ++ [f y] } } := by
  unfold modSlot onMp
  simp only [hl, List.map_append, map_newSlot hs, List.map_cons, List.map_nil, hy, if_true]

theorem findSlot_newSlot {s : State} {l : List Slot} {n : Nat} (y : Slot) (hl : s.mp.slots = l ++ [y]) (hs : ∀ x ∈ l, x.sid < n) (hy : y.sid = n) :
    findSlot s n = some y := by
  unfold findSlot
  rw [hl]
  exact find_newSlot hs y hy

theorem bit_getLsbD (w : W16) (i : Nat) : bit w.toNat i = w.getLsbD i := by
  simp [bit, BitVec.getLsbD]

/-- Commands at work whose slots nothing holds are not begun again. -/
theorem tryStart_settled {s : State} {n : Nat} (h : ∀ x ∈ s.mp.slots, ∀ p op, x.work ≠ .held p op) : tryStart s n = s := by
  unfold tryStart
  split
  · rfl
  · rename_i x hx
    split
    · rename_i p op hw
      exact absurd hw (h x (List.mem_of_find?_eq_some hx) p op)
    · rfl

theorem foldl_tryStart_settled {s : State} (l : List Nat) (h : ∀ x ∈ s.mp.slots, ∀ p op, x.work ≠ .held p op) : l.foldl tryStart s = s := by
  induction l with
  | nil => rfl
  | cons n l ih => rw [List.foldl_cons, tryStart_settled h, ih]

/-- What a settled block has waiting after a packet: nothing. -/
theorem snapshotPump_settled {s : State} (h : ∀ x ∈ s.mp.slots, x.work ≠ .snapshot) : snapshotPump s = s := by
  unfold snapshotPump
  split
  · rfl
  · have : s.mp.slots.find? (fun x => x.work == .snapshot) = none := by
      rw [List.find?_eq_none]
      intro x hx
      simpa using h x hx
    rw [this]

theorem releasePump_settled {s : State} (h : ∀ p ∈ s.step.packs, p.releasing = none ∧ ∀ x ∈ p.steps, x.fence = none ∨ x.decision = none) : releasePump s = s := by
  have h2 : fencedSteps s = [] := by
    unfold fencedSteps
    have : (s.step.packs.flatMap fun p => (p.steps.filter fun x => x.fence.isSome && x.decision.isSome).map (·.step)) = [] := by
      rw [List.flatMap_eq_nil_iff]
      intro p hp
      rw [List.map_eq_nil_iff, List.filter_eq_nil_iff]
      intro x hx
      rcases (h p hp).2 x hx with e | e <;> simp [e]
    rw [this]
    rfl
  have h3 : skipReplies s = s := by
    unfold skipReplies
    rw [h2]
    rfl
  unfold releasePump
  rw [List.filter_eq_nil_iff.mpr (by
    intro p hp
    rw [(h p hp).1]
    simp)]
  exact h3

/-- A boundary window whose 3 µs are over holds nothing back. -/
theorem windowHolds_settled {s : State} (h : s.mp.inWindow = true → s.tick.running = true ∧ s.tick.acc.openedAt + 9000 ≤ s.now) :
    windowHolds s = false := by
  unfold windowHolds
  cases hw : s.mp.inWindow
  · rfl
  · obtain ⟨h1, h2⟩ := h hw
    have h3 : ¬s.now < s.tick.acc.openedAt + 3 * usUnits := by
      unfold usUnits
      omega
    simp [h1, h3]

/-- A settled block takes a packet that passes checks 1 to 3. -/
theorem cmdRow_takes {s : State} {op : Nat} {p : Pkt} (h : TakesPackets s) (ha : Accepted s op p) :
    cmdRow op p s = .next (snapshotPump (releasePump (acceptPkt s op p []))) := by
  have hu : bxlUp s = true := by simp [bxlUp, h.up]
  have hm : onMp s (fun m => { m with rxWait := m.rxWait ++ [{ opcode := op, pkt := p }] }) =
      { s with mp := { s.mp with rxWait := [{ opcode := op, pkt := p }] } } := by
    unfold onMp
    simp only [h.waiting, List.nil_append]
  have ht : takeable { s with mp := { s.mp with rxWait := [{ opcode := op, pkt := p }] } } { opcode := op, pkt := p } = true := by
    have := ha.room
    unfold takeable slotsFull slotsUsed pktMgmt
    have hw : windowHolds { s with mp := { s.mp with rxWait := [{ opcode := op, pkt := p }] } } = false := windowHolds_settled h.window
    simp only [hw, Bool.not_false, Bool.true_and]
    simpa using this
  have he : onMp { s with mp := { s.mp with rxWait := [({ opcode := op, pkt := p } : RxPkt)] } } (fun m => { m with rxWait := m.rxWait.erase { opcode := op, pkt := p } }) = s := by
    have e1 : ([{ opcode := op, pkt := p }] : List RxPkt).erase { opcode := op, pkt := p } = s.mp.rxWait := by
      rw [h.waiting]
      simp
    unfold onMp
    simp only [e1]
  have htag : p.tag.toNat ≠ 0xFFFFFFFF := by
    intro hc
    exact ha.tag (BitVec.eq_of_toNat_eq (by simpa using hc))
  unfold cmdRow arrivePkt pump
  rw [if_pos hu]
  have hr : rxPump 1 { s with mp := { s.mp with rxWait := [({ opcode := op, pkt := p } : RxPkt)] } } = acceptPkt s op p [] := by
    unfold rxPump
    simp only [List.find?_cons, ht, he]
    rfl
  have hm1 : malformedAs { opcode := op, pkt := p } = none := by
    unfold malformedAs
    simp [ha.crc, htag]
  simp only [hm1, hm, foldl_tryStart_settled (s := { s with mp := { s.mp with rxWait := [{ opcode := op, pkt := p }] } }) _ (fun x hx => (h.slots x hx).2.1),
    List.length_singleton, hr]

/-- A short command that finds none held does not wait behind one. -/
theorem shortBehind_newSlot {s : State} (h : TakesPackets s) (op : Nat) (p : Pkt) (k : Bool) :
    shortBehind (began s op p k) (newSlot s op p k (.held p op)) op = false := by
  unfold shortBehind
  rw [Bool.and_eq_false_iff]
  right
  rw [List.any_eq_false]
  intro y hy
  rcases List.mem_append.mp (show y ∈ s.mp.slots ++ [newSlot s op p k (.held p op)] from hy) with hy | hy
  · have := (h.slots y hy).2.1
    cases hw : y.work <;> simp_all
  · rw [List.mem_singleton.mp hy]
    simp

theorem pktMgmt_eq (p : Pkt) : pktMgmt p = (p.chan == .management) := rfl

/-- `began` with the new slot written out; only a STEP_FENCE is noted in the watch unit. -/
theorem began_eq (s : State) {op : Nat} (p : Pkt) (long : Bool) (h : op ≠ 0x0403) (h2 : op ≠ 0x0804) :
    began s op p long = { s with mp := withSlot s op p long (.held p op) (if long then [replyTo s p none 0x0001 0 []] else []) } := by
  simp [began, fenceNoted, h, h2]

/-- What acceptance notes of a STEP_FENCE. -/
theorem fenceSeen_accepted (s : State) (m : MpSt) (op : Nat) (p : Pkt) :
    fenceSeen { s with mp := m } (slotOf s op p []) = { s with mp := m, watch := fenceNoted s op p } := by
  unfold fenceSeen fenceNoted onWatch slotOf
  simp only [bit_getLsbD, Bool.not_eq_true', List.any_eq_false, beq_iff_eq, ne_eq]
  split <;> rfl

theorem withSlot_slots (s : State) (op : Nat) (p : Pkt) (k : Bool) (w : Work) (l : List Reply) :
    (withSlot s op p k w l).slots = s.mp.slots ++ [newSlot s op p k w] := rfl

/-- The parameters are checked alike once the slot is taken. -/
theorem paramBad_began (s : State) (op : Nat) (p : Pkt) (long : Bool) (b : List Byte) : paramBad (began s op p long) op b = paramBad s op b := by
  by_cases h : op = 0x0302
  · subst h
    unfold paramBad
    simp only [began, withSlot_slots, List.any_append, List.any_cons, List.any_nil, Bool.or_false]
    simp [newSlot]
  · by_cases h2 : op = 0x0804
    · subst h2
      rfl
    · simp only [began, if_neg (fun hc : op = 0x0804 ∧ s.dev.state = 1 => h2 hc.1)]
      unfold paramBad
      split <;> first | rfl | exact absurd rfl h

/-- A packet that the state allows at its acceptance is allowed still when its work begins at once. -/
theorem beginRefusal_began (s : State) (op : Nat) (p : Pkt) (long : Bool) (i : OpInfo) (hi : opInfo op = some i) (h : stateRefusal s i = none) :
    beginRefusal (began s op p long) op = none := by
  unfold beginRefusal
  by_cases h1 : op = 0x0804 ∧ s.dev.state = 1
  · rw [if_pos ⟨h1.1, by simp [began, h1]⟩]
  · split
    · rfl
    · rw [hi, Option.bind_some, ← h]
      unfold began
      rw [if_neg h1]
      rfl

/-- A packet that passes all checks begins its work at once. -/
theorem acceptPkt_passes {s : State} {op : Nat} {p : Pkt} (h : TakesPackets s) (hp : Passes s op p) :
    acceptPkt s op p [] = drainBulk (startWork (began s op p (isLong op)) (newSlot s op p (isLong op) (.held p op)) op p) s.mp.nextSid := by
  have hsl : ∀ x ∈ s.mp.slots, x.sid < s.mp.nextSid := fun x hx => (h.slots x hx).1
  have h0 : (if op = 0x0804 ∧ s.dev.state = 1 then
        onDev (fenceSeen (onMp s (fun m => { m with nextSid := m.nextSid + 1, slots := m.slots ++ [slotOf s op p []] })) (slotOf s op p []))
          (fun d => { d with state := 3 })
      else fenceSeen (onMp s (fun m => { m with nextSid := m.nextSid + 1, slots := m.slots ++ [slotOf s op p []] })) (slotOf s op p [])) =
      began s op p false := by
    unfold onMp
    rw [fenceSeen_accepted]
    unfold began withSlot slotOf onDev refOf
    simp only [bit_getLsbD, pktMgmt_eq, Bool.false_eq_true, if_false, List.append_nil, ite_self]
    split <;> rfl
  have hc : commitHeld s op p.params = false := by simp [commitHeld, h.commit]
  have h1 : (if isLong op && (!commitHeld s op p.params || s.mp.resetting) then ackSlot (began s op p false) s.mp.nextSid else began s op p false) =
      began s op p (isLong op) := by
    rw [hc]
    cases hl : isLong op
    · simp
    · simp only [Bool.not_false, Bool.true_or, Bool.and_self, if_true]
      have hf : findSlot (began s op p false) s.mp.nextSid = some (newSlot s op p false (.held p op)) :=
        findSlot_newSlot _ (withSlot_slots _ _ _ _ _ _) hsl rfl
      unfold ackSlot
      simp only [hf, newSlot, Bool.false_eq_true, if_false]
      rw [modSlot_newSlot (newSlot s op p false (.held p op)) (withSlot_slots _ _ _ _ _ _) hsl rfl]
      unfold pushReply onMp began withSlot replyTo replyHdr slotStep newSlot
      cases p.chan <;> simp <;> rfl
  have hf : findSlot (began s op p (isLong op)) s.mp.nextSid = some (newSlot s op p (isLong op) (.held p op)) :=
    findSlot_newSlot _ (withSlot_slots _ _ _ _ _ _) hsl rfl
  have hm : mustHold (began s op p (isLong op)) (newSlot s op p (isLong op) (.held p op)) op p = false := by
    have w1 : windowHolds (began s op p (isLong op)) = false := windowHolds_settled h.window
    have w2 : (began s op p (isLong op)).mp.resetting = false := h.resetting
    have w3 : (began s op p (isLong op)).mp.commit = none := h.commit
    have w4 : pktOrdered p = false := by rw [pktOrdered, bit_getLsbD]; exact hp.flags.2
    have w5 : pktTnb p = none := by rw [pktTnb, bit_getLsbD, hp.flags.1]; rfl
    simp only [mustHold, w1]
    simp [resetHeld, commitHeld, w2, w3, w4, w5, tnbMet, shortBehind_newSlot h]
  have hr := hp.checks
  unfold pktRefusal at hr
  split at hr
  · simp at hr
  split at hr
  · simp at hr
  split at hr
  · simp at hr
  rename_i i hi
  split at hr
  · simp at hr
  split at hr
  · simp at hr
  split at hr
  · simp at hr
  rename_i hst
  have hb : paramBad s op p.params = none := by simpa using hr
  have hd : beginSlot (began s op p (isLong op)) (newSlot s op p (isLong op) (.held p op)) op p =
      startWork (began s op p (isLong op)) (newSlot s op p (isLong op) (.held p op)) op p := by
    have hk : (if isLong op then ackSlot (began s op p (isLong op)) (newSlot s op p (isLong op) (.held p op)).sid else began s op p (isLong op)) =
        began s op p (isLong op) := by
      cases hl : isLong op
      · simp
      · rw [if_pos rfl]
        unfold ackSlot
        have : findSlot (began s op p true) (newSlot s op p true (.held p op)).sid = some (newSlot s op p true (.held p op)) := by
          rw [hl] at hf; exact hf
        simp only [this]
        rfl
    unfold beginSlot
    simp only [hk, beginRefusal_began s op p _ i hi hst, paramBad_began, hb]
  unfold acceptPkt
  simp only [hp.checks, Option.isSome_none, Bool.false_eq_true, if_false]
  rw [h0]
  have hsid : (slotOf s op p []).sid = s.mp.nextSid := rfl
  rw [hsid, h1]
  unfold tryStart
  simp only [hf]
  have hw : (newSlot s op p (isLong op) (.held p op)).work = .held p op := rfl
  split
  · rename_i e1 e2 e3
    rw [hw] at e3
    injection e3 with e4 e5
    subst e4 e5
    rw [if_neg (by rw [hm]; exact Bool.false_ne_true), hd]
  · rename_i e3
    exact absurd hw (e3 _ _)

/-- The final reply of the command whose slot is the newest. -/
theorem finalReply_newSlot {s v : State} {op : Nat} {p : Pkt} {k : Bool} {w : Work} (hs : ∀ x ∈ s.mp.slots, x.sid < s.mp.nextSid)
    (hv : v.mp.slots = s.mp.slots ++ [newSlot s op p k w]) (hw : w ≠ .done) (ht : v.tick.count = s.tick.count) (hc : v.tick.curStep = s.tick.curStep)
    (status detail : Nat) (payload : List Byte) :
    finalReply v s.mp.nextSid status detail payload =
      { v with mp := { v.mp with slots := s.mp.slots ++ [newSlot s op p k .done],
                                 replyQ := if p.chan = .management then v.mp.replyQ else v.mp.replyQ ++ [replyTo s p (some s.mp.nextSid) status detail payload],
                                 mgmtQ := if p.chan = .management then v.mp.mgmtQ ++ [replyTo s p (some s.mp.nextSid) status detail payload] else v.mp.mgmtQ } } := by
  have hf : findSlot v s.mp.nextSid = some (newSlot s op p k w) := findSlot_newSlot _ hv hs rfl
  have hw' : (newSlot s op p k w).work ≠ .done := hw
  have hm : setWork v s.mp.nextSid .done = { v with mp := { v.mp with slots := s.mp.slots ++ [newSlot s op p k .done] } } := by
    unfold setWork
    rw [modSlot_newSlot _ hv hs rfl]
    rfl
  unfold finalReply
  simp only [hf, hw', if_false, hm]
  unfold pushReply onMp replyTo replyHdr slotStep
  simp only [newSlot, ht, hc]
  cases p.chan <;> simp

/-- After a command's work has begun nothing else moves in a settled block. -/
theorem settled_end {s v : State} {op : Nat} {p : Pkt} {k : Bool} {w : Work} (h : TakesPackets s)
    (hv : v.mp.slots = s.mp.slots ++ [newSlot s op p k w]) (hk : ∀ p ∈ v.step.packs, p.releasing = none ∧ ∀ x ∈ p.steps, x.fence = none ∨ x.decision = none)
    (hw : w ≠ .snapshot) : Host.Outcome.next (snapshotPump (releasePump (drainBulk v s.mp.nextSid))) = (.next v : Out) := by
  have hs : ∀ x ∈ s.mp.slots, x.sid < s.mp.nextSid := fun x hx => (h.slots x hx).1
  have hd : drainBulk v s.mp.nextSid = v := by
    unfold drainBulk
    rw [findSlot_newSlot (newSlot s op p k w) hv hs rfl]
    have hb : (newSlot s op p k w).bulk = [] := rfl
    simp only [hb, List.isEmpty_nil, if_true]
  rw [hd, releasePump_settled hk, snapshotPump_settled]
  intro x hx
  rw [hv] at hx
  rcases List.mem_append.mp hx with hx | hx
  · exact (h.slots x hx).2.2
  · rw [List.mem_singleton.mp hx]
    exact hw

/-- A command that ends at once: what the block holds after it. -/
theorem cmdRow_reply {s v : State} {op : Nat} {p : Pkt} (h : TakesPackets s) (hp : Passes s op p) {status detail : Nat} {payload : List Byte}
    (hw : startWork (began s op p (isLong op)) (newSlot s op p (isLong op) (.held p op)) op p = finalReply v s.mp.nextSid status detail payload)
    (hv : v.mp.slots = s.mp.slots ++ [newSlot s op p (isLong op) (.held p op)]) (ht : v.tick.count = s.tick.count)
    (hc : v.tick.curStep = s.tick.curStep) (hk : ∀ p ∈ v.step.packs, p.releasing = none ∧ ∀ x ∈ p.steps, x.fence = none ∨ x.decision = none) :
    cmdRow op p s = .next
      { v with mp := { v.mp with slots := s.mp.slots ++ [newSlot s op p (isLong op) .done],
                                 replyQ := if p.chan = .management then v.mp.replyQ else v.mp.replyQ ++ [replyTo s p (some s.mp.nextSid) status detail payload],
                                 mgmtQ := if p.chan = .management then v.mp.mgmtQ ++ [replyTo s p (some s.mp.nextSid) status detail payload] else v.mp.mgmtQ } } := by
  have hs : ∀ x ∈ s.mp.slots, x.sid < s.mp.nextSid := fun x hx => (h.slots x hx).1
  have hne : (.held p op : Work) ≠ .done := fun hc => Work.noConfusion hc
  rw [cmdRow_takes h hp.toAccepted, acceptPkt_passes h hp, hw, finalReply_newSlot hs hv hne ht hc]
  exact settled_end h rfl hk (fun hc => Work.noConfusion hc)

/-- A command that only reports. -/
theorem cmdRow_query {s : State} {op : Nat} {p : Pkt} (h : TakesPackets s) (hp : Passes s op p) (hop : op ≠ 0x0403) (hop2 : op ≠ 0x0804) {status detail : Nat} {payload : List Byte}
    (hw : startWork (began s op p (isLong op)) (newSlot s op p (isLong op) (.held p op)) op p =
      finalReply (began s op p (isLong op)) s.mp.nextSid status detail payload) :
    cmdRow op p s = .next { s with mp := (if isLong op then longDone else shortDone) s op p status detail payload } := by
  rw [cmdRow_reply h hp hw rfl rfl rfl h.packs, began_eq s p _ hop hop2]
  cases hl : isLong op
  · unfold shortDone withSlot newSlot
    cases hch : p.chan <;> simp [hch]
  · unfold longDone withSlot newSlot
    cases hch : p.chan <;> simp [hch]

end Sys2Proof.Machine
end

