-- ==== Sys2Proof/Laws/State.lean ====
section
/-! SUPPORT. What each update of one part of the state leaves of the other parts. -/

namespace Sys2Proof.Machine

/-! ### onDev -/

@[simp] theorem onDev_pending (s : State) (f : DevSt → DevSt) : (onDev s f).pending = s.pending := rfl
@[simp] theorem onDev_now (s : State) (f : DevSt → DevSt) : (onDev s f).now = s.now := rfl
@[simp] theorem onDev_draws (s : State) (f : DevSt → DevSt) : (onDev s f).draws = s.draws := rfl
@[simp] theorem onDev_dev (s : State) (f : DevSt → DevSt) : (onDev s f).dev = f s.dev := rfl
@[simp] theorem onDev_mp (s : State) (f : DevSt → DevSt) : (onDev s f).mp = s.mp := rfl
@[simp] theorem onDev_cfg (s : State) (f : DevSt → DevSt) : (onDev s f).cfg = s.cfg := rfl
@[simp] theorem onDev_progs (s : State) (f : DevSt → DevSt) : (onDev s f).progs = s.progs := rfl
@[simp] theorem onDev_tick (s : State) (f : DevSt → DevSt) : (onDev s f).tick = s.tick := rfl
@[simp] theorem onDev_watch (s : State) (f : DevSt → DevSt) : (onDev s f).watch = s.watch := rfl
@[simp] theorem onDev_tower (s : State) (f : DevSt → DevSt) : (onDev s f).tower = s.tower := rfl
@[simp] theorem onDev_mem (s : State) (f : DevSt → DevSt) : (onDev s f).mem = s.mem := rfl
@[simp] theorem onDev_step (s : State) (f : DevSt → DevSt) : (onDev s f).step = s.step := rfl
@[simp] theorem onDev_therm (s : State) (f : DevSt → DevSt) : (onDev s f).therm = s.therm := rfl
@[simp] theorem onDev_rel (s : State) (f : DevSt → DevSt) : (onDev s f).rel = s.rel := rfl
@[simp] theorem onDev_eth (s : State) (f : DevSt → DevSt) : (onDev s f).eth = s.eth := rfl
@[simp] theorem onDev_bxl (s : State) (f : DevSt → DevSt) : (onDev s f).bxl = s.bxl := rfl
@[simp] theorem onDev_bring (s : State) (f : DevSt → DevSt) : (onDev s f).bring = s.bring := rfl
@[simp] theorem onDev_fw (s : State) (f : DevSt → DevSt) : (onDev s f).fw = s.fw := rfl
@[simp] theorem onDev_pin (s : State) (f : DevSt → DevSt) : (onDev s f).pin = s.pin := rfl

/-! ### onMp -/

@[simp] theorem onMp_pending (s : State) (f : MpSt → MpSt) : (onMp s f).pending = s.pending := rfl
@[simp] theorem onMp_now (s : State) (f : MpSt → MpSt) : (onMp s f).now = s.now := rfl
@[simp] theorem onMp_draws (s : State) (f : MpSt → MpSt) : (onMp s f).draws = s.draws := rfl
@[simp] theorem onMp_dev (s : State) (f : MpSt → MpSt) : (onMp s f).dev = s.dev := rfl
@[simp] theorem onMp_mp (s : State) (f : MpSt → MpSt) : (onMp s f).mp = f s.mp := rfl
@[simp] theorem onMp_cfg (s : State) (f : MpSt → MpSt) : (onMp s f).cfg = s.cfg := rfl
@[simp] theorem onMp_progs (s : State) (f : MpSt → MpSt) : (onMp s f).progs = s.progs := rfl
@[simp] theorem onMp_tick (s : State) (f : MpSt → MpSt) : (onMp s f).tick = s.tick := rfl
@[simp] theorem onMp_watch (s : State) (f : MpSt → MpSt) : (onMp s f).watch = s.watch := rfl
@[simp] theorem onMp_tower (s : State) (f : MpSt → MpSt) : (onMp s f).tower = s.tower := rfl
@[simp] theorem onMp_mem (s : State) (f : MpSt → MpSt) : (onMp s f).mem = s.mem := rfl
@[simp] theorem onMp_step (s : State) (f : MpSt → MpSt) : (onMp s f).step = s.step := rfl
@[simp] theorem onMp_therm (s : State) (f : MpSt → MpSt) : (onMp s f).therm = s.therm := rfl
@[simp] theorem onMp_rel (s : State) (f : MpSt → MpSt) : (onMp s f).rel = s.rel := rfl
@[simp] theorem onMp_eth (s : State) (f : MpSt → MpSt) : (onMp s f).eth = s.eth := rfl
@[simp] theorem onMp_bxl (s : State) (f : MpSt → MpSt) : (onMp s f).bxl = s.bxl := rfl
@[simp] theorem onMp_bring (s : State) (f : MpSt → MpSt) : (onMp s f).bring = s.bring := rfl
@[simp] theorem onMp_fw (s : State) (f : MpSt → MpSt) : (onMp s f).fw = s.fw := rfl
@[simp] theorem onMp_pin (s : State) (f : MpSt → MpSt) : (onMp s f).pin = s.pin := rfl

/-! ### onTick -/

@[simp] theorem onTick_pending (s : State) (f : TickSt → TickSt) : (onTick s f).pending = s.pending := rfl
@[simp] theorem onTick_now (s : State) (f : TickSt → TickSt) : (onTick s f).now = s.now := rfl
@[simp] theorem onTick_draws (s : State) (f : TickSt → TickSt) : (onTick s f).draws = s.draws := rfl
@[simp] theorem onTick_dev (s : State) (f : TickSt → TickSt) : (onTick s f).dev = s.dev := rfl
@[simp] theorem onTick_mp (s : State) (f : TickSt → TickSt) : (onTick s f).mp = s.mp := rfl
@[simp] theorem onTick_cfg (s : State) (f : TickSt → TickSt) : (onTick s f).cfg = s.cfg := rfl
@[simp] theorem onTick_progs (s : State) (f : TickSt → TickSt) : (onTick s f).progs = s.progs := rfl
@[simp] theorem onTick_tick (s : State) (f : TickSt → TickSt) : (onTick s f).tick = f s.tick := rfl
@[simp] theorem onTick_watch (s : State) (f : TickSt → TickSt) : (onTick s f).watch = s.watch := rfl
@[simp] theorem onTick_tower (s : State) (f : TickSt → TickSt) : (onTick s f).tower = s.tower := rfl
@[simp] theorem onTick_mem (s : State) (f : TickSt → TickSt) : (onTick s f).mem = s.mem := rfl
@[simp] theorem onTick_step (s : State) (f : TickSt → TickSt) : (onTick s f).step = s.step := rfl
@[simp] theorem onTick_therm (s : State) (f : TickSt → TickSt) : (onTick s f).therm = s.therm := rfl
@[simp] theorem onTick_rel (s : State) (f : TickSt → TickSt) : (onTick s f).rel = s.rel := rfl
@[simp] theorem onTick_eth (s : State) (f : TickSt → TickSt) : (onTick s f).eth = s.eth := rfl
@[simp] theorem onTick_bxl (s : State) (f : TickSt → TickSt) : (onTick s f).bxl = s.bxl := rfl
@[simp] theorem onTick_bring (s : State) (f : TickSt → TickSt) : (onTick s f).bring = s.bring := rfl
@[simp] theorem onTick_fw (s : State) (f : TickSt → TickSt) : (onTick s f).fw = s.fw := rfl
@[simp] theorem onTick_pin (s : State) (f : TickSt → TickSt) : (onTick s f).pin = s.pin := rfl

/-! ### onWatch -/

@[simp] theorem onWatch_pending (s : State) (f : WatchSt → WatchSt) : (onWatch s f).pending = s.pending := rfl
@[simp] theorem onWatch_now (s : State) (f : WatchSt → WatchSt) : (onWatch s f).now = s.now := rfl
@[simp] theorem onWatch_draws (s : State) (f : WatchSt → WatchSt) : (onWatch s f).draws = s.draws := rfl
@[simp] theorem onWatch_dev (s : State) (f : WatchSt → WatchSt) : (onWatch s f).dev = s.dev := rfl
@[simp] theorem onWatch_mp (s : State) (f : WatchSt → WatchSt) : (onWatch s f).mp = s.mp := rfl
@[simp] theorem onWatch_cfg (s : State) (f : WatchSt → WatchSt) : (onWatch s f).cfg = s.cfg := rfl
@[simp] theorem onWatch_progs (s : State) (f : WatchSt → WatchSt) : (onWatch s f).progs = s.progs := rfl
@[simp] theorem onWatch_tick (s : State) (f : WatchSt → WatchSt) : (onWatch s f).tick = s.tick := rfl
@[simp] theorem onWatch_watch (s : State) (f : WatchSt → WatchSt) : (onWatch s f).watch = f s.watch := rfl
@[simp] theorem onWatch_tower (s : State) (f : WatchSt → WatchSt) : (onWatch s f).tower = s.tower := rfl
@[simp] theorem onWatch_mem (s : State) (f : WatchSt → WatchSt) : (onWatch s f).mem = s.mem := rfl
@[simp] theorem onWatch_step (s : State) (f : WatchSt → WatchSt) : (onWatch s f).step = s.step := rfl
@[simp] theorem onWatch_therm (s : State) (f : WatchSt → WatchSt) : (onWatch s f).therm = s.therm := rfl
@[simp] theorem onWatch_rel (s : State) (f : WatchSt → WatchSt) : (onWatch s f).rel = s.rel := rfl
@[simp] theorem onWatch_eth (s : State) (f : WatchSt → WatchSt) : (onWatch s f).eth = s.eth := rfl
@[simp] theorem onWatch_bxl (s : State) (f : WatchSt → WatchSt) : (onWatch s f).bxl = s.bxl := rfl
@[simp] theorem onWatch_bring (s : State) (f : WatchSt → WatchSt) : (onWatch s f).bring = s.bring := rfl
@[simp] theorem onWatch_fw (s : State) (f : WatchSt → WatchSt) : (onWatch s f).fw = s.fw := rfl
@[simp] theorem onWatch_pin (s : State) (f : WatchSt → WatchSt) : (onWatch s f).pin = s.pin := rfl

/-! ### onTower -/

@[simp] theorem onTower_pending (s : State) (f : TowerSt → TowerSt) : (onTower s f).pending = s.pending := rfl
@[simp] theorem onTower_now (s : State) (f : TowerSt → TowerSt) : (onTower s f).now = s.now := rfl
@[simp] theorem onTower_draws (s : State) (f : TowerSt → TowerSt) : (onTower s f).draws = s.draws := rfl
@[simp] theorem onTower_dev (s : State) (f : TowerSt → TowerSt) : (onTower s f).dev = s.dev := rfl
@[simp] theorem onTower_mp (s : State) (f : TowerSt → TowerSt) : (onTower s f).mp = s.mp := rfl
@[simp] theorem onTower_cfg (s : State) (f : TowerSt → TowerSt) : (onTower s f).cfg = s.cfg := rfl
@[simp] theorem onTower_progs (s : State) (f : TowerSt → TowerSt) : (onTower s f).progs = s.progs := rfl
@[simp] theorem onTower_tick (s : State) (f : TowerSt → TowerSt) : (onTower s f).tick = s.tick := rfl
@[simp] theorem onTower_watch (s : State) (f : TowerSt → TowerSt) : (onTower s f).watch = s.watch := rfl
@[simp] theorem onTower_tower (s : State) (f : TowerSt → TowerSt) : (onTower s f).tower = f s.tower := rfl
@[simp] theorem onTower_mem (s : State) (f : TowerSt → TowerSt) : (onTower s f).mem = s.mem := rfl
@[simp] theorem onTower_step (s : State) (f : TowerSt → TowerSt) : (onTower s f).step = s.step := rfl
@[simp] theorem onTower_therm (s : State) (f : TowerSt → TowerSt) : (onTower s f).therm = s.therm := rfl
@[simp] theorem onTower_rel (s : State) (f : TowerSt → TowerSt) : (onTower s f).rel = s.rel := rfl
@[simp] theorem onTower_eth (s : State) (f : TowerSt → TowerSt) : (onTower s f).eth = s.eth := rfl
@[simp] theorem onTower_bxl (s : State) (f : TowerSt → TowerSt) : (onTower s f).bxl = s.bxl := rfl
@[simp] theorem onTower_bring (s : State) (f : TowerSt → TowerSt) : (onTower s f).bring = s.bring := rfl
@[simp] theorem onTower_fw (s : State) (f : TowerSt → TowerSt) : (onTower s f).fw = s.fw := rfl
@[simp] theorem onTower_pin (s : State) (f : TowerSt → TowerSt) : (onTower s f).pin = s.pin := rfl

/-! ### onStep -/

@[simp] theorem onStep_pending (s : State) (f : StepSt → StepSt) : (onStep s f).pending = s.pending := rfl
@[simp] theorem onStep_now (s : State) (f : StepSt → StepSt) : (onStep s f).now = s.now := rfl
@[simp] theorem onStep_draws (s : State) (f : StepSt → StepSt) : (onStep s f).draws = s.draws := rfl
@[simp] theorem onStep_dev (s : State) (f : StepSt → StepSt) : (onStep s f).dev = s.dev := rfl
@[simp] theorem onStep_mp (s : State) (f : StepSt → StepSt) : (onStep s f).mp = s.mp := rfl
@[simp] theorem onStep_cfg (s : State) (f : StepSt → StepSt) : (onStep s f).cfg = s.cfg := rfl
@[simp] theorem onStep_progs (s : State) (f : StepSt → StepSt) : (onStep s f).progs = s.progs := rfl
@[simp] theorem onStep_tick (s : State) (f : StepSt → StepSt) : (onStep s f).tick = s.tick := rfl
@[simp] theorem onStep_watch (s : State) (f : StepSt → StepSt) : (onStep s f).watch = s.watch := rfl
@[simp] theorem onStep_tower (s : State) (f : StepSt → StepSt) : (onStep s f).tower = s.tower := rfl
@[simp] theorem onStep_mem (s : State) (f : StepSt → StepSt) : (onStep s f).mem = s.mem := rfl
@[simp] theorem onStep_step (s : State) (f : StepSt → StepSt) : (onStep s f).step = f s.step := rfl
@[simp] theorem onStep_therm (s : State) (f : StepSt → StepSt) : (onStep s f).therm = s.therm := rfl
@[simp] theorem onStep_rel (s : State) (f : StepSt → StepSt) : (onStep s f).rel = s.rel := rfl
@[simp] theorem onStep_eth (s : State) (f : StepSt → StepSt) : (onStep s f).eth = s.eth := rfl
@[simp] theorem onStep_bxl (s : State) (f : StepSt → StepSt) : (onStep s f).bxl = s.bxl := rfl
@[simp] theorem onStep_bring (s : State) (f : StepSt → StepSt) : (onStep s f).bring = s.bring := rfl
@[simp] theorem onStep_fw (s : State) (f : StepSt → StepSt) : (onStep s f).fw = s.fw := rfl
@[simp] theorem onStep_pin (s : State) (f : StepSt → StepSt) : (onStep s f).pin = s.pin := rfl

/-! ### onMem -/

@[simp] theorem onMem_pending (s : State) (f : MemSt → MemSt) : (onMem s f).pending = s.pending := rfl
@[simp] theorem onMem_now (s : State) (f : MemSt → MemSt) : (onMem s f).now = s.now := rfl
@[simp] theorem onMem_draws (s : State) (f : MemSt → MemSt) : (onMem s f).draws = s.draws := rfl
@[simp] theorem onMem_dev (s : State) (f : MemSt → MemSt) : (onMem s f).dev = s.dev := rfl
@[simp] theorem onMem_mp (s : State) (f : MemSt → MemSt) : (onMem s f).mp = s.mp := rfl
@[simp] theorem onMem_cfg (s : State) (f : MemSt → MemSt) : (onMem s f).cfg = s.cfg := rfl
@[simp] theorem onMem_progs (s : State) (f : MemSt → MemSt) : (onMem s f).progs = s.progs := rfl
@[simp] theorem onMem_tick (s : State) (f : MemSt → MemSt) : (onMem s f).tick = s.tick := rfl
@[simp] theorem onMem_watch (s : State) (f : MemSt → MemSt) : (onMem s f).watch = s.watch := rfl
@[simp] theorem onMem_tower (s : State) (f : MemSt → MemSt) : (onMem s f).tower = s.tower := rfl
@[simp] theorem onMem_mem (s : State) (f : MemSt → MemSt) : (onMem s f).mem = f s.mem := rfl
@[simp] theorem onMem_step (s : State) (f : MemSt → MemSt) : (onMem s f).step = s.step := rfl
@[simp] theorem onMem_therm (s : State) (f : MemSt → MemSt) : (onMem s f).therm = s.therm := rfl
@[simp] theorem onMem_rel (s : State) (f : MemSt → MemSt) : (onMem s f).rel = s.rel := rfl
@[simp] theorem onMem_eth (s : State) (f : MemSt → MemSt) : (onMem s f).eth = s.eth := rfl
@[simp] theorem onMem_bxl (s : State) (f : MemSt → MemSt) : (onMem s f).bxl = s.bxl := rfl
@[simp] theorem onMem_bring (s : State) (f : MemSt → MemSt) : (onMem s f).bring = s.bring := rfl
@[simp] theorem onMem_fw (s : State) (f : MemSt → MemSt) : (onMem s f).fw = s.fw := rfl
@[simp] theorem onMem_pin (s : State) (f : MemSt → MemSt) : (onMem s f).pin = s.pin := rfl

/-! ### onBxl -/

@[simp] theorem onBxl_pending (s : State) (f : BxlSt → BxlSt) : (onBxl s f).pending = s.pending := rfl
@[simp] theorem onBxl_now (s : State) (f : BxlSt → BxlSt) : (onBxl s f).now = s.now := rfl
@[simp] theorem onBxl_draws (s : State) (f : BxlSt → BxlSt) : (onBxl s f).draws = s.draws := rfl
@[simp] theorem onBxl_dev (s : State) (f : BxlSt → BxlSt) : (onBxl s f).dev = s.dev := rfl
@[simp] theorem onBxl_mp (s : State) (f : BxlSt → BxlSt) : (onBxl s f).mp = s.mp := rfl
@[simp] theorem onBxl_cfg (s : State) (f : BxlSt → BxlSt) : (onBxl s f).cfg = s.cfg := rfl
@[simp] theorem onBxl_progs (s : State) (f : BxlSt → BxlSt) : (onBxl s f).progs = s.progs := rfl
@[simp] theorem onBxl_tick (s : State) (f : BxlSt → BxlSt) : (onBxl s f).tick = s.tick := rfl
@[simp] theorem onBxl_watch (s : State) (f : BxlSt → BxlSt) : (onBxl s f).watch = s.watch := rfl
@[simp] theorem onBxl_tower (s : State) (f : BxlSt → BxlSt) : (onBxl s f).tower = s.tower := rfl
@[simp] theorem onBxl_mem (s : State) (f : BxlSt → BxlSt) : (onBxl s f).mem = s.mem := rfl
@[simp] theorem onBxl_step (s : State) (f : BxlSt → BxlSt) : (onBxl s f).step = s.step := rfl
@[simp] theorem onBxl_therm (s : State) (f : BxlSt → BxlSt) : (onBxl s f).therm = s.therm := rfl
@[simp] theorem onBxl_rel (s : State) (f : BxlSt → BxlSt) : (onBxl s f).rel = s.rel := rfl
@[simp] theorem onBxl_eth (s : State) (f : BxlSt → BxlSt) : (onBxl s f).eth = s.eth := rfl
@[simp] theorem onBxl_bxl (s : State) (f : BxlSt → BxlSt) : (onBxl s f).bxl = f s.bxl := rfl
@[simp] theorem onBxl_bring (s : State) (f : BxlSt → BxlSt) : (onBxl s f).bring = s.bring := rfl
@[simp] theorem onBxl_fw (s : State) (f : BxlSt → BxlSt) : (onBxl s f).fw = s.fw := rfl
@[simp] theorem onBxl_pin (s : State) (f : BxlSt → BxlSt) : (onBxl s f).pin = s.pin := rfl

/-! ### onTherm -/

@[simp] theorem onTherm_pending (s : State) (f : ThermSt → ThermSt) : (onTherm s f).pending = s.pending := rfl
@[simp] theorem onTherm_now (s : State) (f : ThermSt → ThermSt) : (onTherm s f).now = s.now := rfl
@[simp] theorem onTherm_draws (s : State) (f : ThermSt → ThermSt) : (onTherm s f).draws = s.draws := rfl
@[simp] theorem onTherm_dev (s : State) (f : ThermSt → ThermSt) : (onTherm s f).dev = s.dev := rfl
@[simp] theorem onTherm_mp (s : State) (f : ThermSt → ThermSt) : (onTherm s f).mp = s.mp := rfl
@[simp] theorem onTherm_cfg (s : State) (f : ThermSt → ThermSt) : (onTherm s f).cfg = s.cfg := rfl
@[simp] theorem onTherm_progs (s : State) (f : ThermSt → ThermSt) : (onTherm s f).progs = s.progs := rfl
@[simp] theorem onTherm_tick (s : State) (f : ThermSt → ThermSt) : (onTherm s f).tick = s.tick := rfl
@[simp] theorem onTherm_watch (s : State) (f : ThermSt → ThermSt) : (onTherm s f).watch = s.watch := rfl
@[simp] theorem onTherm_tower (s : State) (f : ThermSt → ThermSt) : (onTherm s f).tower = s.tower := rfl
@[simp] theorem onTherm_mem (s : State) (f : ThermSt → ThermSt) : (onTherm s f).mem = s.mem := rfl
@[simp] theorem onTherm_step (s : State) (f : ThermSt → ThermSt) : (onTherm s f).step = s.step := rfl
@[simp] theorem onTherm_therm (s : State) (f : ThermSt → ThermSt) : (onTherm s f).therm = f s.therm := rfl
@[simp] theorem onTherm_rel (s : State) (f : ThermSt → ThermSt) : (onTherm s f).rel = s.rel := rfl
@[simp] theorem onTherm_eth (s : State) (f : ThermSt → ThermSt) : (onTherm s f).eth = s.eth := rfl
@[simp] theorem onTherm_bxl (s : State) (f : ThermSt → ThermSt) : (onTherm s f).bxl = s.bxl := rfl
@[simp] theorem onTherm_bring (s : State) (f : ThermSt → ThermSt) : (onTherm s f).bring = s.bring := rfl
@[simp] theorem onTherm_fw (s : State) (f : ThermSt → ThermSt) : (onTherm s f).fw = s.fw := rfl
@[simp] theorem onTherm_pin (s : State) (f : ThermSt → ThermSt) : (onTherm s f).pin = s.pin := rfl

/-! ### onFw -/

@[simp] theorem onFw_pending (s : State) (f : FwSt → FwSt) : (onFw s f).pending = s.pending := rfl
@[simp] theorem onFw_now (s : State) (f : FwSt → FwSt) : (onFw s f).now = s.now := rfl
@[simp] theorem onFw_draws (s : State) (f : FwSt → FwSt) : (onFw s f).draws = s.draws := rfl
@[simp] theorem onFw_dev (s : State) (f : FwSt → FwSt) : (onFw s f).dev = s.dev := rfl
@[simp] theorem onFw_mp (s : State) (f : FwSt → FwSt) : (onFw s f).mp = s.mp := rfl
@[simp] theorem onFw_cfg (s : State) (f : FwSt → FwSt) : (onFw s f).cfg = s.cfg := rfl
@[simp] theorem onFw_progs (s : State) (f : FwSt → FwSt) : (onFw s f).progs = s.progs := rfl
@[simp] theorem onFw_tick (s : State) (f : FwSt → FwSt) : (onFw s f).tick = s.tick := rfl
@[simp] theorem onFw_watch (s : State) (f : FwSt → FwSt) : (onFw s f).watch = s.watch := rfl
@[simp] theorem onFw_tower (s : State) (f : FwSt → FwSt) : (onFw s f).tower = s.tower := rfl
@[simp] theorem onFw_mem (s : State) (f : FwSt → FwSt) : (onFw s f).mem = s.mem := rfl
@[simp] theorem onFw_step (s : State) (f : FwSt → FwSt) : (onFw s f).step = s.step := rfl
@[simp] theorem onFw_therm (s : State) (f : FwSt → FwSt) : (onFw s f).therm = s.therm := rfl
@[simp] theorem onFw_rel (s : State) (f : FwSt → FwSt) : (onFw s f).rel = s.rel := rfl
@[simp] theorem onFw_eth (s : State) (f : FwSt → FwSt) : (onFw s f).eth = s.eth := rfl
@[simp] theorem onFw_bxl (s : State) (f : FwSt → FwSt) : (onFw s f).bxl = s.bxl := rfl
@[simp] theorem onFw_bring (s : State) (f : FwSt → FwSt) : (onFw s f).bring = s.bring := rfl
@[simp] theorem onFw_fw (s : State) (f : FwSt → FwSt) : (onFw s f).fw = f s.fw := rfl
@[simp] theorem onFw_pin (s : State) (f : FwSt → FwSt) : (onFw s f).pin = s.pin := rfl

/-! ### onBring -/

@[simp] theorem onBring_pending (s : State) (f : BringSt → BringSt) : (onBring s f).pending = s.pending := rfl
@[simp] theorem onBring_now (s : State) (f : BringSt → BringSt) : (onBring s f).now = s.now := rfl
@[simp] theorem onBring_draws (s : State) (f : BringSt → BringSt) : (onBring s f).draws = s.draws := rfl
@[simp] theorem onBring_dev (s : State) (f : BringSt → BringSt) : (onBring s f).dev = s.dev := rfl
@[simp] theorem onBring_mp (s : State) (f : BringSt → BringSt) : (onBring s f).mp = s.mp := rfl
@[simp] theorem onBring_cfg (s : State) (f : BringSt → BringSt) : (onBring s f).cfg = s.cfg := rfl
@[simp] theorem onBring_progs (s : State) (f : BringSt → BringSt) : (onBring s f).progs = s.progs := rfl
@[simp] theorem onBring_tick (s : State) (f : BringSt → BringSt) : (onBring s f).tick = s.tick := rfl
@[simp] theorem onBring_watch (s : State) (f : BringSt → BringSt) : (onBring s f).watch = s.watch := rfl
@[simp] theorem onBring_tower (s : State) (f : BringSt → BringSt) : (onBring s f).tower = s.tower := rfl
@[simp] theorem onBring_mem (s : State) (f : BringSt → BringSt) : (onBring s f).mem = s.mem := rfl
@[simp] theorem onBring_step (s : State) (f : BringSt → BringSt) : (onBring s f).step = s.step := rfl
@[simp] theorem onBring_therm (s : State) (f : BringSt → BringSt) : (onBring s f).therm = s.therm := rfl
@[simp] theorem onBring_rel (s : State) (f : BringSt → BringSt) : (onBring s f).rel = s.rel := rfl
@[simp] theorem onBring_eth (s : State) (f : BringSt → BringSt) : (onBring s f).eth = s.eth := rfl
@[simp] theorem onBring_bxl (s : State) (f : BringSt → BringSt) : (onBring s f).bxl = s.bxl := rfl
@[simp] theorem onBring_bring (s : State) (f : BringSt → BringSt) : (onBring s f).bring = f s.bring := rfl
@[simp] theorem onBring_fw (s : State) (f : BringSt → BringSt) : (onBring s f).fw = s.fw := rfl
@[simp] theorem onBring_pin (s : State) (f : BringSt → BringSt) : (onBring s f).pin = s.pin := rfl

/-! ### onRelSt -/

@[simp] theorem onRelSt_pending (s : State) (f : RelSt → RelSt) : (onRelSt s f).pending = s.pending := rfl
@[simp] theorem onRelSt_now (s : State) (f : RelSt → RelSt) : (onRelSt s f).now = s.now := rfl
@[simp] theorem onRelSt_draws (s : State) (f : RelSt → RelSt) : (onRelSt s f).draws = s.draws := rfl
@[simp] theorem onRelSt_dev (s : State) (f : RelSt → RelSt) : (onRelSt s f).dev = s.dev := rfl
@[simp] theorem onRelSt_mp (s : State) (f : RelSt → RelSt) : (onRelSt s f).mp = s.mp := rfl
@[simp] theorem onRelSt_cfg (s : State) (f : RelSt → RelSt) : (onRelSt s f).cfg = s.cfg := rfl
@[simp] theorem onRelSt_progs (s : State) (f : RelSt → RelSt) : (onRelSt s f).progs = s.progs := rfl
@[simp] theorem onRelSt_tick (s : State) (f : RelSt → RelSt) : (onRelSt s f).tick = s.tick := rfl
@[simp] theorem onRelSt_watch (s : State) (f : RelSt → RelSt) : (onRelSt s f).watch = s.watch := rfl
@[simp] theorem onRelSt_tower (s : State) (f : RelSt → RelSt) : (onRelSt s f).tower = s.tower := rfl
@[simp] theorem onRelSt_mem (s : State) (f : RelSt → RelSt) : (onRelSt s f).mem = s.mem := rfl
@[simp] theorem onRelSt_step (s : State) (f : RelSt → RelSt) : (onRelSt s f).step = s.step := rfl
@[simp] theorem onRelSt_therm (s : State) (f : RelSt → RelSt) : (onRelSt s f).therm = s.therm := rfl
@[simp] theorem onRelSt_rel (s : State) (f : RelSt → RelSt) : (onRelSt s f).rel = f s.rel := rfl
@[simp] theorem onRelSt_eth (s : State) (f : RelSt → RelSt) : (onRelSt s f).eth = s.eth := rfl
@[simp] theorem onRelSt_bxl (s : State) (f : RelSt → RelSt) : (onRelSt s f).bxl = s.bxl := rfl
@[simp] theorem onRelSt_bring (s : State) (f : RelSt → RelSt) : (onRelSt s f).bring = s.bring := rfl
@[simp] theorem onRelSt_fw (s : State) (f : RelSt → RelSt) : (onRelSt s f).fw = s.fw := rfl
@[simp] theorem onRelSt_pin (s : State) (f : RelSt → RelSt) : (onRelSt s f).pin = s.pin := rfl

/-! ### onEth -/

@[simp] theorem onEth_pending (s : State) (f : EthSt → EthSt) : (onEth s f).pending = s.pending := rfl
@[simp] theorem onEth_now (s : State) (f : EthSt → EthSt) : (onEth s f).now = s.now := rfl
@[simp] theorem onEth_draws (s : State) (f : EthSt → EthSt) : (onEth s f).draws = s.draws := rfl
@[simp] theorem onEth_dev (s : State) (f : EthSt → EthSt) : (onEth s f).dev = s.dev := rfl
@[simp] theorem onEth_mp (s : State) (f : EthSt → EthSt) : (onEth s f).mp = s.mp := rfl
@[simp] theorem onEth_cfg (s : State) (f : EthSt → EthSt) : (onEth s f).cfg = s.cfg := rfl
@[simp] theorem onEth_progs (s : State) (f : EthSt → EthSt) : (onEth s f).progs = s.progs := rfl
@[simp] theorem onEth_tick (s : State) (f : EthSt → EthSt) : (onEth s f).tick = s.tick := rfl
@[simp] theorem onEth_watch (s : State) (f : EthSt → EthSt) : (onEth s f).watch = s.watch := rfl
@[simp] theorem onEth_tower (s : State) (f : EthSt → EthSt) : (onEth s f).tower = s.tower := rfl
@[simp] theorem onEth_mem (s : State) (f : EthSt → EthSt) : (onEth s f).mem = s.mem := rfl
@[simp] theorem onEth_step (s : State) (f : EthSt → EthSt) : (onEth s f).step = s.step := rfl
@[simp] theorem onEth_therm (s : State) (f : EthSt → EthSt) : (onEth s f).therm = s.therm := rfl
@[simp] theorem onEth_rel (s : State) (f : EthSt → EthSt) : (onEth s f).rel = s.rel := rfl
@[simp] theorem onEth_eth (s : State) (f : EthSt → EthSt) : (onEth s f).eth = f s.eth := rfl
@[simp] theorem onEth_bxl (s : State) (f : EthSt → EthSt) : (onEth s f).bxl = s.bxl := rfl
@[simp] theorem onEth_bring (s : State) (f : EthSt → EthSt) : (onEth s f).bring = s.bring := rfl
@[simp] theorem onEth_fw (s : State) (f : EthSt → EthSt) : (onEth s f).fw = s.fw := rfl
@[simp] theorem onEth_pin (s : State) (f : EthSt → EthSt) : (onEth s f).pin = s.pin := rfl

/-! ### onPin -/

@[simp] theorem onPin_pending (s : State) (f : PinSt → PinSt) : (onPin s f).pending = s.pending := rfl
@[simp] theorem onPin_now (s : State) (f : PinSt → PinSt) : (onPin s f).now = s.now := rfl
@[simp] theorem onPin_draws (s : State) (f : PinSt → PinSt) : (onPin s f).draws = s.draws := rfl
@[simp] theorem onPin_dev (s : State) (f : PinSt → PinSt) : (onPin s f).dev = s.dev := rfl
@[simp] theorem onPin_mp (s : State) (f : PinSt → PinSt) : (onPin s f).mp = s.mp := rfl
@[simp] theorem onPin_cfg (s : State) (f : PinSt → PinSt) : (onPin s f).cfg = s.cfg := rfl
@[simp] theorem onPin_progs (s : State) (f : PinSt → PinSt) : (onPin s f).progs = s.progs := rfl
@[simp] theorem onPin_tick (s : State) (f : PinSt → PinSt) : (onPin s f).tick = s.tick := rfl
@[simp] theorem onPin_watch (s : State) (f : PinSt → PinSt) : (onPin s f).watch = s.watch := rfl
@[simp] theorem onPin_tower (s : State) (f : PinSt → PinSt) : (onPin s f).tower = s.tower := rfl
@[simp] theorem onPin_mem (s : State) (f : PinSt → PinSt) : (onPin s f).mem = s.mem := rfl
@[simp] theorem onPin_step (s : State) (f : PinSt → PinSt) : (onPin s f).step = s.step := rfl
@[simp] theorem onPin_therm (s : State) (f : PinSt → PinSt) : (onPin s f).therm = s.therm := rfl
@[simp] theorem onPin_rel (s : State) (f : PinSt → PinSt) : (onPin s f).rel = s.rel := rfl
@[simp] theorem onPin_eth (s : State) (f : PinSt → PinSt) : (onPin s f).eth = s.eth := rfl
@[simp] theorem onPin_bxl (s : State) (f : PinSt → PinSt) : (onPin s f).bxl = s.bxl := rfl
@[simp] theorem onPin_bring (s : State) (f : PinSt → PinSt) : (onPin s f).bring = s.bring := rfl
@[simp] theorem onPin_fw (s : State) (f : PinSt → PinSt) : (onPin s f).fw = s.fw := rfl
@[simp] theorem onPin_pin (s : State) (f : PinSt → PinSt) : (onPin s f).pin = f s.pin := rfl

end Sys2Proof.Machine
end

