-- ==== Sys2Proof/Laws/Shared.lean ====
section
/-! SUPPORT. What the operations shared by many rows can do: frames sent, the instruction buffer, the order of issue, the repair of near memory, a
board programmer's writes, and tallied sums. -/

namespace Sys2Proof.Machine

/-! ### Frames sent (R406, R407) -/

/-- Putting a frame on the wire changes the Ethernet side alone. -/
theorem putWire_eth (s : State) (hub port : Nat) (t : EthTx) : putWire s hub port t = { s with eth := (putWire s hub port t).eth } := rfl

/-- A frame that a port sends is on the wire at once, or waits at the port for the end of a pause; nothing but the Ethernet side changes. -/
theorem emit_eth (s : State) (hub port : Nat) (t : EthTx) : emit s hub port t = { s with eth := (emit s hub port t).eth } := by
  unfold emit
  split <;> rfl

/-- A frame of a priority that is not paused is the last one on the wire. -/
theorem emit_wire (s : State) (hub port : Nat) (t : EthTx) (h : txPaused s hub port t = false) :
    (emit s hub port t).eth.tx = s.eth.tx ++ [⟨frameHead s hub port t, t⟩] := by
  simp [emit, h, putWire, onPort, onEth]

/-- Releasing what a pause held changes the Ethernet side alone. -/
theorem portRelease_eth (s : State) (hub port : Nat) : portRelease s hub port = { s with eth := (portRelease s hub port).eth } := by
  have fold : ∀ (ts : List EthTx) (u : State), ts.foldl (fun s t => emit s hub port t) u =
      { u with eth := (ts.foldl (fun s t => emit s hub port t) u).eth } := by
    intro ts
    induction ts with
    | nil => intro u; rfl
    | cons t ts ih =>
      intro u
      rw [List.foldl_cons, ih, emit_eth]
  unfold portRelease
  rw [fold]
  rfl

/-! ### The issue stage (R129, R131) -/

/-- The instruction buffer holds at most 32 lines, the one just put first. -/
theorem ibufPut_length (b : List (Nat × List Byte)) (line : Nat) (bs : List Byte) : (ibufPut b line bs).length ≤ 32 := by
  rw [ibufPut, List.length_take]
  exact Nat.min_le_left _ _

@[simp] theorem ibufPut_head (b : List (Nat × List Byte)) (line : Nat) (bs : List Byte) : (ibufPut b line bs).head? = some (line, bs) := by
  simp [ibufPut]

/-- The issue stage looks at READY threads alone, and at each of them. -/
theorem mem_issueOrder (k : CoreSt) (t : Nat) : t ∈ issueOrder k ↔ ∃ th, (t, th) ∈ k.threads ∧ th.st = .ready := by
  simp only [issueOrder, List.mem_append, List.mem_filter, List.mem_map, decide_eq_true_eq, Prod.exists, beq_iff_eq]
  constructor
  · rintro (⟨⟨a, b, ⟨h1, h2⟩, rfl⟩, -⟩ | ⟨⟨a, b, ⟨h1, h2⟩, rfl⟩, -⟩) <;> exact ⟨b, h1, h2⟩
  · rintro ⟨th, h1, h2⟩
    rcases Nat.lt_or_ge k.lastIssued t with h | h
    · exact .inl ⟨⟨t, th, ⟨h1, h2⟩, rfl⟩, h⟩
    · exact .inr ⟨⟨t, th, ⟨h1, h2⟩, rfl⟩, h⟩

/-! ### Near memory (R305) -/

/-- A push that writes a stack's bytes changes no more of the state than the list of uncorrectable words, and adds none. -/
theorem nearHeal_only (s : State) (team lo hi : Nat) :
    nearHeal s team lo hi = { s with mem := { s.mem with badNm := (nearHeal s team lo hi).mem.badNm } } ∧
    ∀ u ∈ (nearHeal s team lo hi).mem.badNm, u ∈ s.mem.badNm :=
  ⟨rfl, fun _ h => (List.mem_filter.mp h).1⟩

/-! ### The boot flash (R518, R551) -/

/-- A board programmer's write changes the firmware's regions, the field fault record and what the programmer has written, and nothing else. -/
theorem programRegion_only (s : State) (r : FlashRegion) (o : Nat) (bs : List Byte) :
    programRegion s r o bs = { s with fw := (programRegion s r o bs).fw, bring := (programRegion s r o bs).bring, rel := (programRegion s r o bs).rel } := by
  cases r <;> rfl

theorem foldl_flash_only {α : Type} (f : State → α → State) (h : ∀ s x, f s x = { s with fw := (f s x).fw, bring := (f s x).bring, rel := (f s x).rel })
    (xs : List α) (s : State) :
    xs.foldl f s = { s with fw := (xs.foldl f s).fw, bring := (xs.foldl f s).bring, rel := (xs.foldl f s).rel } := by
  induction xs generalizing s with
  | nil => rfl
  | cons x xs ih => rw [List.foldl_cons, ih, h s x]

theorem writeFlash_only (s : State) (w : Nat × List Byte) :
    writeFlash s w = { s with fw := (writeFlash s w).fw, bring := (writeFlash s w).bring, rel := (writeFlash s w).rel } := by
  refine foldl_flash_only _ (fun s r => ?_) _ s
  by_cases h : max w.1 r.2.1 < min (w.1 + w.2.length) (r.2.1 + r.2.2)
  · simp only [h, if_true]
    exact programRegion_only ..
  · simp only [h, if_false]

theorem programFlash_only (s : State) (ws : List (Nat × List Byte)) :
    programFlash s ws = { s with fw := (programFlash s ws).fw, bring := (programFlash s ws).bring, rel := (programFlash s ws).rel } := by
  unfold programFlash
  split
  · rfl
  · rw [onFw, foldl_flash_only writeFlash writeFlash_only ws s]

/-! ### Tallied sums (R357) -/

theorem tallyClamp_bound (i : Int) : -tallyMax ≤ (tallyClamp i).1 ∧ (tallyClamp i).1 ≤ tallyMax := by
  unfold tallyClamp
  split
  · simp [tallyMax]
  · split
    · simp [tallyMax]
    · exact ⟨by omega, by omega⟩

/-- An accumulator stays within its bounds. -/
theorem tallyPut_bound (a : Int × Nat) (k : Int) : -tallyMax ≤ (tallyPut a k).1 ∧ (tallyPut a k).1 ≤ tallyMax := by
  unfold tallyPut
  split
  · dsimp only
    split <;> simp [tallyMax]
  · exact tallyClamp_bound _

/-- Each addition counts at most one saturation, and takes none back. -/
theorem tallyPut_count (a : Int × Nat) (k : Int) : a.2 ≤ (tallyPut a k).2 ∧ (tallyPut a k).2 ≤ a.2 + 1 := by
  have hb : ∀ b, b2n b ≤ 1 := by decide
  unfold tallyPut
  split
  · simp
  · exact ⟨Nat.le_add_right _ _, Nat.add_le_add_left (hb _) _⟩

end Sys2Proof.Machine
end

