-- ==== Sys2Proof/Laws/Tables.lean ====
section
/-! SUPPORT. What a sparse table reads after an update. -/

namespace Sys2Proof.Machine

theorem smGet?_smIns_same {α : Type} (m : List (Nat × α)) (a : Nat) (v : α) : smGet? (smIns m a v) a = some v := by
  induction m with
  | nil => simp [smIns, smGet?]
  | cons e m ih =>
    obtain ⟨k, w⟩ := e
    unfold smIns
    split
    · simp [smGet?]
    · split
      · simp [smGet?]
      · simp_all [smGet?]

theorem smGet?_smIns_other {α : Type} (m : List (Nat × α)) {a b : Nat} (v : α) (h : b ≠ a) : smGet? (smIns m a v) b = smGet? m b := by
  induction m with
  | nil =>
    by_cases hb : b < a
    · simp [smIns, smGet?, hb, Ne.symm h]
    · simp [smIns, smGet?, Ne.symm h]
  | cons e m ih =>
    obtain ⟨k, w⟩ := e
    unfold smIns
    split
    · next hk => subst hk; simp only [smGet?, if_neg (Ne.symm h)]
    · split
      · next hk ha =>
        simp only [smGet?, if_neg (Ne.symm h)]
        by_cases hb : b < a
        · have h1 : k ≠ b := by omega
          have h2 : b < k := by omega
          simp [hb, h1, h2]
        · simp [hb]
      · simp only [smGet?, ih]

theorem smGet_smIns_same {α : Type} (d : α) (m : List (Nat × α)) (a : Nat) (v : α) : smGet d (smIns m a v) a = v := by
  simp [smGet, smGet?_smIns_same]

theorem smGet_smIns_other {α : Type} (d : α) (m : List (Nat × α)) {a b : Nat} (v : α) (h : b ≠ a) :
    smGet d (smIns m a v) b = smGet d m b := by
  simp [smGet, smGet?_smIns_other _ _ h]

/-- A value that is not the default is read back. -/
theorem smGet_smSet_same {α : Type} [DecidableEq α] {d : α} (m : List (Nat × α)) (a : Nat) {v : α} (h : v ≠ d) :
    smGet d (smSet d m a v) a = v := by
  simp [smSet, h, smGet_smIns_same]

theorem smGet_smSet_other_of_ne {α : Type} [DecidableEq α] {d : α} (m : List (Nat × α)) {a b : Nat} {v : α} (h : v ≠ d) (hb : b ≠ a) :
    smGet d (smSet d m a v) b = smGet d m b := by
  simp [smSet, h, smGet_smIns_other _ _ _ hb]

/-! ### Tables in canonical form -/

theorem smGet?_of_wfFrom {α : Type} [DecidableEq α] {d : α} {m : List (Nat × α)} {l a : Nat} (w : smWfFrom d (some l) m = true)
    (h : a ≤ l) : smGet? m a = none := by
  cases m with
  | nil => rfl
  | cons e m =>
    obtain ⟨k, v⟩ := e
    simp only [smWfFrom, Bool.and_eq_true, decide_eq_true_eq] at w
    have h1 : k ≠ a := by omega
    have h2 : a < k := by omega
    simp [smGet?, h1, h2]

theorem smGet?_smDel_same {α : Type} [DecidableEq α] {d : α} {m : List (Nat × α)} (a : Nat) : ∀ {lo : Option Nat},
    smWfFrom d lo m = true → smGet? (smDel m a) a = none := by
  induction m with
  | nil => intros; rfl
  | cons e m ih =>
    intro lo w
    obtain ⟨k, v⟩ := e
    simp only [smWfFrom, Bool.and_eq_true] at w
    unfold smDel
    split
    · next hk => exact smGet?_of_wfFrom w.2 (by omega)
    · split
      · next hk ha => simp [smGet?, hk, ha]
      · next hk ha => simp [smGet?, hk, ha, ih w.2]

theorem smGet?_smDel_other {α : Type} [DecidableEq α] {d : α} {m : List (Nat × α)} {a b : Nat} (hb : b ≠ a) : ∀ {lo : Option Nat},
    smWfFrom d lo m = true → smGet? (smDel m a) b = smGet? m b := by
  induction m with
  | nil => intros; rfl
  | cons e m ih =>
    intro lo w
    obtain ⟨k, v⟩ := e
    simp only [smWfFrom, Bool.and_eq_true] at w
    unfold smDel
    split
    · next hk =>
      subst hk
      simp only [smGet?, if_neg (Ne.symm hb)]
      split
      · exact smGet?_of_wfFrom w.2 (by omega)
      · rfl
    · split
      · rfl
      · simp only [smGet?, ih w.2]

/-- A table in canonical form reads back what was written. -/
theorem smGet_smSet {α : Type} [DecidableEq α] {d : α} {m : List (Nat × α)} (w : smWf d m = true) (a b : Nat) (v : α) :
    smGet d (smSet d m a v) b = if b = a then v else smGet d m b := by
  unfold smSet
  split
  · next hv =>
    by_cases hb : b = a
    · subst hb; simp [smGet, smGet?_smDel_same b w, hv]
    · simp [smGet, smGet?_smDel_other hb w, hb]
  · by_cases hb : b = a
    · subst hb; simp [smGet_smIns_same]
    · simp [smGet_smIns_other _ _ _ hb, hb]

end Sys2Proof.Machine
end

