-- ==== Sys2Proof/Laws/Thread.lean ====
section
/-! SUPPORT. What the operations on threads do: cores and registers after an update, and the completion of an instruction. -/

namespace Sys2Proof.Machine

/-! ### Cores -/

theorem smIns_ne_nil {α : Type} (m : List (Nat × α)) (a : Nat) (v : α) : smIns m a v ≠ [] := by
  cases m with
  | nil => simp [smIns]
  | cons e m =>
    obtain ⟨k, w⟩ := e
    unfold smIns; split
    · simp
    · split <;> simp

/-- A core that holds a thread is no empty core. -/
theorem core_ne_of_threads {k : CoreSt} (h : k.threads ≠ []) : k ≠ {} := by
  intro e; rw [e] at h; exact h rfl

theorem getCore_onCore_same (s : State) (c : Nat) (f : CoreSt → CoreSt) (h : f (getCore s c) ≠ {}) :
    getCore (onCore s c f) c = f (getCore s c) := smGet_smSet_same _ _ h

theorem getCore_onCore_other (s : State) {c x : Nat} (f : CoreSt → CoreSt) (h : f (getCore s c) ≠ {}) (hx : x ≠ c) :
    getCore (onCore s c f) x = getCore s x := smGet_smSet_other_of_ne _ h hx

theorem getCore_onNode (s : State) (c x : Nat) (f : SlotNode → SlotNode) : getCore (onNode s c f) x = getCore s x := rfl
theorem getNode_onCore (s : State) (c x : Nat) (f : CoreSt → CoreSt) : getNode (onCore s c f) x = getNode s x := rfl
theorem getCore_countInstr (s : State) (c x : Nat) : getCore (countInstr s c) x = getCore s x := rfl
theorem getThread_countInstr (s : State) (c x t : Nat) : getThread (countInstr s c) x t = getThread s x t := rfl

/-- The update of a thread that exists. -/
theorem onThread_eq {s : State} {c t : Nat} {th : Thread} (h : getThread s c t = some th) (f : Thread → Thread) :
    onThread s c t f = onCore s c fun k => { k with threads := smIns k.threads t (f th) } := by
  unfold onThread onCore onTower smMod
  simp only [getThread, getCore] at h
  simp only [h]

theorem getCore_onThread_same {s : State} {c t : Nat} {th : Thread} (h : getThread s c t = some th) (f : Thread → Thread) :
    getCore (onThread s c t f) c = { getCore s c with threads := smIns (getCore s c).threads t (f th) } := by
  rw [onThread_eq h]
  exact getCore_onCore_same s c _ (core_ne_of_threads (smIns_ne_nil _ _ _))

theorem getCore_onThread_other {s : State} {c t x : Nat} {th : Thread} (h : getThread s c t = some th) (f : Thread → Thread) (hx : x ≠ c) :
    getCore (onThread s c t f) x = getCore s x := by
  rw [onThread_eq h]
  exact getCore_onCore_other s _ (core_ne_of_threads (smIns_ne_nil _ _ _)) hx

theorem getThread_onThread_same {s : State} {c t : Nat} {th : Thread} (h : getThread s c t = some th) (f : Thread → Thread) :
    getThread (onThread s c t f) c t = some (f th) := by
  unfold getThread; rw [getCore_onThread_same h]; exact smGet?_smIns_same _ _ _

theorem getThread_onThread_other {s : State} {c t x : Nat} {th : Thread} (h : getThread s c t = some th) (f : Thread → Thread) (hx : x ≠ t) :
    getThread (onThread s c t f) c x = getThread s c x := by
  unfold getThread; rw [getCore_onThread_same h]; exact smGet?_smIns_other _ _ hx

/-! ### What changes one thread alone -/

theorem OnlyThread.of_onThread {s : State} {c t : Nat} {th : Thread} (h : getThread s c t = some th) (f : Thread → Thread) :
    OnlyThread s (onThread s c t f) c t (f th) where
  thread := getThread_onThread_same h f
  threads _ hx := getThread_onThread_other h f hx
  core := by rw [getCore_onThread_same h]
  cores _ hx := getCore_onThread_other h f hx
  nodes _ _ _ := rfl
  rest := rfl

theorem OnlyThread.trans {s u v : State} {c t : Nat} {a b : Thread} (h : OnlyThread s u c t a) (k : OnlyThread u v c t b)
    (w : smWf {} s.tower.slots = true → smWf {} u.tower.slots = true) : OnlyThread s v c t b where
  thread := k.thread
  threads x hx := (k.threads x hx).trans (h.threads x hx)
  core := k.core.trans h.core
  cores x hx := (k.cores x hx).trans (h.cores x hx)
  nodes ws x hx := (k.nodes (w ws) x hx).trans (h.nodes ws x hx)
  rest := by rw [k.rest, h.rest]

theorem OnlyThread.countInstr {s : State} {c t : Nat} {th : Thread} (h : getThread s c t = some th) :
    OnlyThread s (countInstr s c) c t th where
  thread := h
  threads _ _ := rfl
  core := rfl
  cores _ _ := rfl
  nodes w x hx := by
    simp only [getNode, Machine.countInstr, onNode, onTower, smMod, smGet_smSet w, if_neg hx]
  rest := rfl

/-! ### Registers -/

theorem gReg_lt (th : Thread) (r : Nat) : gReg th r < 2 ^ 64 := by
  unfold gReg
  split
  · decide
  · exact BitVec.isLt _

theorem gReg_gPut (th : Thread) {d : Nat} (hd : d < 32) (v r : Nat) :
    gReg (gPut th d v) r = if r = d ∧ r ≠ 0 then v % 2 ^ 64 else gReg th r := by
  unfold gPut gReg
  by_cases h0 : d = 0
  · have : ¬(r = 0 ∧ ¬r = 0) := fun h => h.2 h.1
    simp [h0, this]
  · by_cases hr0 : r = 0
    · simp [hr0]
    · by_cases e : r = d
      · subst e; simp [hd, hr0, n64, List.getD_eq_getElem?_getD]
      · simp [hd, h0, hr0, e, n64, List.getD_eq_getElem?_getD, Ne.symm e]

theorem gPut_st (th : Thread) (d v : Nat) : (gPut th d v).st = th.st := by unfold gPut; (repeat' split) <;> rfl
theorem gPut_pc (th : Thread) (d v : Nat) : (gPut th d v).pc = th.pc := by unfold gPut; (repeat' split) <;> rfl
theorem gPut_stop (th : Thread) (d v : Nat) : (gPut th d v).stop = th.stop := by unfold gPut; (repeat' split) <;> rfl

/-- A register written is the only one that changes, and g0 keeps reading 0. -/
theorem writesReg_gPut (th : Thread) (d : BitVec 5) (v : Nat) : WritesReg th (gPut th d.toNat v) d (BitVec.ofNat 64 v) := by
  intro x
  unfold reg
  rw [gReg_gPut th d.isLt v x.toNat]
  by_cases e : x = d
  · subst e
    by_cases h : x = 0
    · subst h; simp
    · have h0 : x.toNat ≠ 0 := fun h' => h (by apply BitVec.eq_of_toNat_eq; simpa using h')
      have h1 : x ≠ 0 := h
      rw [if_pos ⟨rfl, h0⟩, if_pos ⟨rfl, h1⟩]
      apply BitVec.eq_of_toNat_eq
      simp
  · have : x.toNat ≠ d.toNat := fun h' => e (BitVec.eq_of_toNat_eq h')
    simp [e, this]

/-! ### Completion -/

/-- The program counter is set within the code section. -/
theorem jumpTo_spec {s : State} {c t pc : Nat} {th : Thread} (h : getThread s c t = some th) (hc : InCode s c pc) :
    ∃ u, jumpTo s c t pc = u ∧ OnlyThread s u c t { th with pc := pc, since := s.now } := by
  obtain ⟨p, hp, lo, hi⟩ := hc
  refine ⟨_, rfl, ?_⟩
  unfold jumpTo
  simp only [hp, lo, hi, and_self, if_true]
  have h1 := OnlyThread.of_onThread h (fun th => { th with pc := pc, since := s.now })
  exact h1.trans (OnlyThread.countInstr h1.thread) id

/-- An instruction that writes a result and goes on at the next instruction. -/
theorem putNext_spec {s : State} {c t : Nat} {th : Thread} (d : BitVec 5) (v : Nat) (h : CanIssue s c t th) (hc : InCode s c (th.pc + 4)) :
    ∃ th', OnlyThread s (putNext s c t d.toNat v) c t th' ∧ ReadyAt th' (th.pc + 4) ∧ WritesReg th th' d (BitVec.ofNat 64 v) := by
  have h1 : OnlyThread s (setReg s c t d.toNat v) c t (gPut th d.toNat v) := OnlyThread.of_onThread h.thread _
  have hc' : InCode (setReg s c t d.toNat v) c (th.pc + 4) := by
    obtain ⟨p, hp, x⟩ := hc
    exact ⟨p, by have := congrArg CoreSt.prog h1.core; simpa using this.trans hp, x⟩
  obtain ⟨u, hu, h2⟩ := jumpTo_spec h1.thread hc'
  refine ⟨{ gPut th d.toNat v with pc := th.pc + 4, since := (setReg s c t d.toNat v).now }, ?_, ?_, ?_⟩
  rotate_left
  · exact ⟨(gPut_st _ _ _).trans h.ready, rfl, (gPut_stop _ _ _).trans h.unmarked⟩
  · intro x; exact writesReg_gPut th d v x
  · unfold putNext nextPc
    simp only [h1.thread, gPut_pc]
    rw [hu]
    exact h1.trans h2 id

/-- An instruction whose reserved fields hold 0 issues. -/
theorem issueRaw_spec {s : State} {c t : Nat} {th : Thread} (h : CanIssue s c t th) (k : Thread → State) :
    issueRaw c t 0 s k = .next (k th) := by
  unfold issueRaw issueOn
  simp only [h.thread, h.ready, h.unmarked, h.served]
  rfl

end Sys2Proof.Machine
end

