-- ==== Sys2Proof/Tests/Slice0.lean ====
section
/-! SUPPORT. Tests: every check of WellFormed refuses an ill-formed command; for each statement a state and operands that meet its hypotheses together;
single commands on small states, with results worked out by hand from the rules cited. -/

set_option Elab.async false

namespace Sys2Proof.Tests

open Sys2Proof.Machine

/-! ### WellFormed -/

/-- Headers of an IPv4 datagram from 0.0.0.1 to a MAC, an address and a UDP port: Ethernet, 20 bytes of IPv4, 8 of UDP. -/
def head0 (mac dst udp : Nat) : List Byte :=
  beBytes 6 mac ++ beBytes 6 7 ++ beBytes 2 0x0800 ++ [0x45, 0, 0, 46, 0, 0, 0, 0, 64, 17, 0, 0] ++ beBytes 4 1 ++ beBytes 4 dst ++
  beBytes 2 0 ++ beBytes 2 udp ++ beBytes 4 0
/-- A frame of 64 bytes at port 0 of hub 0: for its MAC, from MAC 7 to IPv4 10.0.0.1 (R406, R409). -/
def frame0 (udp : Nat) : NetFrame := ⟨0, 0, 64, head0 0 0x0A000001 udp, 0, 0⟩
/-- An ARP request to all stations, for 10.0.0.1. -/
def arp0 : NetFrame :=
  ⟨0, 0, 64, beBytes 6 (2 ^ 48 - 1) ++ beBytes 6 7 ++ beBytes 2 0x0806 ++ [0, 1, 8, 0, 6, 4, 0, 1] ++ beBytes 6 7 ++ beBytes 4 1 ++ zeroBytes 6 ++
    beBytes 4 0x0A000001, 0, 0⟩
/-- A RoCEv2 packet for connection 5, PSN 20, first and last of its message. -/
def roce0 : RocePkt :=
  { frame0 4791 with qpn := 5, psn := 20, first := true, last := true, va := 0, rkey := 77, len := 0, imm := none, data := [] }
def master0 : PtpMaster := ⟨128, 6, 0x21, 0, 128, 5, 0⟩

theorem test_wf_clrCnt : wellFormed (.clrCnt ⟨.command, 0, 1, 0, 0, 0⟩ 6) = false := by decide
theorem test_wf_bulkPacket : wellFormed (.bulkPacket 1 0 (List.replicate 4089 0)) = false := by decide +kernel
theorem test_wf_ptpMessage : wellFormed (.ptpMessage { frame0 319 with port := 16, domain := 0, master := master0, kind := .sync }) = false := by decide
theorem test_wf_grantTeam : wellFormed (.grantExhausted (.team 256)) = false := by decide
theorem test_wf_grantHub : wellFormed (.grantExhausted (.hub 6)) = false := by decide
theorem test_wf_grantStack : wellFormed (.grantExhausted (.stack 24)) = false := by decide
theorem test_wf_syncSignalApply : wellFormed (.syncSignalApply 2048 0) = false := by decide
theorem test_wf_stackLost : wellFormed (.stackLost 24) = false := by decide
theorem test_wf_moduleLost_hub : wellFormed (.moduleLost 6 0) = false := by decide
theorem test_wf_moduleLost : wellFormed (.moduleLost 0 192) = false := by decide
theorem test_wf_hubLost : wellFormed (.hubLost 6) = false := by decide
theorem test_wf_rcRetry : wellFormed (.rcRetry 6 0) = false := by decide
theorem test_wf_rateRecovery : wellFormed (.rateRecovery 6 0) = false := by decide
theorem test_wf_malformedFrame : wellFormed (.malformedFrame { frame0 0 with hub := 6 } .fcs) = false := by decide
theorem test_wf_pfcFrame : wellFormed (.pfcFrame 0 0 1 [0]) = false := by decide
theorem test_wf_pfcFrame_port : wellFormed (.pfcFrame 0 16 1 (List.replicate 8 0)) = false := by decide
theorem test_wf_pfcWatchdog : wellFormed (.pfcWatchdog 6 0 0) = false := by decide
theorem test_wf_linkDown : wellFormed (.linkDown 0 16 .signal) = false := by decide
theorem test_wf_linkUp : wellFormed (.linkUp 6 0) = false := by decide
theorem test_wf_anRetry : wellFormed (.anRetry 0 16) = false := by decide
theorem test_wf_laneFail_iface : wellFormed (.laneFail ⟨9, 0, 0, 0⟩ ⟨0, []⟩) = false := by decide
theorem test_wf_laneFail_kind : wellFormed (.laneFail ⟨1, 3, 0, 0⟩ ⟨0, []⟩) = false := by decide
theorem test_wf_clockBondLoss_core : wellFormed (.clockBondLoss (.core 2376)) = false := by decide
theorem test_wf_clockBondLoss_node : wellFormed (.clockBondLoss (.node 0 3)) = false := by decide
theorem test_wf_scan_layer : wellFormed (.farrierScanSlot ⟨5, 0, []⟩) = false := by decide
theorem test_wf_scan_phys : wellFormed (.farrierScanSlot ⟨0, 66, []⟩) = false := by decide
theorem test_wf_sensorSample : wellFormed (.sensorSample [] ⟨[]⟩) = false := by decide
theorem test_wf_thermalModel : wellFormed (.thermalModel []) = false := by decide
theorem test_wf_sensorSuspect : wellFormed (.sensorSuspect 394 .stuck) = false := by decide
theorem test_wf_railFault : wellFormed (.railFault 13) = false := by decide
theorem test_wf_suppliesAndReset : wellFormed (.suppliesAndReset ⟨2 ^ 13, []⟩) = false := by decide
theorem test_wf_computeWaveRelease : wellFormed (.computeWaveRelease 2376) = false := by decide
theorem test_wf_contrib : wellFormed (.contrib { frame0 4791 with bytes := [] }) = false := by decide
theorem test_wf_rdmaWrite : wellFormed (.rdmaWrite { roce0 with psn := 2 ^ 24 }) = false := by decide +kernel
theorem test_wf_arpRequest : wellFormed (.arpRequest { frame0 0 with port := 16 }) = false := by decide
theorem test_wf_dataFlit : wellFormed (.dataFlit []) = false := by decide
theorem test_wf_throttleDeepen : wellFormed (.throttleDeepen 39) = false := by decide
theorem test_wf_params : wellFormed (.devEcho ⟨.command, 0, 5, 0, 0, 0, 0, 0, List.replicate 4069 0⟩) = false := by decide +kernel
theorem test_wf_good : wellFormed (.linkUp 5 15) = true := by decide

/-! ### Small states -/

/-- Thread 0 of core 0: READY at 0x1000, g1 = 64, g2 = 7. -/
def th0 : Thread := ⟨.ready, 0x1000, ((Vector.replicate 32 0).set 1 64).set 2 7, false, 0⟩

/-- Core 0 with its program (code from 0x1000 to 0x2000), a scratchpad of 64 KiB and the thread. -/
def core0 : CoreSt := { prog := some ⟨1, 0x1000, 0x1000, 0x2000, 1, 1, 0, 0⟩, scratch64k := 1, threads := [(0, th0)] }

/-- A device in READY with the link UP and `c` on core 0. -/
def ready (c : CoreSt) : State :=
  { State.reset with dev := { fuses := resetFuses, state := 2, stage := 8 }, tower := { cores := [(0, c)] }, bxl := { state := 4 } }
def st0 : State := ready core0

/-- A packet with its right CRC (R70). -/
def pkt (op : Nat) (params : List Byte) (flags : W16 := 0) : Pkt :=
  let p : Pkt := ⟨.command, flags, 5, BitVec.ofNat 32 params.length, 0, 0, 0, 0, params⟩
  { p with crc := BitVec.ofNat 32 (crc32c (hdrBytes op p)) }

/-- What a test looks at of an outcome. -/
def after {α : Type} (o : Host.Outcome State Fault Refusal) (f : State → α) : Option α :=
  match o with
  | .next s => some (f s)
  | _ => none

/-- A packet is accepted and passes checks 4 to 9. -/
def passes (s : State) (op : Nat) (p : Pkt) : Bool :=
  decide (p.crc.toNat = crc32c (hdrBytes op p)) && decide (p.tag ≠ 0xFFFFFFFF) &&
    decide ((s.mp.slots.filter fun x => x.mgmt == (p.chan == .management)).length < if p.chan = .management then 64 else 4096) &&
    !p.flags.getLsbD 1 && !p.flags.getLsbD 2 && (pktRefusal s op p).isNone

theorem passes_of (s : State) (op : Nat) (p : Pkt) (h : passes s op p = true) : Passes s op p := by
  simp only [passes, Bool.and_eq_true, decide_eq_true_eq, Bool.not_eq_true', Option.isNone_iff_eq_none] at h
  exact { crc := h.1.1.1.1.1, tag := h.1.1.1.1.2, room := h.1.1.1.2, flags := ⟨h.1.1.2, h.1.2⟩, checks := h.2 }

/-- An access of memory that succeeds. -/
def okay {α β : Type} (r : State × Except α β) : Bool := match r.2 with | .ok _ => true | .error _ => false
theorem okay_of {α β : Type} (r : State × Except α β) (h : okay r = true) : ∃ v b, r = (v, .ok b) := by
  obtain ⟨v, e | b⟩ := r
  · cases h
  · exact ⟨v, b, rfl⟩

theorem takes_of (s : State) (h1 : s.bxl.state = 4) (h2 : s.mp = {}) (h3 : s.step.packs = []) : TakesPackets s :=
  ⟨h1, by simp [h2], by simp [h2], by simp [h2], by simp [h2], by simp [h2], by simp [h3]⟩

theorem form_of (s : State) (h : s.tower.slots = [])
    (k : (smWf {} s.tower.cores && smWf {} s.tower.streams && smWf 0 s.tower.sync && smWf [] s.tower.watches && smWf {} s.tower.teams &&
      smWf {} s.eth.ports && smWf {} s.eth.hubs && smWf {} s.rel.teams && smWf {} s.therm.regions && keysRise none s.cfg.shadow &&
      keysRise none s.cfg.active && keysRise none s.progs && s.tower.cores.all fun k => keysRise none k.2.threads) = true) : TablesForm s := by
  simp only [Bool.and_eq_true, List.all_eq_true] at k
  obtain ⟨⟨⟨⟨⟨⟨⟨⟨⟨⟨⟨⟨a, b⟩, c⟩, d⟩, e⟩, f⟩, g⟩, i⟩, j⟩, l⟩, m⟩, n⟩, o⟩ := k
  exact ⟨a, by rw [h]; rfl, b, c, d, e, f, g, i, j, l, m, n, o, by rw [h]; nofun⟩

theorem st0_issues : CanIssue st0 0 0 th0 := ⟨by decide, rfl, rfl, .inl rfl⟩
theorem st0_code : InCode st0 0 (th0.pc + 4) := ⟨⟨1, 0x1000, 0x1000, 0x2000, 1, 1, 0, 0⟩, rfl, by decide, by decide⟩
theorem st0_takes : TakesPackets st0 := takes_of st0 rfl rfl rfl
theorem st0_form : TablesForm st0 := form_of st0 rfl (by decide)
theorem st0_room : EventRoom st0 := ⟨by decide, rfl⟩

/-! ### The machine as a whole -/

theorem witness_StepRunsFront : ({ st0 with pending := [.tickOutFall] } : State).pending = .tickOutFall :: [] := rfl
theorem witness_EmptyQueueIdles : st0.pending = [] := rfl
theorem witness_CommandsKeepQueueAndClock : ∃ t, exec .thermalTrip st0 = .next t := ⟨_, rfl⟩
theorem witness_StepKeepsMemoryForm : Memory.wf st0.mem = true ∧ ∃ t, step { st0 with pending := [.thermalTrip] } = .next t := ⟨by decide, _, rfl⟩
/-- FusesAreFixed, its second clause: the counter that ROLLBACK_FUSE_PROGRAM raises (R531). -/
theorem witness_FusesAreFixed : after (exec .rollbackFuseProgram { st0 with
    therm := { window := some true }
    fw := { fusePending := true, image := zeroBytes 16 ++ leBytes 4 3 } }) (·.dev.fuses.rollback) = some 3 := by decide

/-! ### Words of instructions, written out from their encodings (Tables 05.13 to 05.16, 06.2, 07.2, 08.3, 09.4, 12.3, 13.1, R195, R414) -/

/-- R: ADD g3, g1, g2; M: LD g3 from g1 + 8, WIDTH 3, SPACE 1; B: BNE g1, g2, +16; J: JAL -1. -/
theorem test_word_scalar :
    decodeInsn 5 6 0b000000_00011_00001_00010_00000000000 = some (.add ⟨5, 6, 3, 1, 2, 0⟩) ∧
    decodeInsn 5 6 0b000001_00011_00001_1111111111111111 = some (.addi ⟨5, 6, 3, 1, 0xFFFF⟩) ∧
    decodeInsn 5 6 0b001001_00011_00001_011_1_0_00000001000 = some (.ld ⟨5, 6, 3, 1, 3, true, false, 8⟩) ∧
    decodeInsn 5 6 0b001100_00001_00010_0000000000010000 = some (.branch ⟨5, 6, .bne, 1, 2, 16⟩) ∧
    decodeInsn 5 6 0b010001_11111111111111111111111111 = some (.jal ⟨5, 6, 0x3FFFFFF⟩) ∧
    decodeInsn 5 6 0b011001_00011_00001_00010_00000000000 = some (.fadd ⟨5, 6, 3, 1, 2, 0⟩) := by decide
theorem test_word_sync :
    decodeInsn 5 6 0b010100_00000_00001_0000000000000010 = some (.signal ⟨5, 6, 0, 1, 2⟩) ∧
    decodeInsn 5 6 0b010111_00000_00001_0000000000000111 = some (.sstart ⟨5, 6, 0, 1, 7⟩) ∧
    decodeInsn 5 6 0b010011_00000_00000_00000_00000000001 = some (.nop ⟨5, 6, 0, 0, 0, 0⟩) := by decide
/-- MMUL to accumulator 3 with ACCUM; VFMA v1, v2, gB with EW 2, T 1; RSTAT g4 with C; CDEC g5; APOP g6; PFENCE; NWRITE slot 7 g8. -/
theorem test_word_units :
    decodeInsn 5 6 0b101100_0000_011_00001_00010_00100_1_000 = some (.mmul ⟨5, 6, 3, 1, 2, 4, true, 0⟩) ∧
    decodeInsn 5 6 0b101101_001011_00001_00010_00011_10_1_01 = some (.vfma ⟨5, 6, 1, 2, 3, 2, true, 1⟩) ∧
    decodeInsn 5 6 0b101110_0010_00100_1_0000000000000000 = some (.rstat ⟨5, 6, 4, true, 0⟩) ∧
    decodeInsn 5 6 0b101111_0010_00101_0_0000000000000000 = some (.cdec ⟨5, 6, 5, false, 0⟩) ∧
    decodeInsn 5 6 0b110000_0001_00110_00000_000000000000 = some (.apop ⟨5, 6, 6, 0, 0⟩) ∧
    decodeInsn 5 6 0b110001_0001_00000_00000000000000000 = some (.pfence ⟨5, 6, 0, 0⟩) ∧
    decodeInsn 5 6 0b110010_0000_01000_111_00000000000000 = some (.nwrite ⟨5, 6, 0, 8, 7, 0⟩) := by decide
/-- R159: a major opcode that is not in the table, and FUNC codes that their majors do not list. -/
theorem test_word_invalid :
    decodeInsn 5 6 (0b111111 * 2 ^ 26) = none ∧ decodeInsn 5 6 0b000000_00011_00001_00010_00000010110 = none ∧
    decodeInsn 5 6 0b101100_0100_0000000000000000000000 = none ∧ decodeInsn 5 6 0b101101_100111_00000000000000000000 = none := by decide
/-- R31, R304: the example of the spec. -/
theorem test_stack_place : stackPlace State.reset 0x012345678800 = ⟨13, 8, 1, 1, 7000, 0, 0⟩ := by decide +kernel

/-! ### Scalar instructions -/

theorem witness_ScalarRegisterForms : intTable.length = 22 ∧ CanIssue st0 0 0 th0 ∧ InCode st0 0 (th0.pc + 4) := ⟨rfl, st0_issues, st0_code⟩
theorem witness_ScalarRegisterForms_imm : (0x003F : W16).extractLsb' 8 8 = 0 ∧ (0x003F : W16).extractLsb' 6 2 ≠ 3 ∧ CanIssue st0 0 0 th0 ∧
    InCode st0 0 (th0.pc + 4) := ⟨by decide, by decide, st0_issues, st0_code⟩
theorem witness_InvalidEncodingsStop : CanIssue st0 0 0 th0 ∧ (1 : BitVec 11) ≠ 0 ∧ ¬ ((0x0100 : W16).extractLsb' 8 8 = 0) :=
  ⟨st0_issues, by decide, by decide⟩
theorem witness_FaultStopsOneThread : getThread st0 0 0 = some th0 ∧ (getNode st0 0).suppress.faults = 0 ∧ EventRoom st0 := ⟨by decide, rfl, st0_room⟩
theorem witness_BranchesAndJumps : CanIssue st0 0 0 th0 ∧ brTaken .bne (reg th0 1) (reg th0 2) = true ∧
    InCode st0 0 (BitVec.ofNat 64 th0.pc + (0x0010 : W16).signExtend 64 * 4).toNat :=
  ⟨st0_issues, by decide, ⟨_, rfl, by decide, by decide⟩⟩
theorem witness_BranchesAndJumps_outside : CanIssue st0 0 0 th0 ∧ brTaken .bne (reg th0 1) (reg th0 2) = true ∧ ∃ p, (getCore st0 0).prog = some p ∧
    (BitVec.ofNat 64 th0.pc + (0x7FFF : W16).signExtend 64 * 4).toNat = 0x20FFC ∧ ¬ (p.codeLo ≤ 0x20FFC ∧ 0x20FFC < p.codeHi) :=
  ⟨st0_issues, by decide, _, rfl, by decide, by decide⟩
theorem witness_ScratchpadLoadStore : CanIssue st0 0 0 th0 ∧ memAddr th0 ⟨0, 0, 3, 1, 3, false, false, 8⟩ = 72 ∧ widthLen 3 = 8 ∧
    scratchLen st0 0 = 65536 ∧ InCode st0 0 (th0.pc + 4) ∧ Memory.wf st0.mem = true :=
  ⟨st0_issues, by decide, by decide, by decide, st0_code, by decide⟩
theorem witness_DeviceLoadStore : CanIssue st0 0 0 th0 ∧ unmappedAt st0 64 8 = none ∧ protectedAt st0 64 8 = none ∧
    (∃ v b, memRead st0 64 8 = (v, .ok b)) ∧ ∃ v u, memWrite st0 64 (leBytes 8 7) = (v, .ok u) :=
  ⟨st0_issues, by decide, by decide, okay_of _ (by decide +kernel), okay_of _ (by decide +kernel)⟩
/-- A miss register of line 0 with 32 waiters (R286). -/
def stMiss : State := ready { core0 with mregs := [⟨0, [0], 32, 100⟩] }
/-- A read-only load: its line is fetched; where 32 wait for the line already, it waits too. -/
theorem witness_DeviceLoadStore_ro : CanIssue st0 0 0 th0 ∧ unmappedAt st0 64 8 = none ∧
    (match roRead st0 0 false 64 8 with | (v, .data _) => getThread v 0 0 == some th0 | _ => false) = true ∧
    (match roRead stMiss 0 false 64 8 with | (_, .wait _) => true | _ => false) = true :=
  ⟨st0_issues, by decide, by decide +kernel, by decide +kernel⟩
theorem witness_LoadStoreFaults : CanIssue st0 0 0 th0 ∧ memAddr th0 ⟨0, 0, 3, 2, 3, true, false, 0⟩ % widthLen 3 ≠ 0 ∧
    unmappedAt st0 0x3FFFFFFFFFF8 8 = some 0x3FFFFFFFFFF8 ∧ scratchLen st0 0 < 65528 + 8 + widthLen 3 := ⟨st0_issues, by decide, by decide, by decide⟩

/-- R160: 64 + 7, and the thread goes on at PC + 4. -/
theorem test_add : after (exec (.add ⟨0, 0, 3, 1, 2, 0⟩) st0) (fun u => (getThread u 0 0).map fun t => (t.pc, gReg t 3)) = some (some (0x1004, 71)) := by
  decide
/-- R129, R131, R158: with no command waiting a ck passes, and core 0 runs the ADD that its instruction buffer holds at 0x1000. -/
theorem test_core_runs : after (step (ready { core0 with ibuf := [(8, leBytes 4 0b000000_00011_00001_00010_00000000000)] }))
    (fun u => ((getThread u 0 0).map fun t => (t.pc, gReg t 3), (getCore u 0).lastIssued)) = some (some (0x1004, 71), 0) := by decide +kernel
/-- R129: the round-robin pick goes on from the thread that issued last. -/
theorem test_issue_order : issueOrder { core0 with threads := [(0, th0), (3, th0), (9, th0)], lastIssued := 3 } = [9, 0, 3] := by decide
/-- R127: a write to g0 has no effect. -/
theorem test_add_g0 : after (exec (.add ⟨0, 0, 0, 1, 2, 0⟩) st0) (fun u => (getThread u 0 0).map fun t => (t.pc, gReg t 0)) = some (some (0x1004, 0)) := by
  decide
/-- R160: division by 0 gives all ones. -/
theorem test_divu_zero : after (exec (.divu ⟨0, 0, 3, 1, 0, 0⟩) st0) (fun u => (getThread u 0 0).map fun t => gReg t 3) = some (some (2 ^ 64 - 1)) := by
  decide
/-- R162: g1 ≠ g2, so BNE goes to PC + 4 × 16. -/
theorem test_bne : after (exec (.branch ⟨0, 0, .bne, 1, 2, 16⟩) st0) (fun u => (getThread u 0 0).map (·.pc)) = some (some 0x1040) := by decide
/-- R161, R6: the low byte first. -/
theorem test_st_ld : after (exec (.st ⟨0, 0, 2, 1, 1, false, false, 0⟩) st0) (fun u => spadRead u 0 63 4) = some [0, 7, 0, 0] := by decide
/-- R128: END. -/
theorem test_end : after (exec (.endThread ⟨0, 0, 0, 0, 0, 0⟩) st0) (fun u => (getThread u 0 0).map (·.st)) = some (some .ended) := by decide

/-! ### Sync objects and streams -/

/-- Thread 0 waits for object 9 to reach 1, and a SIGNAL of 2 is on its way. -/
def stSync : State :=
  { st0 with tower := {
      cores := [(0, { core0 with threads := [(0, { th0 with st := .blocked (.sync 9 1) })] })]
      watches := [(9, [0])]
      signals := [⟨3, 9, 2⟩]
      wakes := [(0, 9)]
      sync := [(9, 1)] } }
/-- A valid descriptor at offset 64 of core 0's scratchpad: one row of 64 bytes from address 0 to offset 0. -/
def descBytes : List Byte := zeroBytes 16 ++ leBytes 4 64 ++ leBytes 4 1 ++ leBytes 8 64 ++ leBytes 8 64 ++ zeroBytes 24
def stDesc : State := { st0 with mem := { spad := [(80, 64), (84, 1), (88, 64), (96, 64)] } }
def move0 : StreamDesc := readDesc descBytes
def stStream : State := { st0 with tower := { st0.tower with streams := [(0, { run := some (.move move0) })] } }

theorem stSync_form : TablesForm stSync := form_of stSync rfl (by decide)

theorem witness_SyncInstructions : CanIssue st0 0 0 th0 ∧ countReached (syncCount stSync 9) 1 = true ∧ countReached (syncCount st0 9) 1 = false :=
  ⟨st0_issues, by decide, by decide⟩
theorem witness_SignalsAreApplied : TablesForm stSync ∧ stSync.tower.signals.find? (fun m => m.src == 3 && m.obj == (9 : W16).toNat) = some ⟨3, 9, 2⟩ :=
  ⟨stSync_form, rfl⟩
theorem witness_WakesResumeWaiters : TablesForm stSync ∧ ((0 : BitVec 11).toNat, (9 : W16).toNat) ∈ stSync.tower.wakes ∧
    getThread stSync 0 0 = some { th0 with st := .blocked (.sync 9 1) } ∧ countReached (syncCount stSync 9) 1 = true ∧ InCode stSync 0 (th0.pc + 4) :=
  ⟨stSync_form, by decide, by decide, by decide, ⟨_, rfl, by decide, by decide⟩⟩
theorem witness_StreamInstructions : CanIssue stDesc 0 0 th0 ∧ (getStream stDesc 0).run = none ∧ spadRead stDesc 0 64 64 = descBytes ∧
    descOk (readDesc descBytes) (descBytes.drop 47) (scratchLen stDesc 0) = true ∧ (getStream stStream 0).run ≠ none :=
  ⟨⟨by decide, rfl, rfl, .inl rfl⟩, by decide, by decide, by decide, by decide⟩
theorem witness_StreamsPostOneCompletion : TablesForm stStream ∧ (getStream stStream 0).run = some (.move move0) ∧
    (getNode stStream 0).suppress.posted.contains 0 = false := ⟨form_of stStream rfl (by decide), by decide, by decide⟩
theorem witness_InvalidDescriptorsStop : CanIssue st0 0 0 th0 ∧ InvalidDesc (readDesc (spadRead st0 0 64 64)) ((spadRead st0 0 64 64).drop 47) 65536 ∧
    (readDesc (spadRead stDesc 0 64 64)).rows = 1 := ⟨st0_issues, .inr (.inl (by decide)), by decide⟩

/-- R146, R147: the count rises by 2, and the core that waits is woken. -/
theorem test_signal : after (exec (.syncSignalApply 3 9) { stSync with tower := { stSync.tower with wakes := [] } }) (fun u => (syncCount u 9, u.tower.wakes)) =
    some (3, [(0, 9)]) := by decide
/-- R147: the waiting thread goes on after its WAIT. -/
theorem test_wake : after (exec (.wake 0 9) stSync) (fun u => (getThread u 0 0).map fun t => (t.st, t.pc)) = some (some (.ready, 0x1004)) := by decide

/-! ### Host commands -/

theorem echo_passes : Passes st0 0x0003 (pkt 0x0003 [1, 2, 3, 4]) := passes_of _ _ _ (by decide +kernel)
theorem witness_PacketsAreRefused : TakesPackets st0 ∧ Accepted st0 0x0003 (pkt 0x0003 []) ∧ opInfo 0x0003 = some ⟨false, .a, 0, 4064⟩ ∧
    (pkt 0x0101 []).paramLen.toNat < 16 ∧ st0.dev.state < 4 :=
  ⟨st0_takes, (passes_of st0 _ (pkt 0x0003 []) (by decide +kernel)).toAccepted, rfl, by decide +kernel, by decide⟩
theorem witness_PacketsAreRefused_malformed : TakesPackets st0 ∧ EventRoom st0 ∧
    (pkt 0x0003 []).crc.toNat ≠ crc32c (hdrBytes 0x0001 (pkt 0x0003 [])) := ⟨st0_takes, st0_room, by decide +kernel⟩
theorem witness_PacketsAreRefused_down : State.reset.bxl.state ≠ 4 := by decide
theorem witness_QueriesOnlyReport : TakesPackets st0 ∧ Passes st0 0x0003 (pkt 0x0003 [1, 2, 3, 4]) := ⟨st0_takes, echo_passes⟩
/-- The CS_WRITE of CLR_CARRY with its CRC. -/
def hdr (a i : Nat) : Hdr :=
  ⟨.command, 0, 5, 0, 0, BitVec.ofNat 32 (crc32c (hdrBytes 0x0102 (lvPkt ⟨.command, 0, 5, 0, 0, 0⟩ a i)))⟩
theorem witness_SelfClearingBits : TakesPackets st0 ∧ Passes st0 0x0102 (lvPkt (hdr 0x7F0000020028 1) 0x7F0000020028 1) ∧ TablesForm st0 ∧
    Passes st0 0x0102 (lvPkt (hdr (0x7F0000060928 + 0x40 * 1) 0) (0x7F0000060928 + 0x40 * 1) 0) ∧ hubFitted st0 1 = true :=
  ⟨st0_takes, passes_of _ _ _ (by decide +kernel), st0_form, passes_of _ _ _ (by decide +kernel), by decide⟩
def readStepping : Pkt := pkt 0x0101 (leBytes 8 0x7F0000000000 ++ leBytes 8 1)
def writeTick : Pkt := pkt 0x0102 (leBytes 8 0x7F0000020000 ++ leBytes 8 1000 ++ leBytes 8 0x1FFF)
theorem witness_ControlSpaceCommands : TakesPackets st0 ∧ Passes st0 0x0101 readStepping ∧ csUnmapped st0 0x7F0000000000 = false ∧
    Passes st0 0x0102 writeTick ∧ csUnmapped st0 0x7F0000020000 = false ∧ (shAt 0x7F0000020000).isSome = true ∧ Passes st0 0x0103 (pkt 0x0103 []) :=
  ⟨st0_takes, passes_of _ _ _ (by decide +kernel), by decide +kernel, passes_of _ _ _ (by decide +kernel), by decide +kernel, by decide +kernel,
   passes_of _ _ _ (by decide +kernel)⟩
theorem witness_DiscardCopiesActive : TakesPackets st0 ∧ Passes st0 0x0104 (pkt 0x0104 []) ∧ slotsUsed st0 false ≤ 4096 ∧ slotsUsed st0 true ≤ 64 ∧
    Passes { st0 with mp := { st0.mp with commit := some (0, none) } } 0x0104 (pkt 0x0104 []) :=
  ⟨st0_takes, passes_of _ _ _ (by decide +kernel), by decide, by decide, passes_of _ _ _ (by decide +kernel)⟩
theorem witness_CommandsThatEndAtOnce_sync : TakesPackets st0 ∧ Passes st0 0x0205 (pkt 0x0205 (leBytes 4 9 ++ leBytes 4 5)) ∧ TablesForm st0 :=
  ⟨st0_takes, passes_of _ _ _ (by decide +kernel), st0_form⟩

/-- Task 3 with tag 7, not admitted, on team 0; and its slot. -/
def task3 : Task := { sid := 3, tag := 7, teams := 1, budget := 100, phase := 0, handle := 1, entry := 0, threads := 1, arg := 0, epoch := 0,
                      footprint := 0, tnb := none, step := none }
def slot3 (w : Work) (op : Nat := 0x0303) : Slot := { sid := 3, mgmt := false, tag := 7, stepValid := false, step := 0, opcode := op, acked := true, work := w }
def stSlot (w : Work) (op : Nat := 0x0303) : State := { st0 with mp := { slots := [slot3 w op], nextSid := 4 } }
theorem stSlot_takes (w : Work) (op : Nat) (h : ∀ p o, w ≠ .held p o) (k : w ≠ .snapshot) : TakesPackets (stSlot w op) :=
  ⟨rfl, rfl, nofun, rfl, rfl, by simp [stSlot, slot3, h, k], nofun⟩
def stTask : State := { stSlot .task with tick := { tasks := [task3] } }
theorem witness_TaskSubmitWaits_cancel : TakesPackets stTask ∧ Passes stTask 0x0304 (pkt 0x0304 (leBytes 8 7)) ∧
    stTask.tick.tasks.find? (fun k => k.tag == getLe (pkt 0x0304 (leBytes 8 7)).params 0 4 && !k.admitted) = some task3 ∧
    findSlot stTask 3 = some (slot3 .task) :=
  ⟨⟨rfl, rfl, nofun, rfl, rfl, by simp [stTask, stSlot, slot3], nofun⟩, passes_of _ _ _ (by decide +kernel), by decide +kernel, by decide⟩
theorem witness_CommandsThatEndAtOnce_topology : TakesPackets st0 ∧ Accepted st0 0x0803 (pkt 0x0803 []) ∧ (pkt 0x0803 []).params = [] ∧ st0.dev.state = 2 :=
  ⟨st0_takes, (passes_of st0 _ (pkt 0x0803 []) (by decide +kernel)).toAccepted, rfl, rfl⟩
def stProg : State := { st0 with progs := [(1, ⟨0, 4096, 1, 64, 64, 8⟩)] }
theorem witness_CommandsThatEndAtOnce : TakesPackets stProg ∧ Passes stProg 0x0302 (pkt 0x0302 (leBytes 8 1)) ∧ TablesForm stProg ∧
    Passes { st0 with fw := { total := 1, bitmap := [0] } } 0x0603 (pkt 0x0603 (leBytes 8 1)) ∧
    Passes { st0 with therm := { suspect := [0] } } 0x0702 (pkt 0x0702 (leBytes 8 0)) :=
  ⟨takes_of _ rfl rfl rfl, passes_of _ _ _ (by decide +kernel), form_of _ rfl (by decide), passes_of _ _ _ (by decide +kernel),
   passes_of _ _ _ (by decide +kernel)⟩
theorem witness_LongCommandsBegin : TakesPackets st0 ∧ Passes st0 0x0201 (pkt 0x0201 (leBytes 8 0 ++ leBytes 8 4)) ∧
    Passes st0 0x0204 (pkt 0x0204 (leBytes 8 0 ++ leBytes 8 64 ++ leBytes 8 4)) ∧ Passes st0 0x0207 (pkt 0x0207 (leBytes 8 3)) ∧
    Passes st0 0x0601 (pkt 0x0601 (leBytes 4 0 ++ leBytes 4 1 ++ leBytes 8 0)) ∧ Passes st0 0x0405 (pkt 0x0405 []) ∧
    Passes st0 0x0704 (pkt 0x0704 (leBytes 8 4)) ∧ Passes st0 0x0002 (pkt 0x0002 []) :=
  ⟨st0_takes, passes_of _ _ _ (by decide +kernel), passes_of _ _ _ (by decide +kernel), passes_of _ _ _ (by decide +kernel),
   passes_of _ _ _ (by decide +kernel), passes_of _ _ _ (by decide +kernel), passes_of _ _ _ (by decide +kernel), passes_of _ _ _ (by decide +kernel)⟩
def submit : Pkt := pkt 0x0303 (leBytes 32 1 ++ leBytes 4 3000 ++ [0, 0] ++ leBytes 2 1 ++ leBytes 4 64 ++ leBytes 2 8 ++ zeroBytes 34)
theorem witness_TaskSubmitWaits : TakesPackets stProg ∧ Passes stProg 0x0303 submit ∧ stProg.tick.quarantine = 0 ∧
    getLe submit.params 32 4 ≤ cfgInterval stProg * (100 - cfgReplayPct stProg) * 15 - 4500 :=
  ⟨takes_of _ rfl rfl rfl, passes_of _ _ _ (by decide +kernel), rfl, by decide +kernel⟩
def defTensor : Pkt := pkt 0x0401 (leBytes 4 7 ++ [1, 0, 0, 0, 0, 0] ++ zeroBytes 6 ++ leBytes 4 4 ++ leBytes 4 4 ++ zeroBytes 40)
theorem witness_DefinitionsAreListed : TakesPackets st0 ∧ Passes st0 0x0301 (pkt 0x0301 (leBytes 8 0 ++ leBytes 4 4096 ++ leBytes 12 1)) ∧
    unmappedAt st0 0 4096 = none ∧ Passes st0 0x0401 defTensor ∧ getB defTensor.params 4 ≠ 0 ∧
    Passes st0 0x0501 (pkt 0x0501 (leBytes 4 3 ++ leBytes 4 356 ++ leBytes 8 0)) ∧ tableHeadOk (zeroBytes 356) 356 = false :=
  ⟨st0_takes, passes_of _ _ _ (by decide +kernel), by decide, passes_of _ _ _ (by decide +kernel), by decide +kernel, passes_of _ _ _ (by decide +kernel),
   by decide +kernel⟩

/-- A weight tensor and a pack that holds it, alone. -/
def tensor7 : Tensor := { id := 7, kind := 0, fmt := 1, log2 := 0, flags := 0, rule := 1, hub := 0, refresh := 0, chunk := 0, rows := 2, cols := 4,
                          master := 0, work := 0, hyper := 0 }
def pack3 : Pack := { id := 3, n := 1, me := 0, v6 := false, members := [[v4Mapped 1, 0, 0, 0, 0, 0]], ports := [1, 0, 0, 0, 0, 0],
                      extents := [(0, 4096)], groups := [], tensors := [7] }
def stPack (p : Pack) : State := { st0 with step := { tensors := [tensor7], packs := [p] } }
theorem stPack_takes (p : Pack) (h : p.releasing = none) (k : ∀ x ∈ p.steps, x.fence = none ∨ x.decision = none) : TakesPackets (stPack p) :=
  ⟨rfl, rfl, nofun, rfl, rfl, nofun, by intro q hq; simp only [stPack, List.mem_singleton] at hq; exact hq ▸ ⟨h, k⟩⟩
theorem witness_FencesAndReleases : TakesPackets (stPack pack3) ∧ Passes (stPack pack3) 0x0402 (pkt 0x0402 (leBytes 8 7)) ∧
    Passes (stPack pack3) 0x0403 (pkt 0x0403 (leBytes 8 3) 1) ∧ (pkt 0x0403 (leBytes 8 3) 1).flags.getLsbD 0 = true ∧
    findPack (stPack pack3) 3 = some pack3 ∧ Passes (stPack pack3) 0x0502 (pkt 0x0502 (leBytes 8 3)) :=
  ⟨stPack_takes _ rfl nofun, passes_of _ _ _ (by decide +kernel), passes_of _ _ _ (by decide +kernel), by decide, by decide,
   passes_of _ _ _ (by decide +kernel)⟩

/-- The port's IPv4 address, 10.0.0.1 (Table 15.13). -/
def cfgIp : CfgSt := { active := [(portBase 0 0 + 0x10, 0x0A000001)] }
/-- The pack with a decided step 0, a skip; and with a fence at step 0 that waits for its decision. -/
def packSkip : Pack := { pack3 with steps := [{ step := 0, decision := some (false, 0, 0x0402, 0) }] }
def stFenced : State :=
  { st0 with mp := { slots := [{ slot3 (.fence 3 0) 0x0403 with ref := 3 }], nextSid := 4 }, step := { tensors := [tensor7], packs := [{ pack3 with steps := [{ step := 0, fence := some 3 }] }] } }
theorem witness_FencesAndReleases_decided : TakesPackets (stPack packSkip) ∧ Passes (stPack packSkip) 0x0403 (pkt 0x0403 (leBytes 8 3) 1) ∧
    stepDecision packSkip 0 = some (false, 0, 0x0402, 0) :=
  ⟨stPack_takes _ rfl (by decide), passes_of _ _ _ (by decide +kernel), by decide⟩
theorem witness_FencesAndReleases_waits : TakesPackets stFenced ∧ Passes stFenced 0x0502 (pkt 0x0502 (leBytes 8 3)) ∧
    ∃ x ∈ stFenced.mp.slots, x.opcode = 0x0403 ∧ x.ref = 3 :=
  ⟨⟨rfl, rfl, nofun, rfl, rfl, by simp [stFenced, slot3], by simp [stFenced, pack3]⟩, passes_of _ _ _ (by decide +kernel),
   _, List.mem_singleton.mpr rfl, rfl, rfl⟩
/-- R116, R366: a fence of a step that is skipped already has its final reply at once. -/
theorem test_fence_skip : after (exec (.stepFence (pkt 0x0403 (leBytes 8 3) 1)) (stPack packSkip)) (fun u => u.mp.replyQ.map fun r => getLe r.bytes 4 2) =
    some [1, 0x0402] := by decide +kernel
/-- R117: a release behind a fence waits. -/
theorem test_release_waits : after (exec (.packRelease (pkt 0x0502 (leBytes 8 3))) stFenced) (fun u => (u.mp.replyQ.map fun r => getLe r.bytes 4 2,
    u.step.packs.length)) = some ([1], 1) := by decide +kernel

/-- Connection 5 on port 0 of hub 0, which is UP. -/
def conn5 : RcConn := { qpn := 5, hub := 0, port := 0, v6 := false, remoteQpn := 9, remoteAddr := 1, rkey := 77, recvPsn := 10, sendPsn := 20 }
def stEth (c : RcConn) : State := { st0 with cfg := cfgIp, eth := { ports := [(0, { state := 2 })], conns := [c] } }
theorem witness_ConnectionsOpenAndClose : TakesPackets (stEth conn5) ∧ Passes (stEth conn5) 0x0504 (pkt 0x0504 (zeroBytes 32)) ∧
    portUp (stEth conn5) 0 0 = true ∧ Passes (stEth conn5) 0x0505 (pkt 0x0505 (leBytes 8 5)) ∧ findConn (stEth conn5) 5 = some conn5 :=
  ⟨takes_of _ rfl rfl rfl, passes_of _ _ _ (by decide +kernel), by decide +kernel, passes_of _ _ _ (by decide +kernel), by decide⟩
theorem witness_LongCommandsBegin_topology : TakesPackets st0 ∧ Passes st0 0x0802 (pkt 0x0802 []) := ⟨st0_takes, passes_of _ _ _ (by decide +kernel)⟩
theorem witness_MemoryCommandsFinish : TakesPackets (stSlot (.memFill 0 4 0xAB) 0x0203) ∧
    findSlot (stSlot (.memFill 0 4 0xAB) 0x0203) 3 = some (slot3 (.memFill 0 4 0xAB) 0x0203) ∧ unmappedAt (stSlot (.memFill 0 4 0xAB) 0x0203) 0 4 = none ∧
    protectedAt (stSlot (.memFill 0 4 0xAB) 0x0203) 0 4 = none ∧ ∃ v u, memWrite (stSlot (.memFill 0 4 0xAB) 0x0203) 0 [0xAB, 0, 0, 0] = (v, .ok u) :=
  ⟨stSlot_takes _ _ nofun nofun, by decide, by decide, by decide, okay_of _ (by decide +kernel)⟩
/-- R105: 100 bytes of a MEM_WRITE of 128 arrive: the whole 64-byte unit is written, the rest is held. -/
def stWrite : State := stSlot (.memWrite 0 128 0) 0x0202
theorem witness_MemoryCommandsFinish_bulk : TakesPackets stWrite ∧ stWrite.mp.slots.find? (fun x => x.tag == (7 : W32).toNat &&
    (x.opcode == 0x0202 || x.opcode == 0x0601) && x.work != .done) = some (slot3 (.memWrite 0 128 0) 0x0202) ∧
    100 - min 100 ((0 + 0 + 100) % 64) = 64 ∧ ∃ v u, memWrite stWrite 0 (List.replicate 64 1) = (v, .ok u) :=
  ⟨stSlot_takes _ _ nofun nofun, by decide, by decide, okay_of _ (by decide +kernel)⟩
theorem test_bulk_unit : after (exec (.bulkPacket 7 0 (List.replicate 100 1)) stWrite) (fun u => ((match (memRead u 63 2).2 with | .ok b => b | _ => []),
    u.mp.slots.map fun x => (match x.work with | .memWrite _ _ got => got | _ => 0, (x.bulk.map (·.2)).flatten.length))) =
    some ([1, 0], [(64, 36)]) := by decide +kernel
theorem witness_RepliesAndEventsAreSent : ∃ r, TakesPackets { st0 with mp := { replyQ := [r] } } ∧ r.bytes.length = 32 ∧
    canSend st0 1 r.bytes = false ∧ canSend { st0 with bxl := { st0.bxl with txCredit := [(1, 9)] } } 1 r.bytes = true :=
  ⟨⟨none, false, false, zeroBytes 32⟩, ⟨rfl, rfl, nofun, rfl, rfl, nofun, nofun⟩, by decide, by decide, by decide⟩

/-- R80, R100: DEV_ECHO has its final reply, ST_OK and the bytes. -/
theorem test_echo : after (exec (.devEcho (pkt 0x0003 [1, 2, 3, 4])) st0) (fun u => u.mp.replyQ.map fun r => (getLe r.bytes 4 2, r.bytes.drop 24)) =
    some [(0, [1, 2, 3, 4])] := by decide +kernel
/-- R76: a packet with a wrong CRC is counted, and an event sent, but no reply. -/
theorem test_bad_crc : after (exec (.devEcho { pkt 0x0003 [] with crc := 0 }) st0) (fun u => (u.mp.malformed, u.mp.slots.length, u.mp.replyQ.map (·.event))) =
    some (1, 0, [true]) := by decide +kernel

/-! ### Instructions of a core's units -/

/-- Bytes of a scratchpad or of device memory from `base` on, in canonical form. -/
def cells (base : Nat) (bs : List Byte) : List Host.Cell :=
  (List.range bs.length).filterMap fun i => if bs.getD i 0 = 0 then none else some (base + i, bs.getD i 0)

theorem witness_ScalarFloatForms : floatTable.length = 19 ∧ CanIssue st0 0 0 th0 ∧ InCode st0 0 (th0.pc + 4) := ⟨rfl, st0_issues, st0_code⟩
theorem witness_QueuedInstructionsEnter : CanIssue st0 0 0 th0 ∧ (getCore st0 0).matq.length < (if slotShares st0 0 then 8 else 16) ∧
    (stkOf st0 0).length < 8 ∧ InCode st0 0 (th0.pc + 4) := ⟨st0_issues, by decide, by decide, st0_code⟩
def stMatq : State := ready { core0 with matq := [⟨0, 0x0FFC, .mmul 0 false 64 64 0, none⟩] }
theorem witness_FencesAndStatus : CanIssue stMatq 0 0 th0 ∧ ((getCore stMatq 0).matq.any fun e => e.thr == 0) = true ∧
    ((getCore st0 0).matq.any fun e => e.thr == 0) = false ∧ InCode st0 0 (th0.pc + 4) := ⟨⟨by decide, rfl, rfl, .inl rfl⟩, by decide, by decide, st0_code⟩

theorem witness_FencesAndStatus_matrix : CanIssue stMatq 0 0 th0 ∧ (getCore stMatq 0).matq.length < (if slotShares stMatq 0 then 8 else 16) ∧
    (getCore stMatq 0).matq ≠ [] ∧ (getCore st0 0).matq = [] := ⟨⟨by decide, rfl, rfl, .inl rfl⟩, by decide, by decide, by decide⟩
/-- R169: MSTAT behind a product waits for its turn in the queue. -/
theorem test_mstat_waits : after (exec (.mstat ⟨0, 0, 0, 3, 0, 0, true, 0⟩) stMatq) (fun u => ((getCore u 0).matq.length, (getThread u 0 0).map (·.st))) =
    some (2, some (.blocked (.result .matrix))) := by decide

/-- R163: 1.0 + 2.0 = 3.0 in FP32, upper bits 0. -/
theorem test_fadd : after (exec (.fadd ⟨0, 0, 3, 1, 2, 0⟩) (ready { core0 with threads := [(0, { th0 with
    regs := ((Vector.replicate 32 0).set 1 0x3F800000).set 2 0x40000000 })] })) (fun u => (getThread u 0 0).map fun t => gReg t 3) =
    some (some 0x40400000) := by decide +kernel
/-- Table 06.2: MMUL enters the matrix queue with the values of gA, gB and gS. -/
theorem test_mmul : after (exec (.mmul ⟨0, 0, 3, 1, 1, 2, true, 0⟩) st0) (fun u => (getCore u 0).matq) =
    some [⟨0, 0x1000, .mmul 3 true 64 64 7, none⟩] := by decide

/-! ### Pins, resets and bring-up -/

def stRails : State := { st0 with bring := { rails := 0x1FFF } }
theorem witness_TestPortAndSideband : (∀ i ∈ [0, 1, 5], stRails.bring.rails.testBit i = true) ∧ st0.bring.rails.testBit 0 = false :=
  ⟨by decide, by decide⟩
theorem witness_ResetsAndTrips :
    (∃ p ∈ [(16, 0)], p.2 + 300000 ≤ ({ st0 with now := 300000 } : State).now) ∧ st0.therm.tripped = false ∧
    (∀ i, i < 7 + hubCount stRails → stRails.bring.rails.testBit i = true) ∧ 2 ≤ st0.dev.stage ∧ State.reset.dev.stage ≤ 1 ∧
    State.reset.dev.state = 0 ∧ EventRoom State.reset :=
  ⟨⟨_, List.mem_singleton.mpr rfl, by decide⟩, rfl, by decide, by decide, by decide, rfl, by decide, rfl⟩
/-- R520, R551: what a board programmer has written while RST_N was low is in the flash when the MP starts; once stage 1 has passed, no more. -/
theorem test_programmer :
    after (exec (.suppliesAndReset ⟨2 ^ 13 - 1, [(0x10000, [1, 2])]⟩) State.reset) (fun u => (u.fw.bootRec, u.dev.stage)) = some ([1, 2], 2) ∧
    after (exec (.suppliesAndReset ⟨2 ^ 13 - 1, [(0x10000, [1, 2])]⟩) { State.reset with bring := { flashOpen := false } })
      (fun u => u.fw.bootRec) = some [] := by decide +kernel
def stStage (n : Nat) : State := { State.reset with dev := { fuses := resetFuses, stage := n }, bxl := { state := 4 } }
theorem witness_BringUpStages2To6 : StageRuns (stStage 2) 2 ∧ StageRuns (stStage 6) 6 ∧ EventRoom (stStage 2) ∧ ¬ StageRuns (stStage 2) 3 ∧
    smGet? ([(392, 400)] : List (Nat × Int)) 392 = some 400 := ⟨⟨rfl, rfl, rfl⟩, ⟨rfl, rfl, rfl⟩, ⟨by decide, rfl⟩, fun h => absurd h.2.1 (by decide), rfl⟩
def stHold : State := { st0 with dev := { st0.dev with state := 1 } }
theorem witness_BringUpStages7And8 : StageRuns (stStage 7) 7 ∧ (stStage 7).bring.round = 0 ∧ EventRoom (stStage 7) ∧ StageRuns (stStage 8) 8 ∧
    TakesPackets stHold ∧ Passes stHold 0x0803 (pkt 0x0803 []) ∧ Passes stHold 0x0804 (pkt 0x0804 []) ∧ stHold.dev.state = 1 :=
  ⟨⟨rfl, rfl, rfl⟩, rfl, ⟨by decide, rfl⟩, ⟨rfl, rfl, rfl⟩, takes_of _ rfl rfl rfl, passes_of _ _ _ (by decide +kernel), passes_of _ _ _ (by decide +kernel), rfl⟩

/-- R553: the identification code. -/
theorem test_idcode : after (exec .idcode stRails) (fun u => (u.pin.jtag, u.pin.dr)) = some (.idcode, 0x25A4416F) := by decide
/-- R447, Table 17.4: a clock that does not lock halts stage 2 with cause 1. -/
theorem test_halt : after (exec (.clockAndMpBoot ⟨false, [], []⟩) (stStage 2)) (fun u => (u.bring.halted, u.dev.stage, u.rel.alert)) = some (1, 2, true) := by
  decide +kernel

/-! ### The thermal controller and the boot flash -/

/-- Sensor 16, in region 1, at 110 °C since 2 s, with 80 °C expected. -/
def stHot : State := { st0 with now := 6000000000, therm := { temp := [(16, 1680)], est := [(16, 1280)], diffSince := [(16, 0)], lowSince := some 0 } }
theorem witness_ThermalReadings : TablesForm stHot ∧ isHealthy stHot 16 = true ∧ suspectDue stHot 16 .disagree = true ∧ stHot.therm.tripped = false ∧
    0 + 3000000000 ≤ stHot.now := ⟨form_of _ rfl (by decide), by decide, by decide, rfl, by decide⟩
theorem witness_ThermalActions : TablesForm stHot ∧ 16 * throttleTemp 1 ≤ regionTemp stHot 1 ∧ regionSensors stHot 1 ≠ [] ∧ (getRegion stHot 1).step < 4 ∧
    (getRegion stHot 1).deepenAt = none ∧ stHot.therm.tripped = false :=
  ⟨form_of _ rfl (by decide), by decide +kernel, by decide +kernel, by decide, by decide, rfl⟩
theorem witness_FlashWritesWait : EventRoom { st0 with fw := { fusePending := true } } ∧ st0.therm.window ≠ some true ∧ st0.dev.state = 2 ∧
    st0.fw.waiting.testBit 1 = false ∧ st0.fw.queue = [] ∧ capOk st0 = true := ⟨⟨by decide, rfl⟩, by decide, rfl, by decide, by decide, by decide +kernel⟩

/-- R506: the region's step deepens by one. -/
theorem test_deepen : after (exec (.throttleDeepen 1) stHot) (fun u => (getRegion u 1).step) = some 1 := by decide +kernel

/-! ### The tick -/

def stTick : State := { st0 with now := 9000, mp := { inWindow := true }, tick := { running := true, curLen := 9000, tickOut := true } }
theorem witness_TickEvents : stTick.tick.running = true ∧ stTick.tick.acc.openedAt + stTick.tick.curLen ≤ stTick.now ∧ stTick.mp.inWindow = true ∧
    NothingWaits stTick ∧ marginStart stTick ≤ stTick.now ∧ st0.tick.running = false ∧ st0.dev.state = 2 :=
  ⟨rfl, by decide, rfl, ⟨rfl, nofun, nofun⟩, by decide +kernel, rfl, rfl⟩
/-- Task 3 has run 1,000 ck of its 100 + 50, on team 0, whose threads have ended. -/
def run3 : Task := { task3 with admitted := true, running := true, margin := 50 }
def stRun : State :=
  { stSlot .task with
    now := 2000
    tick := { running := true, tasks := [run3] }
    tower := { cores := (List.range 8).map fun c => (c, { prog := some ⟨1, 0, 0, 64, 3, 7, 0, 0⟩ }) } }
theorem witness_TaskEvents : stRun.tick.tasks.find? (fun k => k.tag == (7 : W32).toNat && k.running) = some run3 ∧ taskDone stRun run3 = true ∧
    Outstanding stRun (slot3 .task) ∧ run3.budget + run3.margin < countedCk stRun run3 ∧ granteeId stRun (.team 0) = some 0 ∧
    stTick.tick.quarantine.testBit 0 = false ∧ windowMarks { stTick with tick := { stTick.tick with count := 5, marks := [(0, [4, 3, 2, 1])] } } 0 = 4 :=
  ⟨by decide, by decide, ⟨by decide, by decide⟩, by decide, by decide, by decide, by decide +kernel⟩

/-- R38: TICK_OUT falls 10 us after the boundary. -/
theorem test_tick_out : after (exec .tickOutFall { stTick with now := 30000 }) (·.tick.tickOut) = some false := by decide
/-- R53: an overrun is counted once and marks its teams. -/
theorem test_overrun : after (exec (.tickOverrun 7) stRun) (fun u => (u.tick.overrunCnt, u.tick.tasks.map (·.overrun), smGet [] u.tick.marks 0)) =
    some (1, [true], [0]) := by decide +kernel

/-! ### The vector engine and the queued units -/

def ctx0 : VCtx := ⟨0, ((Vector.replicate 32 0).set 1 5).set 2 7, 1, Vector.replicate 4 0, 0, []⟩
def stVec : State := ready { core0 with ctxs := [ctx0] }
theorem witness_VectorInstructions : HasContext stVec 0 0 th0 ctx0 ∧ InCode stVec 0 (th0.pc + 4) ∧ vTy 2 1 = some (.int 32 false) ∧
    vOpOk .add (.int 32 false) = true ∧ ctx0.vl ≤ 4096 / 32 ∧ findCtx st0 0 0 = none ∧ (getCore st0 0).ctxs.length < (if slotShares st0 0 then 4 else 8) :=
  ⟨⟨⟨by decide, rfl, rfl, .inl rfl⟩, rfl⟩, ⟨_, rfl, by decide, by decide⟩, rfl, rfl, by decide, by decide, by decide⟩
theorem witness_VectorInstructions_memory : HasContext stVec 0 0 th0 ctx0 ∧ vAddrFault stVec 0 false false 4 [(0, 64)] = none ∧
    (threadReads 0 false [⟨false, 64, 4⟩] stVec).2.2 = none ∧ okay (unitWrites 0 [(⟨false, 64, 4⟩, leBytes 4 5)] stVec) = true :=
  ⟨⟨⟨by decide, rfl, rfl, .inl rfl⟩, rfl⟩, by decide +kernel, by decide +kernel, by decide +kernel⟩
/-- R197: 5 + 7 in element 0, the tail as before (R194). -/
theorem test_vadd : after (exec (.vadd ⟨0, 0, 3, 1, 2, 2, false, 1⟩) stVec) (fun u => ((getCore u 0).ctxs.map fun x => (vGet x 3 32 0, vGet x 3 32 1))) =
    some [(12, 0)] := by decide +kernel

/-- A matrix descriptor of the FP32 format in the scratchpad, with SCALE 1; a row of 64 bytes at 1024. -/
def matBytes : List Byte := leBytes 8 1024 ++ leBytes 4 64 ++ leBytes 4 0x3F800000 ++ zeroBytes 16
def stMat : State := { stMatq with mem := { spad := cells 64 matBytes ++ cells 1024 (leBytes 4 0x40000000) } }
/-- A conversion descriptor: the amax of one row of one FP32 element at 1024, at device address 0. -/
def convBytes : List Byte := leBytes 8 1024 ++ zeroBytes 8 ++ leBytes 4 64 ++ leBytes 4 0 ++ leBytes 4 1 ++ leBytes 4 1 ++ zeroBytes 32
def stConv : State := { ready { core0 with convq := [⟨0, 0x0FFC, (.camax, 64), none⟩] } with mem := { spad := cells 64 convBytes } }
theorem witness_UnitExecutions : slotServed stMat 0 = true ∧ (getCore stMat 0).matq = [⟨0, 0x0FFC, .mmul 0 false 64 64 0, none⟩] ∧
    (readMatDesc stMat 0 64 false).isSome = true ∧
    mmulFault stMat 0 64 64 (readMatDesc stMat 0 64 false) (readMatDesc stMat 0 64 false) 1 1 1 = none ∧ TablesForm stMat ∧
    (getCore stConv 0).convq = [⟨0, 0x0FFC, (.camax, 64), none⟩] ∧ convFault stConv 0 64 .camax (convDesc (spadRead stConv 0 64 64)) = none ∧
    rowNext st0 0 = none ∧ rowNext (ready { core0 with rowq := [⟨0, 0, 64, none⟩] }) 0 = some 0 :=
  ⟨by decide, by decide, by decide +kernel, by decide +kernel, form_of _ rfl (by decide), by decide, by decide +kernel, by decide, by decide⟩
/-- R170: a product runs beside the drain of another accumulator that is at the head; not beside that of its own. -/
def stOver (a : Nat) : State :=
  { ready { core0 with matq := [⟨0, 0x0FF8, .mdrain a 64 0, none⟩, ⟨0, 0x0FFC, .mmul 0 false 64 64 0, none⟩] } with mem := stMat.mem }
theorem witness_UnitExecutions_overlap : slotServed (stOver 1) 0 = true ∧ opAcc (.mdrain 1 64 0) = some (false, 1) ∧ TablesForm (stOver 1) ∧
    (getCore (stOver 1) 0).matq = [⟨0, 0x0FF8, .mdrain 1 64 0, none⟩] ++ ⟨0, 0x0FFC, .mmul 0 false 64 64 0, none⟩ :: [] ∧
    mmulFault (stOver 1) 0 64 64 (readMatDesc (stOver 1) 0 64 false) (readMatDesc (stOver 1) 0 64 false) 1 1 1 = none :=
  ⟨by decide, by decide, form_of _ rfl (by decide), by decide, by decide +kernel⟩
theorem test_overlap : after (exec (.mmulExecute 0) (stOver 1)) (fun u => (getCore u 0).matq.length) = some 1 ∧
    after (exec (.mmulExecute 0) (stOver 0)) (fun u => (getCore u 0).matq.length) = some 2 := by decide +kernel
/-- A row descriptor: RMS, forward, of one row of one FP32 element at 1024 to 2048, PARAM 2^-20. -/
def rowBytes0 : List Byte :=
  leBytes 8 1024 ++ leBytes 8 2048 ++ zeroBytes 32 ++ leBytes 4 64 ++ leBytes 4 0 ++ leBytes 4 0x35800000 ++ leBytes 4 0 ++ leBytes 4 1 ++ leBytes 2 0 ++
  [4, 0, 0, 0] ++ zeroBytes 22
def stRow : State := { ready { core0 with rowq := [⟨0, 0x0FFC, 64, none⟩] } with mem := { spad := cells 64 rowBytes0 } }
theorem witness_UnitExecutions_row : rowNext stRow 0 = some 0 ∧ (∀ j, j < 8 → (getCore stRow (0 * 8 + j)).rowBusy = false) ∧
    rowDescFault stRow 0 64 (rowDesc (spadRead stRow 0 64 96)) = none ∧ (rowDesc (spadRead stRow 0 64 96)).op = 4 ∧ TablesForm stRow ∧
    (∃ k, k < 8 ∧ (getCore (ready { core0 with rowBusy := true }) (0 * 8 + k)).rowBusy = true) ∧
    (getCore (ready { core0 with convBusy := true }) 0).convBusy = true :=
  ⟨by decide, by decide, by decide +kernel, by decide, form_of _ rfl (by decide), ⟨0, by decide, by decide⟩, by decide⟩
/-- CCVT of one FP32 element at 1024 to format 5, and CDEC of format 5 to FP32, at 2048. -/
def convBytes2 (sf df : Byte) : List Byte :=
  leBytes 8 1024 ++ leBytes 8 2048 ++ leBytes 4 64 ++ leBytes 4 64 ++ leBytes 4 1 ++ leBytes 4 1 ++ zeroBytes 16 ++ leBytes 4 0 ++ [sf, df, 5, 0] ++ zeroBytes 8
def stConv2 (op : ConvOp) (sf df : Byte) : State :=
  { ready { core0 with convq := [⟨0, 0x0FFC, (op, 64), none⟩] } with mem := { spad := cells 64 (convBytes2 sf df) } }
theorem witness_UnitExecutions_conv :
    convFault (stConv2 .ccvt 0 5) 0 64 .ccvt (convDesc (spadRead (stConv2 .ccvt 0 5) 0 64 64)) = none ∧
    convFault (stConv2 .cdec 5 0) 0 64 .cdec (convDesc (spadRead (stConv2 .cdec 5 0) 0 64 64)) = none ∧ TablesForm (stConv2 .ccvt 0 5) ∧
    TablesForm (stConv2 .cdec 5 0) := ⟨by decide +kernel, by decide +kernel, form_of _ rfl (by decide), form_of _ rfl (by decide)⟩
/-- R174: one product, 2.0 × 2.0. -/
theorem test_product : after (exec (.mmulExecute 0) stMat) (fun u => (accAt (getCore u 0) 0 0 0, (getCore u 0).matq)) = some (0x40800000, []) := by
  decide +kernel

/-- A mark waits at the head of team 0's stack queue; and a push whose descriptor is at 64. -/
def stStk (op : StkOp) : State := { st0 with tower := { st0.tower with teams := [(0, { stkq := [(0, ⟨0, 0x0FFC, op, none⟩)] })] } }
def stSend : State := ready { core0 with packq := [⟨0, 0x0FFC, 64, none⟩] }
def nwBytes : List Byte := zeroBytes 16 ++ leBytes 4 64 ++ leBytes 4 5 ++ zeroBytes 40
def stNw : State := { stEth conn5 with mem := { spad := cells 64 nwBytes } }
theorem witness_StackSendAndWrite : stkOf (stStk (.mark 1 2)) 0 = [(0, ⟨0, 0x0FFC, .mark 1 2, none⟩)] ∧ slotServed (stStk (.mark 1 2)) 0 = true ∧
    stkFault (stStk (.mark 1 2)) 0 (.mark 1 2) = none ∧ stkMustWait (stStk (.mark 1 2)) 0 (.mark 1 2) = false ∧ TablesForm (stStk (.mark 1 2)) ∧
    stkFault (stStk (.pop 64)) 0 (.pop 64) ≠ none ∧ (getCore stSend 0).packq = [⟨0, 0x0FFC, 64, none⟩] ∧ (getNode stSend 0).suppress.psends = 0 ∧
    CanIssue stNw 0 0 th0 ∧ nwDescOk (nwDesc (spadRead stNw 0 64 64)) (scratchLen stNw 0) = true ∧ findConn stNw 5 = some conn5 :=
  ⟨by decide, by decide, by decide +kernel, by decide +kernel, form_of _ rfl (by decide), by decide +kernel, by decide, by decide,
   ⟨by decide, rfl, rfl, .inl rfl⟩, by decide, by decide⟩
/-- A mark that waits for its spill; and a team with 192 bytes on its stack, all near. -/
def stStkWait : State :=
  { st0 with tower := { st0.tower with teams := [(0, { stkq := [(0, ⟨0, 0x0FFC, .mark 1 2, none⟩)], waiting := true })] } }
def stNear : State := { st0 with tower := { st0.tower with teams := [(0, { frames := [.mark 1 2, .data 3 (List.replicate 64 7)], used := 192, near := 192 })] } }
theorem witness_StackSendAndWrite_waits : (getTeam stStkWait 0).waiting = true ∧ (getTeam stStkWait 0).stkq = (0, ⟨0, 0x0FFC, .mark 1 2, none⟩) :: [] ∧
    TablesForm stStkWait ∧ 64 < (getTeam stNear 0).near ∧ TablesForm stNear ∧ (getTeam st0 0).waiting = false ∧
    0 < (getNode { st0 with tower := { st0.tower with slots := [(0, { suppress := { stackOps := 1 } })] } } 0).suppress.stackOps :=
  ⟨by decide, by decide, form_of _ rfl (by decide), by decide +kernel, form_of _ rfl (by decide), by decide, by decide⟩
/-- A mark on a stack whose near share has an uncorrectable word under it, and the AUNMARK that would take it. -/
def stStkBad : State :=
  { st0 with mem := { badNm := [nearPlace st0 0 / 32 + 1] }
             tower := { st0.tower with teams := [(0, { frames := [.mark 2 9], used := 64, near := 64, stkq := [(0, ⟨0, 0x0FFC, .unmark 1 2, none⟩)] })] } }
theorem witness_StackSendAndWrite_bad : stkOf stStkBad 0 = [(0, ⟨0, 0x0FFC, .unmark 1 2, none⟩)] ∧ slotServed stStkBad 0 = true ∧
    stkFault stStkBad 0 (.unmark 1 2) = none ∧ stkMustWait stStkBad 0 (.unmark 1 2) = false ∧
    nearBad stStkBad 0 (stkReads (getTeam stStkBad 0) (.unmark 1 2)).1 (stkReads (getTeam stStkBad 0) (.unmark 1 2)).2 = some (nearPlace st0 0 + 32) ∧
    TablesForm stStkBad :=
  ⟨by decide, by decide, by decide +kernel, by decide +kernel, by decide +kernel, form_of _ rfl (by decide)⟩
/-- R305, R328: the instruction fails, the error is counted, and the frame stays. -/
theorem test_stack_bad : after (exec (.stackApply 0) stStkBad) (fun u => ((getTeam u 0).frames, (getTeam u 0).stkq, u.mem.cnt.nmUe)) =
    some ([.mark 2 9], [], 1) := by decide +kernel
/-- R325, R326: a mark is a frame of 64 bytes. -/
theorem test_mark : after (exec (.stackApply 0) (stStk (.mark 1 2))) (fun u => ((getTeam u 0).frames, (getTeam u 0).used, (getTeam u 0).stkq)) =
    some ([.mark 1 2], 64, []) := by decide +kernel

/-! ### Reliability, packs, ports and the link -/

theorem witness_FaultsAndRepairs : TablesForm st0 ∧ EventRoom st0 ∧ st0.dev.state = 2 ∧ (getRel st0 0).lost = false ∧ (getRel st0 0).lostDue = none ∧
    (getNode st0 0).mode = 0 ∧ (getRel st0 0).degradeDue = none ∧ (getRel st0 0).onSpare = none ∧ hubFitted st0 0 = true ∧ 0 < 192 / hubCount st0 ∧
    Memory.wf st0.mem = true ∧ regionOf st0 0 = some (.stack 0) ∧ ({ st0 with rel := { st0.rel with heldFaults := [] } } : State).rel.scans = [] :=
  ⟨st0_form, st0_room, rfl, rfl, rfl, rfl, rfl, rfl, by decide, by decide, by decide, by decide, rfl⟩
/-- Two reports on their way, written at 0 and at 12 units; a scan slot in an open margin. -/
def stNans : State := { st0 with tower := { st0.tower with nans := [⟨false, 0, 0, 0, []⟩, ⟨false, 8, 1, 12, []⟩] } }
def stScan : State := { stTick with tick := { stTick.tick with inMargin := true } }
theorem witness_FaultsAndRepairs_order : stNans.tower.nans[1]? = some ⟨false, 8, 1, 12, []⟩ ∧ (∃ j ∈ stNans.tower.nans, nanBefore j ⟨false, 8, 1, 12, []⟩ = true) ∧
    (∀ j ∈ stNans.tower.nans, nanBefore j ⟨false, 0, 0, 0, []⟩ = false) ∧ logicalOf stScan 0 3 = some 3 ∧ marginBusy stScan 3 = false ∧
    stScan.tick.running = true ∧ stScan.tick.inMargin = true ∧ TablesForm stScan := by
  refine ⟨by decide, by decide, by decide, by decide +kernel, by decide, rfl, rfl, form_of _ rfl (by decide)⟩
/-- R271: the later of two reports waits for the earlier one. -/
theorem test_nan_order : after (exec (.nanReport 1) stNans) (·.tower.nans.length) = some 2 ∧ after (exec (.nanReport 0) stNans) (·.tower.nans.length) = some 1 := by
  decide +kernel
/-- R473: the spare takes the slot. -/
theorem test_core_fault : after (exec (.coreFault 2 .check true) st0) (fun u => ((getRel u 0).onSpare, (getRel u 0).fenced, u.rel.substCnt)) =
    some (some 2, 4, 1) := by decide +kernel

/-- Pack 3 with step 0 fenced. -/
def packF : Pack := { pack3 with lastFenced := some 0, steps := [{ step := 0, fence := some 0 }] }
/-- A VOTE of pack 3, member 0, step 0, with its CRC (Tables 15.6, 15.7a). -/
def voteBytes : List Byte :=
  let b := beBytes 1 1 ++ beBytes 1 7 ++ beBytes 2 4 ++ beBytes 4 3 ++ zeroBytes 24 ++ [1, 0, 0, 0]
  b ++ beBytes 4 (crc32c b)
def voteRx : PackRx := { frame0 23108 with bytes := voteBytes }
def stVote : State := { stPack packF with cfg := cfgIp, eth := { ports := [(0, { state := 2 })] } }
theorem witness_StepAndPackEvents : findPack stVote 3 = some packF ∧ (fencedStep packF).isSome = true ∧ portUp stVote 0 0 = true ∧
    packFormOk voteBytes = true ∧ PackArrives stVote voteRx 7 packF (packHdr voteBytes) ∧
    ({ stVote with step := { stVote.step with snapshot := some ⟨3, 0, false, []⟩ } } : State).step.snapshot = some ⟨3, 0, false, []⟩ ∧ evalRunning stVote = false :=
  ⟨by decide, by decide, by decide +kernel, by decide +kernel,
   ⟨by decide +kernel, by decide +kernel, rfl, by decide +kernel, by decide +kernel, by decide +kernel⟩, rfl, rfl⟩
/-- An update of tensor 7 runs, its two rows in; hyperparameters all 0, so in row mode (R379), or with CLIP 1.0 held. -/
def upd7 (clip : Nat) : Update :=
  { tensor := 7, shadow := some 4096, phase := .running, hyper := zeroBytes 40 ++ leBytes 4 clip ++ zeroBytes 84, bitmap := [], strict := false, footprint := 0 }
def rows7 : TensorStep := { tensor := 7, reduced := [(0, [1, 2, 3, 4]), (1, [5, 6, 7, 8])], partials := [{ member := 0, last := true }] }
def packU (clip : Nat) : Pack := { pack3 with steps := [{ step := 0, updates := [upd7 clip], tensors := [rows7] }] }
theorem witness_StepAndPackEvents_update :
    (∀ c ∈ [0, 0x3F800000], runningOf (stPack (packU c)) 7 = some (packU c, ((packU c).steps.getD 0 { step := 0 }), upd7 c) ∧
      canFinish (packU c) tensor7 (upd7 c) (((packU c).steps.getD 0 { step := 0 }).tensors.getD 0 { tensor := 7 }) = true) ∧
    heldMode tensor7 (hyperOf (upd7 0).hyper) = false ∧ heldMode tensor7 (hyperOf (upd7 0x3F800000).hyper) = true ∧
    hubFitted (stPack (packU 0)) tensor7.hub = true ∧ overdueStep { stVote with now := 10 ^ 12 } packF ≠ none := by decide +kernel
/-- R425: a message over a pack that is not there is refused, unless it is an ACK; a wrong CRC is counted. -/
theorem test_pack_crc : after (exec (.vote { voteRx with bytes := voteBytes.take 36 ++ [0, 0, 0, 0] }) stVote) (fun u => (getHubEth u 0).malformed) =
    some 1 := by decide +kernel

theorem ack_arrives : RoceArrives (stEth conn5) roce0 conn5 := ⟨by decide, by decide +kernel, rfl, rfl⟩
theorem witness_RocePackets : RoceArrives (stEth conn5) roce0 conn5 ∧ findConn (stEth conn5) 6 = none ∧ conn5.hub = 0 ∧ conn5.flights = [] ∧
    sgn 24 (roce0.psn + 2 ^ 24 - conn5.recvPsn % 2 ^ 24) = 10 ∧ sgn 24 (5 + 2 ^ 24 - conn5.recvPsn % 2 ^ 24) < 0 :=
  ⟨ack_arrives, by decide, rfl, rfl, by decide, by decide⟩
/-- A connection with a transfer in flight that has waited a millisecond, the eighth time; and one at half rate since 50 us. -/
def conn5f : RcConn := { conn5 with flights := [⟨0, 20, 20, []⟩], retries := 7, rate := 2 ^ 31 }
theorem witness_RocePackets_timers : findConn (stEth conn5f) 5 = some conn5f ∧ conn5f.since + 3000000 ≤ ({ stEth conn5f with now := 3000000 } : State).now ∧
    conn5f.rate < 2 ^ 32 ∧ conn5f.rateAt + 150000 ≤ 3000000 ∧
    conn5f.flights.takeWhile (fun f => decide (0 ≤ sgn 24 (roce0.psn + 2 ^ 24 - f.lastPsn % 2 ^ 24))) = conn5f.flights := by decide
theorem witness_PortEvents : TablesForm (stEth conn5) ∧ portUp (stEth conn5) 0 0 = true ∧ portUp (stEth conn5) 0 1 = false ∧
    (frame0 0).dst = portIp (stEth conn5) 0 0 false ∧ (frame0 0).dst ≠ portIp (stEth conn5) 0 0 true ∧ eventCount (stEth conn5) + 1 < 1024 ∧
    (stEth conn5).mp.dropRun = 0 ∧ (getPort (stEth conn5) 0).txHeld = [] ∧ frameOurs (stEth conn5) (frame0 4791) = true ∧
    frameOurs (stEth conn5) (frame0 7) = false ∧ portMapped (stEth conn5) 0 0 = true :=
  ⟨form_of _ rfl (by decide), by decide +kernel, by decide +kernel, by decide +kernel, by decide +kernel, by decide, rfl, by decide, by decide +kernel,
   by decide +kernel, by decide +kernel⟩
/-- Port 0 has trained since 500 ms, and its priority 3 has been paused for 200 ms. -/
def stPaused : State :=
  { st0 with now := 1500000000, eth := { ports := [(0, { state := 1, pausedSince := [(3, 0)], pausedTill := [(3, 1500000001)] })] } }
theorem witness_PortEvents_timers : (getPort stPaused 0).state = 1 ∧ portMapped stPaused 0 0 = true ∧ (getPort stPaused 0).trainAt + 1500000000 ≤ stPaused.now ∧
    (∃ t till, smGet? (getPort stPaused 0).pausedSince 3 = some t ∧ smGet? (getPort stPaused 0).pausedTill 3 = some till ∧ t + 600000000 ≤ stPaused.now ∧
      stPaused.now < till) := ⟨by decide, by decide +kernel, by decide, 0, 1500000001, by decide, by decide, by decide, by decide⟩
/-- R404: 100 codewords in 10 ms do not take the port down, 101 do. -/
theorem test_codewords : after (exec (.linkDown 0 0 (.codewords 100)) (stEth conn5)) (fun u => (getPort u 0).state) = some 2 ∧
    after (exec (.linkDown 0 0 (.codewords 101)) (stEth conn5)) (fun u => (getPort u 0).state) = some 1 := by decide +kernel
def stLink (n : Nat) (phase : Bool) : State := { st0 with now := 600000000, bxl := { state := n, initPhase := phase } }
theorem witness_HostLinkEvents : st0.bxl.state = 4 ∧ flitOpen [] = none ∧ (stLink 4 false).bxl.ackSince + 3000 ≤ (stLink 4 false).now ∧
    ((stLink 5 true).bxl.state = 5 ∧ (stLink 5 true).bxl.initPhase = true ∧ (stLink 5 true).bxl.lastInit + 3000 ≤ (stLink 5 true).now) ∧
    (stLink 2 false).bxl.stateSince + 600000000 ≤ (stLink 2 false).now ∧ (stLink 1 false).bxl.lastTrain = 0 ∧
    ((if (15 : BitVec 4) = 15 then 4 else 0) : Nat) ≠ 0 ∧ openPkt st0 0 = none := by decide
/-- A port with PTP enabled (Table 15.11) hears an Announce of domain 0 on 224.0.1.129. -/
def stPtp : State := { stEth conn5 with cfg := { active := [(baseEth + 8, 0xFFFF00010000)] } }
def announce : PtpMsg := { frame0 320 with head := head0 0x01005E000181 0xE0000181 320, domain := 0, master := master0, kind := .announce }
theorem witness_TickEvents_ptp : frameEnds stPtp announce.toNetFrame = none ∧ portPtp stPtp 0 0 = true ∧ hubEthF stPtp 0 26 8 = 0 := by decide +kernel
/-- R410: the first master heard is chosen. -/
theorem test_announce : after (exec (.ptpMessage announce) stPtp) (·.eth.ptp) = some (some ⟨0, master0, st0.now⟩) := by decide +kernel
theorem witness_RocePackets_read : rcDenied (stEth conn5) conn5 false { roce0 with len := 8 } = false ∧
    sgn 24 (({ roce0 with psn := 10 } : RocePkt).psn + 2 ^ 24 - conn5.recvPsn % 2 ^ 24) = 0 ∧ frameEnds (stEth conn5) { frame0 4791 with size := 63 } ≠ none := by
  decide +kernel
/-- R411: a CNP halves the rate. -/
theorem test_cnp : after (exec (.cnpReceived roce0) (stEth conn5)) (fun u => (findConn u 5).map (·.rate)) = some (some 2147483648) := by decide +kernel
/-- R435: a flit that cannot be opened is counted. -/
theorem test_bad_flit : after (exec (.idleFlit []) st0) (fun u => (u.bxl.badFlit, u.bxl.nakSent)) = some (1, true) := by decide +kernel

/-! ### Further cases: each clause of a statement with several of them has its hypotheses met -/

/-- Cores 0 and 1 share a core, both with a READY thread, and core 0's line of instructions is in its buffer; team 3 is paced. -/
def coreBuf : CoreSt := { core0 with ibuf := [(8, leBytes 4 0b000000_00011_00001_00010_00000000000)] }
def stShare : State := { ready coreBuf with
  tower := { cores := [(0, coreBuf), (1, core0)] }
  rel := { teams := [(0, { shared := some (0, 1) })] }
  tick := { pacedTeams := [3] } }
theorem witness_EmptyQueueIdles_issue : IssuesFirst (ready coreBuf) 0 0 th0 ∧ th0.stop = false ∧ (getCore (ready coreBuf) 0).prog ≠ none ∧
    (∀ k, k ≠ 0 → (getCore (ready coreBuf) k).prog = none) ∧ (coreBuf.ibuf.find? fun x => x.1 == th0.pc / 512).isSome = true ∧ TablesForm (ready coreBuf) := by
  refine ⟨⟨by decide, rfl, ?_⟩, rfl, by decide, ?_, by decide, form_of _ rfl (by decide)⟩
  · intro x o h _
    rcases Nat.eq_zero_or_pos x with rfl | hx
    · decide
    · have : getThread (ready coreBuf) 0 x = none := by simp [getThread, getCore, ready, coreBuf, core0, smGet, smGet?, Nat.ne_of_lt hx]
      rw [this] at h
      cases h
  · intro k hk
    simp [getCore, ready, smGet, smGet?, Ne.symm hk]
theorem witness_EmptyQueueIdles_share : (getRel stShare 0).shared = some (0, 1) ∧ 0 ∉ stShare.tick.pacedTeams ∧ slotReady stShare 0 = true ∧
    slotReady stShare 1 = true ∧ slotReady (ready core0) 1 = false ∧ 24 / 8 ∈ stShare.tick.pacedTeams ∧ (getNode stShare 0).mode = 0 := by decide
/-- R139: of the two, one owns this ck. -/
theorem test_share : ownsCk stShare 0 = !ownsCk stShare 1 := by decide

/-- Thread 0 at the last instruction of its program. -/
def stLast : State := ready { core0 with threads := [(0, { th0 with pc := 0x1FFC })] }
theorem witness_BranchesAndJumps_end : CanIssue stLast 0 0 { th0 with pc := 0x1FFC } ∧
    (∃ p, (getCore stLast 0).prog = some p ∧ ¬ (p.codeLo ≤ 0x1FFC + 4 ∧ 0x1FFC + 4 < p.codeHi) ∧
      ¬ (p.codeLo ≤ (BitVec.ofNat 64 0x1FFC + (1 : BitVec 26).signExtend 64 * 4).toNat ∧
        (BitVec.ofNat 64 0x1FFC + (1 : BitVec 26).signExtend 64 * 4).toNat < p.codeHi)) ∧
    ¬ (0x1000 ≤ ((64#64 + (0 : W16).signExtend 64) &&& ~~~3).toNat) := ⟨⟨by decide, rfl, rfl, .inl rfl⟩, ⟨_, rfl, by decide, by decide⟩, by decide⟩
/-- R162: an ADD there is done, and its thread stops. -/
theorem test_fall_through : after (exec (.add ⟨0, 0, 3, 1, 2, 0⟩) stLast) (fun u => (getThread u 0 0).map fun t => (t.st, gReg t 3)) =
    some (some (.ended, 71)) := by decide

/-- Memory that is uncorrectable at 64, with nothing to rebuild it from, and at the first word of near memory. -/
def stBad : State := { st0 with mem := { bad := [1], badNm := [nearBase / 32] } }
def fails {α β : Type} (r : State × Except α β) : Bool := !okay r
theorem witness_LoadStoreFaults_error : CanIssue stBad 0 0 th0 ∧ unmappedAt stBad 64 8 = none ∧ fails (coreRead stBad 0 64 8) = true ∧
    unmappedAt stBad nearBase 4 = none ∧ protectedAt stBad nearBase 4 = none ∧ fails (coreWrite stBad 0 nearBase (leBytes 4 7)) = true :=
  ⟨⟨by decide, rfl, rfl, .inl rfl⟩, by decide, by decide +kernel, by decide +kernel, by decide +kernel, by decide +kernel⟩

/-- A stream that signals at its end, with and without a SIGNAL of its team before it; one with a forced status in a slot that is being restored. -/
def stStreamSig (ms : List SignalMsg) : State :=
  { st0 with tower := { st0.tower with signals := ms, streams := [(0, { run := some (.move { move0 with flags := 1, syncId := 9, signalN := 2 }) })] } }
def stStreamOff : State := { st0 with tower := { st0.tower with
  streams := [(0, { run := some (.move move0), forced := some 0x0305 })]
  slots := [(0, { mode := 1 })] } }
theorem witness_StreamsPostOneCompletion_signal : (∀ m ∈ (stStreamSig []).tower.signals, m.src / 8 ≠ 0 ∨ m.obj / 256 ≠ 9 / 256) ∧
    (∃ m ∈ (stStreamSig [⟨3, 7, 1⟩]).tower.signals, m.src / 8 = 0 ∧ m.obj / 256 = 9 / 256) ∧ TablesForm (stStreamSig [⟨3, 7, 1⟩]) ∧
    (getNode stStreamOff 0).mode = 1 ∧ (getStream stStreamOff 0).forced = some 0x0305 ∧ (getStream stStreamOff 0).run = some (.move move0) :=
  ⟨nofun, ⟨_, List.mem_singleton.mpr rfl, by decide, by decide⟩, form_of _ rfl (by decide), by decide, by decide, by decide⟩
/-- R140: the completion's SIGNAL follows one that its team has sent before. -/
theorem test_stream_signal : after (exec (.streamCompletion 0) (stStreamSig [⟨3, 7, 1⟩])) (fun u => u.tower.signals.length) = some 2 := by decide +kernel

/-- The last bytes of a MEM_WRITE; a write whose unit cannot be rebuilt; a chunk that gathers its bytes. -/
theorem witness_MemoryCommandsFinish_more : 128 - 0 - ([] : List Byte).length = 128 ∧ (0 + (List.replicate 128 (1 : Byte)).length = 128) ∧
    fails (memWrite { stWrite with mem := stBad.mem } nearBase (List.replicate 4 1)) = true ∧
    fails (memRead { stSlot (.memRead 64 4) 0x0201 with mem := stBad.mem } 64 4) = true ∧
    (stSlot (.fwChunk 0 1 7 (some [])) 0x0601).mp.slots.find? (fun x => x.tag == (7 : W32).toNat && (x.opcode == 0x0202 || x.opcode == 0x0601) &&
      x.work != .done) = some (slot3 (.fwChunk 0 1 7 (some [])) 0x0601) ∧
    movesMem (slot3 (.memRead 64 4) 0x0201) = true := by decide +kernel

theorem witness_TestPortAndSideband_more : ({ stRails with pin := { stRails.pin with trstLow := true } } : State).pin.trstLow = true ∧
    stRails.pin.auxSince + 3000000 ≤ ({ stRails with now := 3000000 } : State).now ∧ stRails.pin.side.length = 16 ∧ stRails.now < stRails.pin.auxSince + 3000000 := by
  decide
/-- R553: while TRST_N is low no instruction is taken. -/
theorem test_trst : after (exec .bypass { stRails with pin := { stRails.pin with trstLow := true } }) (fun u => u.pin.jtag) = some .idcode := by decide
theorem witness_ResetsAndTrips_more : ∃ s : State, s.therm.tripped = true ∧ s.therm.coldSince = some 0 ∧ 0 + 3000000000 ≤ s.now ∧ s.bring.rstLow = false ∧
    s.bring.flashOpen = false ∧ (∀ i, i < 7 + hubCount s → s.bring.rails.testBit i = true) ∧ (∃ q ∈ flashMap, q.2.1 ≤ 0x10000 ∧ 0x10000 + 2 ≤ q.2.1 + q.2.2) ∧
    (∀ q ∈ flashMap, 0x7C00000 + 2 ≤ q.2.1 ∨ q.2.1 + q.2.2 ≤ 0x7C00000) :=
  ⟨{ stRails with now := 3000000000, therm := { tripped := true, coldSince := some 0 }, bring := { rails := 0x1FFF, flashOpen := false } }, rfl, rfl, by decide, rfl,
   rfl, by decide, ⟨_, by simp [flashMap]; exact .inr (.inr (.inl rfl)), by decide, by decide⟩, by decide⟩

/-- Neither bank holds an image: the boot chooses none. With one of them held to be good (R522 asks for a signature), and armed, it would copy or wait. -/
theorem witness_BringUpStages2To6_boot : imgCheck (stStage 2) (bankImage (stStage 2) 0) ≠ 0 ∧ imgCheck (stStage 2) (bankImage (stStage 2) 1) ≠ 0 ∧
    (stStage 2).fw.copyBusy = false ∧ (stStage 2).fw.armed = false ∧
    ({ stStage 2 with fw := { copyBusy := true } } : State).therm.window ≠ some true ∧ StageRuns (stStage 4) 4 ∧ StageRuns (stStage 5) 5 ∧
    (∃ t, smGet? ([(392, 400)] : List (Nat × Int)) 392 = some t ∧ 320 ≤ t ∧ t ≤ 640) ∧
    (0 = (stStage 6).bring.released ∧ (stStage 6).bring.waveAt + 3000 * (240 * (0 / 594) + 20 * (0 % 594 / 54) + 0 % 54 / 6) ≤ (stStage 6).now) := by
  refine ⟨by decide +kernel, by decide +kernel, rfl, rfl, by decide, ⟨rfl, rfl, rfl⟩, ⟨rfl, rfl, rfl⟩, ⟨400, rfl, by decide, by decide⟩, rfl, by decide⟩
theorem witness_BringUpStages7And8_down : ∃ s : State, s.dev.state = 3 ∧ (powerDown s).bring.released = 0 ∧
    s.mp.slots.filter (fun x => x.work == .abandon) = [slot3 .abandon 0x0804] ∧ findSlot s 3 = some (slot3 .abandon 0x0804) :=
  ⟨{ stSlot .abandon 0x0804 with dev := { fuses := resetFuses, state := 3 } }, rfl, by decide +kernel, by decide, by decide⟩

/-- A chunk of 4,096 zero bytes that waits, in an open window; and an empty receive ring. -/
def zeroChunk : Work := .fwChunk 0 1 (crc32c (zeroBytes 4096)) (some (zeroBytes 4096))
def stChunk : State := { stSlot zeroChunk 0x0601 with therm := { window := some true }, fw := { queue := [.cmd 3] } }
theorem witness_FlashWritesWait_chunk : stChunk.fw.queue = [.cmd (slot3 zeroChunk 0x0601).sid] ∧ findSlot stChunk 3 = some (slot3 zeroChunk 0x0601) ∧
    stChunk.fw.bitmap = [] ∧ stChunk.fw.copyBusy = false ∧ capOk stChunk = true ∧ stChunk.therm.window = some true :=
  ⟨rfl, by rfl, rfl, rfl, by decide +kernel, rfl⟩
def stRing : State := { st0 with cfg := { active := [(0x7F0000070010, 4096), (0x7F0000070018, 16)] }, fw := { queue := [] } }

theorem witness_TickEvents_more : stTick.tick.running = true ∧
    ({ stTick with tick := { stTick.tick with srcRef := some (0, 0), everLocked := true }, now := 6000000000 } : State).tick.syncState ≠ 2 ∧
    (∃ w : WindowAcc, ({ stTick with tick := { stTick.tick with winDone := some { breach := 1 } } } : State).tick.winDone = some w ∧ w.breach + w.short ≠ 0) ∧
    stTick.tick.running = true ∧ marginStart stTick ≤ stTick.now := by
  refine ⟨rfl, by decide, ⟨_, rfl, by decide⟩, rfl, by decide +kernel⟩
/-- R410: a better master displaces the one chosen; one that has been silent for 6 s holds the choice no more. -/
theorem witness_TickEvents_masters : ptpBetter { master0 with priority1 := 1 } master0 = true ∧ ptpBetter master0 master0 = false ∧
    0 + 18000000000 ≤ ({ stPtp with now := 18000000000 } : State).now := by decide

/-- The boundary that ends tick 0, with a commit that waits; a task that waits for admission; 10 W of demand for two idle teams. -/
def stCommit : State := { stSlot (.commit none) 0x0103 with
  now := 3000000
  mp := { slots := [slot3 (.commit none) 0x0103], nextSid := 4, commit := some (3, none) }
  tick := { running := true, curLen := 3000000 } }
theorem witness_TickBoundaryWork : stCommit.tick.running = true ∧ stCommit.tick.acc.openedAt + stCommit.tick.curLen ≤ stCommit.now ∧
    Outstanding stCommit (slot3 (.commit none) 0x0103) ∧ stCommit.mp.commit = some ((slot3 (.commit none) 0x0103).sid, none) ∧ agreeFail stCommit = none ∧
    governedIdle stCommit = true ∧ cfgSource stCommit = 0 ∧ tickReached stCommit 5 = false ∧ (cfgTickLog stCommit).1 = 0 ∧ TablesForm stCommit :=
  ⟨rfl, by decide, ⟨by decide, by decide⟩, rfl, by decide +kernel, by decide +kernel, by decide, by decide, by decide, form_of _ rfl (by decide)⟩
/-- R92: a commit whose 64th boundary has passed is refused, and its command answered. -/
theorem test_commit : (commitStep { stCommit with mp := { stCommit.mp with commit := some (3, some 64), commitExpired := true } }).mp.replyQ.map
    (fun r => getLe r.bytes 4 2) = [0x0203] := by decide +kernel
theorem witness_TickBoundaryWork_admission : Outstanding stTask (slot3 .task) ∧ (slot3 .task).sid = task3.sid ∧
    (∀ t, t < 256 → task3.teams.testBit t = true → stTask.tick.quarantine.testBit t = false) ∧ task3.budget ≤ usableInterval stTask ∧
    sliceBroken stTask task3.teams task3.phase = false ∧ boundaryRefusal stTask task3 = none ∧ mustWait stTask task3 = false ∧
    footprintLack stTask task3 = none ∧ mustWait { stTask with tick := { stTask.tick with tasks := [{ task3 with tnb := some 5 }] } } { task3 with tnb := some 5 } = true :=
  ⟨⟨by decide, by decide⟩, rfl, by decide +kernel, by decide +kernel, by decide +kernel, by decide +kernel, by decide +kernel, by decide +kernel, by decide +kernel⟩
/-- R50: a task with nothing against it is admitted at the boundary. -/
theorem test_admit : (admitOne stTask task3).tick.tasks.map (·.admitted) = [true] := by decide +kernel
theorem witness_TickBoundaryWork_ballast : ballastFree st0 0 = true ∧ ballastFree { st0 with tick := { acc := { scanning := 8 } } } 3 = false ∧
    ((demandsOf st0 ⟨[], 0, 0, 0, []⟩).map (·.2)).sum = 0 := by decide +kernel
/-- Team 0's grant is spent, and the float holds 500 tokens, or nothing. -/
def stGrant (first : Nat) : State := { stTick with tick := { stTick.tick with acc := { stTick.tick.acc with pool := 1000, first, grants := [(0, 900)] } } }
theorem witness_TaskEvents_grants : granteeId (stGrant 500) (.team 0) = some 0 ∧ (stGrant 500).tick.running = true ∧ 0 ∉ (stGrant 500).tick.pacedTeams ∧
    (stGrant 500).tick.acc.pool - (stGrant 500).tick.acc.first - (stGrant 500).tick.acc.floatDrawn = 500 ∧
    (stGrant 1000).tick.acc.pool - (stGrant 1000).tick.acc.first - (stGrant 1000).tick.acc.floatDrawn = 0 := by decide
/-- R57: a draw takes what the float holds; with nothing left the grantee is paced. -/
theorem test_grant : after (exec (.grantExhausted (.team 0)) (stGrant 500)) (·.tick.acc.floatDrawn) = some 500 ∧
    after (exec (.grantExhausted (.team 0)) (stGrant 1000)) (·.tick.pacedTeams) = some [0] := by decide +kernel

/-- A VLD that has its first element already (R196, R286): it asks for the second alone. -/
def stGot : State := ready { core0 with ctxs := [{ ctx0 with vl := 2, got := [leBytes 4 5] }] }
theorem witness_VectorInstructions_got : HasContext stGot 0 0 th0 { ctx0 with vl := 2, got := [leBytes 4 5] } ∧
    (threadReads 0 false (([(0, 64), (1, 71)].map fun a => (⟨false, a.2, 4⟩ : URange)).drop ([leBytes 4 5] : List (List Byte)).length) stGot).2.2 = none ∧
    vAddrFault stGot 0 false false 4 [(0, 64), (1, 71)] ≠ none := ⟨⟨⟨by decide, rfl, rfl, .inl rfl⟩, rfl⟩, by decide +kernel, by decide +kernel⟩

/-- A push of 16 MiB on an empty stack is more than the near share: what does not fit goes to the extent at once (R327). -/
theorem witness_StackSendAndWrite_spill : ∀ bs : List Byte, bs.length = 2 ^ 24 → ∀ y, y = (stkChange st0 0 (.push 64) bs 1 {}).1 →
    (({} : TeamSt).used - ({} : TeamSt).near) < y.used - y.near := by
  intro bs h y hy
  subst hy
  have hn : stackNear st0 0 < 2 ^ 24 := by decide +kernel
  simp only [stkChange, frameSize, roundUp, h]
  omega
/-- An NWRITE of a connection that is not there, of one in error, and into a slot whose transfer a replay takes over. -/
theorem witness_StackSendAndWrite_nwrite : CanIssue stNw 0 0 th0 ∧ findConn stNw 6 = none ∧ ({ conn5 with error := true } : RcConn).error = true ∧
    (getStream { st0 with tower := { st0.tower with streams := [(0, { adopt := true })] } } 0).adopt = true :=
  ⟨⟨by decide, rfl, rfl, .inl rfl⟩, by decide, rfl, by decide⟩

/-- A stack, a module and a hub that are there; a fault in TOPOLOGY_HOLD; an unused physical team; four retries within 1 ms; the fourth clock triple of a
team node that no logical team uses; a slot that waits for its restore; a partition that empties. -/
def stEmptying : State := { st0 with mem := { l0 := { emptying := true } }, tower := { st0.tower with slots := [(0, { mode := 1 })] } }
def stHub : State := { st0 with dev := { st0.dev with hubsPresent := [0, 1, 2, 3] } }
theorem witness_FaultsAndRepairs_more : stHold.dev.state = 1 ∧ (layerGet stEmptying.mem 0).emptying = true ∧ (getNode stEmptying 0).mode = 1 ∧
    (0 < hubCount stHub * stacksPerHub stHub ∧ 0 / stacksPerHub stHub ∈ stHub.dev.hubsPresent ∧ 0 ∉ stHub.mem.lost ∧ hubFitted stHub 0 = true) ∧
    unusedTeam st0 0 = some 64 ∧ (2304 - 2304) / 9 = 0 ∧ (smGet 0 st0.bring.fenced 64).testBit 0 = false ∧ keysRise none st0.bring.fenced = true ∧
    (∃ i a d, ([0, 1, 2, 3000000] : List Nat)[i]? = some a ∧ ([0, 1, 2, 3000000] : List Nat)[i + 3]? = some d ∧ d ≤ a + 3000000) ∧
    (256 < 264 ∧ 2 < 3) ∧ ((st0.rel.bonds.find? fun p => p.1 == .node 256 2).map (·.2)).getD 0 = 0 ∧
    (((1 : Nat) = 1) ∧ ([(TripleRef.node 256 2, 1)].find? fun p => p.1 == .node 256 2).map (·.2) = some 1) :=
  ⟨rfl, by decide, by decide, by decide, by decide +kernel, rfl, by decide, by decide, ⟨0, 0, 3000000, rfl, rfl, by decide⟩, by decide, by decide, by decide⟩
/-- A team with 62 lanes failed loses its bundle with seven more; one lane below 8 units in a scan that swaps. -/
theorem witness_FaultsAndRepairs_lanes : (findBundle st0 ⟨1, 0, 0, 0⟩).failed = [] ∧ stScan.rel.scans = [] ∧
    ({ stScan with rel := { scans := [{ layer := 0, swap := true }] } } : State).rel.scans.find? (fun r => r.layer == 0 && decide (smGet 0 r.slots 3 < 70)) =
      some { layer := 0, swap := true } ∧
    ([⟨⟨1, 0, 0, 0⟩, 5, 7⟩, ⟨⟨1, 0, 0, 0⟩, 6, 16⟩] : List LaneMargin).filter (fun l => decide (l.margin < 16)) = [⟨⟨1, 0, 0, 0⟩, 5, 7⟩] ∧
    smGet 0 stScan.rel.bgSlots 3 * 259200000000000 ≤ 70 * (stScan.now - stScan.tick.readyAt) := by decide
/-- R483: four retries within 1 ms make a failed lane, over more than 1 ms they do not. -/
theorem test_lane_retries : after (exec (.laneFail ⟨1, 0, 0, 0⟩ ⟨5, [0, 1, 2, 3000000]⟩) st0) (fun u => (findBundle u ⟨1, 0, 0, 0⟩).due) = some [(5, true)] ∧
    after (exec (.laneFail ⟨1, 0, 0, 0⟩ ⟨5, [0, 1, 2, 3000001]⟩) st0) (fun u => (findBundle u ⟨1, 0, 0, 0⟩).due) = some [] := by decide +kernel
/-- R464: in TOPOLOGY_HOLD a lost stack is kept for READY. -/
theorem test_held : after (exec (.stackLost 3) stHold) (fun u => (u.rel.heldFaults, u.mem.lost)) = some ([.stack 3], []) := by decide +kernel

theorem witness_StepAndPackEvents_switch : ∃ s : State, s.step.switch = some ⟨0, true, false⟩ ∧ (∀ k ∈ s.tick.tasks, k.admitted = true → k.epochRes = s.step.epochCur) ∧
    (∀ n, s.step.snapshot = some n → n.epoch = s.step.epochCur) ∧ (∃ t ∈ s.step.tensors, isWeight t = true ∧ t.pushed = false) :=
  ⟨{ stPack pack3 with step := { tensors := [tensor7], packs := [pack3], switch := some ⟨0, true, false⟩ } }, rfl, nofun, nofun, tensor7, List.mem_singleton.mpr rfl, rfl, rfl⟩
/-- A tensor of rule 4 with its first refresh waiting, and none of whose inputs could be read. -/
def tensor4 : Tensor := { tensor7 with rule := 4, refreshes := [⟨none, none⟩] }
theorem witness_StepAndPackEvents_refresh : ∃ s : State, findTensor s 7 = some tensor4 ∧ refreshFree s tensor4 = true ∧ runningUpdates s = [] ∧
    hubFitted s tensor4.hub = true ∧ tensor4.refreshes = [⟨none, none⟩] :=
  ⟨{ st0 with step := { tensors := [tensor4] } }, by decide, by decide +kernel, by decide, by decide, rfl⟩

/-! ### More cases: clauses on replays, boundaries, records, element results and the tally -/

theorem witness_FaultStopsOneThread_more : ∃ s : State, 1024 ≤ eventCount s ∧ (getNode s 0).suppress.faults ≠ 0 ∧ getThread s 0 0 = some th0 :=
  ⟨{ st0 with mp := { replyQ := List.replicate 1024 ⟨none, true, false, []⟩ }
              tower := { st0.tower with slots := [(0, { mode := 2, suppress := { faults := 1 } })] } }, by decide +kernel, by decide, by decide⟩
/-- Beside the thread that waits for object 9, one of the same core waits for object 10. -/
def stSync2 : State := { stSync with tower := { stSync.tower with
  cores := [(0, { core0 with threads := [(0, { th0 with st := .blocked (.sync 9 1) }), (1, { th0 with st := .blocked (.sync 10 5) })] })]
  watches := [(9, [0]), (10, [0])] } }
theorem witness_WakesResumeWaiters_others : getThread stSync2 0 1 = some { th0 with st := .blocked (.sync 10 5) } ∧ (10 : Nat) ≠ (9 : W16).toNat ∧
    smGet [] stSync2.tower.watches 10 = [0] := by decide
theorem test_wake_others : after (exec (.wake 0 9) stSync2) (fun u => ((getThread u 0 1).map (·.st), smGet [] u.tower.watches 10)) =
    some (some (.blocked (.sync 10 5)), [0]) := by decide
/-- A stream that the failed tick had posted, in a slot that replays; one whose only unit lies outside the device memory. -/
def stReplay : State := { stStream with tower := { stStream.tower with slots := [(0, { mode := 2, suppress := { posted := [0] } })] } }
def moveBad : StreamDesc := { move0 with src := 0x3FFFFFFFFFC0 }
theorem witness_StreamsPostOneCompletion_replay : 0 ∈ (getNode stReplay 0).suppress.posted ∧ (getStream stReplay 0).adopt = false ∧
    (getNode stReplay 0).mode = 2 ∧ (∃ p, (streamUnits moveBad)[0]? = some p ∧ (streamUnitFault st0 moveBad p).isSome = true) ∧
    (streamUnits move0).length = 1 ∧ (moveUnits 0 move0 (streamUnits move0) 0 [] stStream).2.2 = true ∧ move0.flags.testBit 1 = false :=
  ⟨by decide, rfl, rfl, ⟨_, rfl, by decide +kernel⟩, by decide, by decide +kernel, by decide⟩
/-- A stream of a team that is paced. -/
def stPacedStream : State := { stStream with tick := { pacedTeams := [0] } }
theorem witness_StreamsPostOneCompletion_paced : 0 ∈ stPacedStream.tick.pacedTeams ∧ (getStream stPacedStream 0).forced = none ∧
    (getStream stPacedStream 0).run = some (.move move0) ∧ 0 ∉ stStream.tick.pacedTeams ∧ (getNode stStream 0).mode = 0 := by decide
/-- R156: it posts nothing. -/
theorem test_stream_replay : after (exec (.streamCompletion 0) stReplay) (fun u => ((getStream u 0).seq, (getNode u 0).suppress.posted)) = some (0, []) := by
  decide +kernel

/-- An update that runs and has written a NaN row (R269); two RC_CLOSE that wait. -/
def stNanRun : State := stPack { pack3 with steps := [{ step := 0, updates := [{ upd7 0 with nan := some 2 }] }] }
def stClosing : State := { stEth { conn5 with closing := some 3 } with
  mp := { slots := [slot3 (.rcClose 0 5) 0x0505, { slot3 (.rcClose 0 5) 0x0505 with sid := 4, tag := 8 }], nextSid := 5 } }
theorem witness_FencesAndReleases_nan : TakesPackets stNanRun ∧ Passes stNanRun 0x0502 (pkt 0x0502 (leBytes 8 3)) ∧ stNanRun.mp.slots = [] ∧
    ∃ k, findPack stNanRun 3 = some k :=
  ⟨stPack_takes _ rfl (by decide), passes_of _ _ _ (by decide +kernel), rfl, _, rfl⟩
theorem witness_ConnectionsOpenAndClose_waits : findConn stClosing 5 = some { conn5 with closing := some 3 } ∧
    (∀ x ∈ stClosing.mp.slots, findSlot stClosing x.sid = some x) := by decide
/-- R413: with nothing in flight any more both end. -/
theorem test_two_closes : ((closeCheck stClosing 5).mp.replyQ.length, (closeCheck stClosing 5).eth.conns.length) = (2, 0) := by decide +kernel

theorem witness_TestPortAndSideband_lands : hubCount st0 ≤ 5 ∧ ({ stRails with pin := { stRails.pin with jtag := .extest } } : State).pin.jtag = .extest ∧
    pinRail (cellGroup (.side .alertN)) ≠ 5 ∧ hasOutputCells (cellGroup (.side .alertN)) = true := by decide
def abandonOrdered : Pkt := pkt 0x0804 [] 4
theorem witness_BringUpStages7And8_ordered : ∃ s : State, TakesPackets s ∧ Accepted s 0x0804 abandonOrdered ∧ pktRefusal s 0x0804 abandonOrdered = none ∧
    s.dev.state = 1 ∧ abandonOrdered.flags.getLsbD 2 = true ∧ ∃ x ∈ s.mp.slots, x.mgmt = (abandonOrdered.chan == .management) ∧ x.work ≠ .done :=
  ⟨{ stSlot .accept 0x0803 with dev := { fuses := resetFuses, state := 1 } },
   ⟨rfl, rfl, nofun, rfl, rfl, by simp [stSlot, slot3], nofun⟩,
   ⟨by decide +kernel, by decide, by decide +kernel⟩, by decide +kernel, rfl, by decide, slot3 .accept 0x0803, by decide, rfl, by decide⟩
/-- An outlet 8 °C above the inlet. -/
def stFlow : State := { st0 with therm := { temp := [(392, 400), (393, 528)] } }
theorem witness_ThermalReadings_flow : smGet 0 stFlow.therm.temp 393 - smGet 0 stFlow.therm.temp 392 = (128 : Nat) ∧ isHealthy stFlow 16 = true ∧
    (∃ r, regionOfSensor 16 = some r) ∧ sensorAbsent stFlow 16 = false := ⟨by decide, by decide, ⟨1, by decide⟩, by decide +kernel⟩
theorem witness_FlashWritesWait_ring : ∃ s : State, s.fw.queue = [.ring 20] ∧ (cfgNetRing s).2 ≤ 20 ∧ (cfgNetRing s).1 ≠ 0 ∧ s.dev.state = 2 :=
  ⟨{ stRing with fw := { queue := [.ring 20] } }, rfl, by decide +kernel, by decide +kernel, rfl⟩
theorem witness_TickEvents_window : eventCount stTick + 1 < 1024 ∧ stTick.mp.dropRun = 0 ∧ ({ breach := 1 } : WindowAcc).breach + ({} : WindowAcc).short ≠ 0 := by
  decide

/-- A step that is decided to commit with its update finished; one that is a skip; a switch whose one weight is pushed. -/
def stepC : PackStep := { step := 1, decision := some (true, 0, 0, 0), updates := [{ upd7 0 with phase := .finished }] }
def stepS : PackStep := { step := 0, decision := some (false, 0, 0x0402, 0) }
def packC : Pack := { pack3 with steps := [stepC, stepS] }
def packOne (x : PackStep) : Pack := { pack3 with steps := [x] }
theorem witness_TickBoundaryWork_steps : (stPack packC).step.packs = [packC] ∧ packC.steps = [stepC, stepS] ∧
    canApply (stPack packC) packC stepC = true ∧ canApply (stPack packC) packC stepS = true ∧
    stepS.step < stepC.step ∧ findPack (stPack packC) packC.id = some packC ∧
    findPS packC 1 = some stepC ∧ packC.tensors.Nodup ∧ ((stPack packC).step.tensors.map (·.id)).Nodup ∧
    (packOne stepS).steps = [stepS] ∧ okay (hubRead (stPack packC) tensor7.master 8) = true := by decide +kernel
def stSwitch : State := { stSlot (.fence 3 1) 0x0403 with step := {
  tensors := [{ tensor7 with pushed := true }]
  packs := [packOne { step := 1, decision := some (true, 0, 0, 0), fence := some 3 }]
  switch := some ⟨1, true, true⟩ } }
theorem witness_TickBoundaryWork_switch : stSwitch.step.switch = some ⟨1, true, true⟩ ∧ stSwitch.step.snapshot = none ∧
    (∀ t ∈ stSwitch.step.tensors, t.kind = 0 → t.pushed = true) ∧ Outstanding stSwitch (slot3 (.fence 3 1) 0x0403) ∧
    (∀ t ∈ stSwitch.step.tensors, t.dropping = none) ∧ (stPack packC).step.switch = none :=
  ⟨rfl, rfl, by decide, ⟨by decide, by decide⟩, by decide, rfl⟩
/-- R317, R388: both decisions apply, the lower step first; the switch ends with the fence's reply, ST_OK. -/
theorem test_decisions : ((applyDecisions (stPack packC)).step.packs.map fun p => p.steps.map (·.applied)) = [[true, true]] := by decide +kernel
theorem test_switch : ((endSwitch stSwitch).step.epochCur, (endSwitch stSwitch).mp.replyQ.map fun r => getLe r.bytes 4 2) = (1, [0]) := by decide +kernel

/-- A boundary that finds a curb due, a team to be LOST and one to run degraded on which the task runs, one whose state is lost, and lanes that fail. -/
def stDue (r : TeamRel) : State :=
  { stRun with
    rel := { teams := [(0, r)], bundles := [{ ref := ⟨1, 0, 0, 0⟩, failed := [1, 2, 3, 4], due := [(5, true)] }] }
    therm := { regions := [(1, { curbDue := 2 })] } }
theorem witness_BoundaryWorkEffects : TablesForm (stDue { subst := 1 }) ∧ smWf [] (stDue {}).tick.marks = true ∧
    (getRel (stDue { lostDue := some (6, 0, 5) }) 0).lostDue = some (6, 0, 5) ∧ (getRel (stDue { degradeDue := some (1, 2, 3) }) 0).degradeDue = some (1, 2, 3) ∧
    (getRel (stDue { stateLost := [2] }) 0).stateLost ≠ [] ∧ ((stDue {}).tick.tasks.filter fun k => k.teams.testBit 0) = [run3] ∧
    ((stDue {}).tick.tasks.filter fun k => k.admitted && k.teams.testBit 0 && decide (512 < k.threads)).length = 0 ∧
    (findBundle (stDue {}) ⟨1, 0, 0, 0⟩).failed.length = 4 ∧ (findBundle (stDue {}) ⟨1, 0, 0, 0⟩).half = false ∧ EventRoom (stDue {}) ∧
    (stDue {}).tower.cores.map (·.1) = List.range 8 :=
  ⟨form_of _ rfl (by decide), by decide, by decide, by decide, by decide, by decide, by decide, by decide, by decide, ⟨by decide, rfl⟩, by decide⟩
theorem witness_BoundaryWorkEffects_quarantine : ∃ s : State, s.tick.quarClr.testBit 1 = true ∧ s.tick.quarantine.testBit 1 = true ∧ (getRel s 0).lost = true ∧
    s.tick.quarantine.testBit 0 = false ∧ s.tick.tasks = [task3] ∧ task3.teams.testBit 0 = true ∧ Outstanding s (slot3 .task) ∧ smWf [] s.tick.marks = true :=
  ⟨{ stTask with rel := { teams := [(0, { lost := true })] }, tick := { tasks := [task3], quarClr := 2, quarantine := 2 } },
   by decide, by decide, by decide, by decide, rfl, by decide, ⟨by decide, by decide⟩, by decide⟩
/-- R480, R508, R486: the team is LOST and its task stopped; the curb applies; the bundle runs at half width. -/
theorem test_boundary_work : (getRel (applyLost (stDue { lostDue := some (6, 0, 5) }) 0) 0).lost = true ∧
    (applyLost (stDue { lostDue := some (6, 0, 5) }) 0).tick.tasks = [] ∧ (getRegion (applyCurbs (stDue {})) 1).curb = 2 ∧
    (findBundle (applyLanes (stDue {})) ⟨1, 0, 0, 0⟩).half = true := by decide +kernel

/-- Four steps are open, the oldest with an entry; a ring for watch records and one for ledger records. -/
def stWatch : State := { st0 with
  cfg := { active := [(0x7F0000050000, 0x10000), (0x7F0000050008, 16)] }
  watch := { open_ := [{ step := 1, closing := some 1 }, { step := 2 }, { step := 3 }, { step := 4 }], entries := [⟨7, 0, 1, 100, 60, 0, 0⟩] } }
theorem witness_StepClosesRecords : stWatch.watch.open_.filter (fun x => x.closing.isSome) = [{ step := 1, closing := some 1 }] ∧
    stWatch.watch.open_.length = 4 ∧ (stWatch.watch.open_.map (·.step)).Nodup ∧ (∀ o ∈ stWatch.watch.open_, o.step ≠ 5) ∧ 5 ∉ stWatch.watch.closed ∧
    (∃ o ∈ stWatch.watch.open_, o.step < 5) ∧ (∀ x ∈ stWatch.watch.open_, 1 ≤ x.step) ∧ (∀ e ∈ stWatch.watch.entries, (e.step == 2) = false) ∧
    (∃ e ∈ stWatch.watch.entries, (e.tensor == 7 && e.source == 0 && e.step == 1) = true) := by decide
/-- R275: the step closes with its entry; a fifth step closes the oldest. -/
theorem test_close : ((closeDue stWatch).watch.open_.map (·.step), (closeDue stWatch).watch.entries, (closeDue stWatch).watch.closed) = ([2, 3, 4], [], [1]) ∧
    ((openStep stWatch 5).watch.open_.map (·.step), (openStep stWatch 0).watch.open_.length) = ([2, 3, 4, 5], 4) := by decide +kernel
/-- R277: an entry of zeros alone begins the run of its source. -/
theorem test_run : ((watchRecord stWatch false ⟨7, 0, 1, 100, 100, 0, 0⟩).watch.runs.map fun r => (r.tensor, r.run)) = [(7, 1)] := by decide +kernel

/-- The soft maximum of one +infinity is 1.0 (R215); of one that is masked the row is empty; the RMS norm of a NaN row is NaN. -/
def desc0 (op mode : Nat) : RowDesc := { rowDesc (zeroBytes 96) with op := op, mode := mode, n := 1, rows := 1, param := 0x3F800000 }
theorem test_softmax : (rowCompute (desc0 0 0) true ⟨0, 0, false, false, false, 0⟩ [0x7F800000] [] [0x3F800000] [0] (fun _ => false)).outs = [0x3F800000] ∧
    (rowCompute (desc0 0 0) true ⟨0, 0, false, false, false, 0⟩ [0x40000000] [] [0x3F800000] [0] (fun _ => true)).stat.empty = true ∧
    (rowCompute (desc0 4 0) true ⟨0, 0, false, false, false, 0⟩ [0x7FC00000] [] [0x3F800000] [0] (fun _ => false)).outs = [0x7FC00000] := by decide +kernel
theorem witness_ElementResults_row : (desc0 0 0).op = 0 ∧ (desc0 1 0).op = 1 ∧ (desc0 2 0).op = 2 ∧ (desc0 3 0).op = 3 ∧ (desc0 0 0).mode ≠ 1 ∧
    rowNext stRow 0 = some 0 ∧ okay (rowInputs stRow 0 (rowDesc (spadRead stRow 0 64 96)) 0) = true ∧ 0 < recCapacity stRow 0 ∧ TablesForm stRow ∧
    smWf emptyRec (getTeam stRow 0).side = true ∧ smWf emptyRec (getTeam stRow 0).ovf = true ∧
    okay (unitWrite stRow 0 ⟨false, 2048, 4⟩ (leBytes 4 1)) = true ∧ (getNode stRow 0).suppress.tadds = 0 :=
  ⟨rfl, rfl, rfl, rfl, by decide, by decide, by decide +kernel, by decide +kernel, form_of _ rfl (by decide), by decide, by decide, by decide +kernel, by decide⟩
/-- Blocks: a MX block of 1.0 and 0.5 has the scale of 1.0; a ZB block with a NaN escapes it, and without room for it is tagged NaN. -/
def one : FVal := .fin false 1 0
def half : FVal := .fin false 1 (-1)
theorem witness_ElementResults_blocks : (∀ x ∈ [one, half], fvIsFin x = true) ∧ one ∈ [one, half] ∧ fvIsZero one = false ∧ (∀ x ∈ [one, half], magLt one x = false) ∧
    ranked [half, one] = [1, 0] ∧ (zbBlock ⟨11, 4, 4, 0, 8, 2⟩ 0 8 (fun _ => none) [one, .nan]).tag = 0 ∧
    (zbBlock ⟨11, 4, 4, 0, 0, 2⟩ 0 0 (fun _ => none) [one, .nan]).tag = 2 ∧ (zbBlock ⟨11, 4, 4, 0, 8, 2⟩ 0 8 (fun _ => none) [.fin false 0 0]).tag = 1 ∧
    fpIsZero f32 0x3F800000 = false ∧ isBlockFmt 11 = true ∧ isBlockFmt 0 = false ∧ isZb 12 = true ∧ isZb 5 = false := by decide +kernel
theorem witness_ElementResults_conv : okay (unitRead stConv 0 ⟨false, 1024, 4⟩ false) = true ∧ okay (unitWrite stConv 0 ⟨false, 2048, 4⟩ (leBytes 4 1)) = true ∧
    okay (unitRead (stConv2 .cdec 5 0) 0 (convSrcRow .cdec (convDesc (spadRead (stConv2 .cdec 5 0) 0 64 64)) 0) false) = true := by decide +kernel

theorem witness_StepAndPackEvents_snapshot : ∃ hb, (memRead stVote tensor7.hyper 128).2.toOption = some hb ∧
    okay (memRead stVote tensor7.work (wslotLen tensor7 (hyperOf hb).pool)) = true ∧ okay (memWrite stVote (tensor7.work + 4096) (leBytes 4 1)) = true ∧
    hubServed stVote 0 = true ∧ hubServed { stVote with tick := { pacedTeams := [256] } } 0 = false :=
  ⟨zeroBytes 128, by decide +kernel, by decide +kernel, by decide +kernel, by decide +kernel, by decide +kernel⟩
/-- A gap of 50 µs in the multicast stream of hub 1. -/
def stGap : State := { stVote with now := 150000, eth := { stVote.eth with
  recvs := [{ pack := 3, mc := true, member := 0, srcHub := 0, hub := 1, next := 5, buffer := [(9, [])], gapSince := some 0 }] } }
theorem witness_StepAndPackEvents_repair : (getRecv stGap packF true 0 0 1).gapSince = some 0 ∧ (getRecv stGap packF true 0 0 1).lastRepair = none ∧
    (∀ k, k < 6 → k ≠ 1 → (getRecv stGap packF true 0 0 k).gapSince = none) ∧ lacksVote stGap packF 0 = false ∧ findPack stGap 3 = some packF := by
  decide +kernel
/-- R424: one REPAIR is counted, at the stream's hub. -/
theorem test_repair : after (exec (.repairTimer 3 0) stGap) (fun u => ((getHubEth u 1).repair, (getRecv u packF true 0 0 1).lastRepair)) =
    some (1, some 150000) := by decide +kernel

/-- A CONTRIB of pack 3, member 0, step 0, tensor 7: row 0, one ZB8 block of zeros, T = 0, ROW_END (Tables 15.6, 15.7a). -/
def contribBytes : List Byte :=
  let p := [11, 4, 0, 0] ++ beBytes 4 0 ++ beBytes 4 0 ++ beBytes 2 1 ++ beBytes 2 1 ++ beBytes 4 256 ++ zeroBytes (recBytes 11 4 - 4)
  let b := beBytes 1 1 ++ beBytes 1 1 ++ beBytes 2 p.length ++ beBytes 4 3 ++ zeroBytes 16 ++ beBytes 4 7 ++ zeroBytes 4 ++ p
  b ++ beBytes 4 (crc32c b)
/-- The tally of tensor 7 with member 0's row 0 converted, its element 1 not finite. -/
def tally7 : TensorStep := { tensor := 7, ts := [(0, 0)], bits := [(0, [0])], convd := [(0, [0])], accs := [(0, [(0, [1, 0, 0, 0])])], nanBits := [(0, [1])] }
def stTally : State := stPack (packOne { step := 0, tensors := [tally7] })
theorem witness_PackMessagesDeliver : findPack stVote packF.id = some packF ∧ stepAcceptable packF (packHdr contribBytes).step = true ∧
    (packHdr contribBytes).tensor ∈ packF.tensors ∧ findTensor stVote (packHdr contribBytes).tensor = some tensor7 ∧
    stepBitmap stVote packF.id 0 tensor7 = (stVote, []) ∧ (packHdr contribBytes).type = 1 ∧ ownerOf tensor7.rows packF.n 0 = packF.me ∧
    contribFmtOk 11 4 = true ∧ packFormOk contribBytes = true ∧ (getPS stVote 3 0).votes = [] ∧ findPack stVote 9 = none := by
  refine ⟨by decide, by decide +kernel, by decide +kernel, by decide +kernel, rfl, by decide +kernel, by decide, by decide, by decide +kernel, by decide, by decide⟩
theorem witness_PackMessagesDeliver_tally : findPack stTally 3 ≠ none ∧ getTS stTally 3 0 7 = tally7 ∧ (0 : Nat) ∉ tally7.doneRows ∧
    (smGet [] tally7.bits 0).length = 1 ∧ (smGet [] tally7.convd 0).length = 1 ∧ keysRise none tally7.accs = true ∧ keysRise none tally7.nanBits = true ∧
    (∀ q ∈ tally7.accs, keysRise none q.2 = true) ∧ smGet? tally7.ts 0 ≠ none ∧ smGet? tally7.reduced 0 = none ∧ tally7.shardSent = false := by decide +kernel
theorem witness_PackMessagesDeliver_vote : ∃ s p x, findPack s 3 = some p ∧ findPS p 0 = some x ∧ x.decision = none ∧ p.n = 1 ∧ x.votes = [(0, true)] :=
  ⟨stPack (packOne { step := 0, votes := [(0, true)] }), _, _, rfl, rfl, rfl, rfl, rfl⟩
/-- R353, R354, R358: of the pack's one member, the row counts, is complete and reduced to +0. -/
theorem test_contrib : (deliver stVote voteRx 3 contribBytes).step.cnt.contrib = 1 ∧ (getTS (deliver stVote voteRx 3 contribBytes) 3 0 7).doneRows = [0] ∧
    (getTS (deliver stVote voteRx 3 contribBytes) 3 0 7).reduced = [(0, [0, 0, 0, 0])] := by decide +kernel
/-- Table 13.4: the five members' integers sum to 2^81 times 2^-80, which is 2.0; R357: three of 2^126 saturate twice. -/
theorem test_tally : reduceElem (-80) [2 ^ 104, 2 ^ 80, -(2 ^ 104), 2 ^ 80, 0] = (0x40000000, 0) ∧ (reduceElem (-80) [2 ^ 126, 2 ^ 126, 2 ^ 126]).2 = 2 := by
  decide +kernel

/-- Sixteen READs outstanding; a repeated one. -/
def stReads : State := { stEth conn5 with eth := { (stEth conn5).eth with
  ports := [(0, { state := 2, txHeld := List.replicate 16 (.roce 0 0 false conn5.remoteAddr (.readResp conn5.remoteQpn 0 true true [])) })] } }
theorem witness_RocePackets_reads : readsOut stReads conn5 = 16 ∧ rcDenied stReads conn5 false { roce0 with psn := 10, len := 8, rkey := 77 } = false ∧
    sgn 24 (9 + 2 ^ 24 - conn5.recvPsn % 2 ^ 24) < 0 := by decide +kernel
theorem witness_PortEvents_arp : askOurs (stEth conn5) arp0 = true ∧ arp0.isArp = true ∧ arp0.dst = portIp (stEth conn5) 0 0 false ∧
    askOurs (stEth conn5) { arp0 with head := beBytes 6 5 ++ arp0.head.drop 6 } = false := by decide +kernel
/-- R409: a request sent to a foreign unicast MAC is dropped and counted. -/
theorem test_arp_foreign : after (exec (.arpRequest { arp0 with head := beBytes 6 5 ++ arp0.head.drop 6 }) (stEth conn5)) (fun u =>
    ((getPort u 0).rxDrop, u.eth.tx.length)) = some (1, 0) ∧ after (exec (.arpRequest arp0) (stEth conn5)) (fun u => ((getPort u 0).rxDrop, u.eth.tx.length)) =
    some (0, 1) := by decide +kernel

end Sys2Proof.Tests
end

section
/-! SUPPORT. Stopping a thread (R36): the FAULT event, the end of the thread, and what each leaves unchanged. -/

namespace Sys2Proof.Machine

/-! ### Changes of one core -/

theorem onCore_congr {s : State} {c : Nat} {f g : CoreSt → CoreSt} (h : f (getCore s c) = g (getCore s c)) : onCore s c f = onCore s c g := by
  simp only [onCore, onTower, smMod]
  rw [show f (smGet {} s.tower.cores c) = g (smGet {} s.tower.cores c) from h]

theorem CoreAt.of_onCore {s : State} {c : Nat} {f : CoreSt → CoreSt} (h : f (getCore s c) ≠ {}) : CoreAt s (onCore s c f) c f where
  core := getCore_onCore_same s c f h
  cores _ hk := getCore_onCore_other s f h hk
  rest := rfl

theorem CoreAt.trans {s u v : State} {c : Nat} {f g : CoreSt → CoreSt} (h : CoreAt s u c f) (k : CoreAt u v c g) : CoreAt s v c (g ∘ f) where
  core := by rw [k.core, h.core]; rfl
  cores x hx := (k.cores x hx).trans (h.cores x hx)
  rest := by rw [k.rest, h.rest]

theorem CoreAt.congr {s v : State} {c : Nat} {f g : CoreSt → CoreSt} (h : CoreAt s v c f) (e : f (getCore s c) = g (getCore s c)) :
    CoreAt s v c g := ⟨h.core.trans e, h.cores, h.rest⟩

/-! ### Threads that wait are woken (R130) -/

/-- A thread as it is once those that wait for something of `p` have been woken. -/
def wokenThread (p : BlockOn → Bool) (now : Nat) (th : Thread) : Thread :=
  match th.st with
  | .blocked b => if p b then { th with st := .ready, since := now } else th
  | _ => th

theorem wokenThread_of_ended {p : BlockOn → Bool} {now : Nat} {th : Thread} (h : th.st = .ended) : wokenThread p now th = th := by
  simp only [wokenThread, h]

/-- Only the threads that wait for room in the unit are woken. -/
theorem wokenThread_room_of_ne {u : UnitId} {now : Nat} {th : Thread} (h : th.st ≠ .blocked (.room u)) :
    wokenThread (· == .room u) now th = th := by
  unfold wokenThread
  split
  · next b hb => exact if_neg fun e => h (by rw [hb, eq_of_beq e])
  · rfl

/-- A core whose waiting threads have been woken. -/
def wokenCore (p : BlockOn → Bool) (now : Nat) (k : CoreSt) : CoreSt :=
  { k with threads := k.threads.map fun x => (x.1, wokenThread p now x.2) }

theorem wakeRoom_eq (s : State) (c : Nat) (p : BlockOn → Bool) : wakeRoom s c p = onCore s c (wokenCore p s.now) := by
  have each (x : Nat × Thread) : (match x.2.st with
      | .blocked b => if p b then (x.1, { x.2 with st := .ready, since := s.now }) else x
      | _ => x) = (x.1, wokenThread p s.now x.2) := by
    cases h : x.2.st with
    | blocked b =>
      simp only [wokenThread, h]
      split <;> rfl
    | _ => simp only [wokenThread, h]
  exact congrArg (onCore s c) (funext fun k => congrArg (fun ts => { k with threads := ts }) (List.map_congr_left fun x _ => each x))

theorem smGet?_map {α β : Type} (f : α → β) (m : List (Nat × α)) (a : Nat) :
    smGet? (m.map fun x => (x.1, f x.2)) a = (smGet? m a).map f := by
  induction m with
  | nil => rfl
  | cons e m ih =>
    obtain ⟨k, v⟩ := e
    simp only [List.map_cons, smGet?, ih]
    split
    · rfl
    · split <;> rfl

/-! ### A thread leaves its program (R128, R190) -/

/-- A thread as it is once it has left its program. -/
def endedThread (th : Thread) : Thread := { th with st := .ended, stop := false }

/-- A core once its thread `t` has ended and given its vector context back. -/
def leftCore (t : Nat) (th : Thread) (k : CoreSt) : CoreSt :=
  { k with ctxs := k.ctxs.filter fun x => x.owner != t, threads := smIns k.threads t (endedThread th) }

/-- A core once its thread `t` has left its program: a vector context that it held goes to the threads that wait for one. -/
def quitCore (now t : Nat) (th : Thread) (k : CoreSt) : CoreSt :=
  if k.ctxs.any fun x => x.owner == t then wokenCore (· == .room .vector) now (leftCore t th k) else leftCore t th k

theorem quitCore_ctxs (now t : Nat) (th : Thread) (k : CoreSt) : (quitCore now t th k).ctxs = k.ctxs.filter fun x => x.owner != t := by
  unfold quitCore
  split <;> rfl

/-- The thread itself has ended, and of the others only those that waited for a vector context may have been woken. -/
theorem quitCore_threads_same (now t : Nat) (th : Thread) (k : CoreSt) : smGet? (quitCore now t th k).threads t = some (endedThread th) := by
  unfold quitCore
  split
  · simp only [wokenCore, leftCore, smGet?_map, smGet?_smIns_same, Option.map_some, wokenThread_of_ended (th := endedThread th) rfl]
  · exact smGet?_smIns_same ..

theorem quitCore_threads_other {now t x : Nat} {th o : Thread} {k : CoreSt} (hx : x ≠ t) (ho : smGet? k.threads x = some o)
    (hst : o.st ≠ .blocked (.room .vector)) : smGet? (quitCore now t th k).threads x = some o := by
  unfold quitCore
  split
  · simp only [wokenCore, leftCore, smGet?_map, smGet?_smIns_other _ _ hx, ho, Option.map_some, wokenThread_room_of_ne hst]
  · exact (smGet?_smIns_other _ _ hx).trans ho

theorem leftCore_ne (t : Nat) (th : Thread) (k : CoreSt) : leftCore t th k ≠ {} := core_ne_of_threads (smIns_ne_nil _ _ _)

theorem wokenCore_leftCore_ne (p : BlockOn → Bool) (now t : Nat) (th : Thread) (k : CoreSt) : wokenCore p now (leftCore t th k) ≠ {} :=
  core_ne_of_threads fun e => smIns_ne_nil _ _ _ (List.map_eq_nil_iff.mp e)

/-- Leaving its program, a thread changes its own core alone. -/
theorem quitThread_coreAt {s : State} {c t : Nat} {th : Thread} (h : getThread s c t = some th) :
    CoreAt s (quitThread s c t) c (quitCore s.now t th) := by
  have left : CoreAt s (onCore s c (leftCore t th)) c (leftCore t th) := .of_onCore (leftCore_ne t th _)
  have woken : CoreAt (onCore s c (leftCore t th)) (wakeRoom (onCore s c (leftCore t th)) c (· == .room .vector)) c
      (wokenCore (· == .room .vector) s.now) := by
    rw [wakeRoom_eq]
    exact .of_onCore (by rw [left.core]; exact wokenCore_leftCore_ne _ _ t th _)
  have quit : quitThread s c t = if (getCore s c).ctxs.any fun x => x.owner == t
      then wakeRoom (onCore s c (leftCore t th)) c (· == .room .vector) else onCore s c (leftCore t th) := by
    rw [← onCore_congr (f := fun k => { k with
      ctxs := k.ctxs.filter fun x => x.owner != t
      threads := match smGet? k.threads t with
        | some th => smIns k.threads t { th with st := .ended, stop := false }
        | none => k.threads })]
    · rfl
    · rw [show smGet? (getCore s c).threads t = some th from h]
      rfl
  rw [quit]
  split
  · next held => exact (left.trans woken).congr (by simp [quitCore, held])
  · next held => exact left.congr (by simp [quitCore, held])

/-- Trimming a core's watches changes the watches alone (R147). -/
theorem trimWatches_watches (s : State) (c : Nat) :
    trimWatches s c = { s with tower := { s.tower with watches := (trimWatches s c).tower.watches } } := by
  have fold (os : List Nat) (u : State) : ∃ ws,
      os.foldl (fun s o => onTower s fun w => { w with watches := smMod [] w.watches o fun cs => cs.erase c }) u =
        { u with tower := { u.tower with watches := ws } } := by
    induction os generalizing u with
    | nil => exact ⟨_, rfl⟩
    | cons o os ih => exact ih _
  obtain ⟨ws, h⟩ := fold _ s
  unfold trimWatches
  rw [h]

/-- The end of a thread changes the tower's cores and watches alone. -/
theorem endOf_only {s : State} {c t : Nat} {th : Thread} (h : getThread s c t = some th) :
    endOf s c t = { s with tower := { s.tower with cores := (endOf s c t).tower.cores, watches := (endOf s c t).tower.watches } } := by
  unfold endOf
  rw [trimWatches_watches, (quitThread_coreAt h).rest]

theorem getCore_trimWatches (s : State) (c x : Nat) : getCore (trimWatches s c) x = getCore s x := by
  rw [trimWatches_watches]
  rfl

theorem getCore_endOf_same {s : State} {c t : Nat} {th : Thread} (h : getThread s c t = some th) :
    getCore (endOf s c t) c = quitCore s.now t th (getCore s c) :=
  (getCore_trimWatches ..).trans (quitThread_coreAt h).core

theorem getCore_endOf_other {s : State} {c t x : Nat} {th : Thread} (h : getThread s c t = some th) (hx : x ≠ c) :
    getCore (endOf s c t) x = getCore s x :=
  (getCore_trimWatches ..).trans ((quitThread_coreAt h).cores x hx)

/-! ### Team nodes (R148) -/

theorem getNode_onNode {s : State} (w : smWf {} s.tower.slots = true) (c x : Nat) (f : SlotNode → SlotNode) :
    getNode (onNode s c f) x = if x = c then f (getNode s c) else getNode s x := smGet_smSet w c x _

/-! ### One FAULT event (R36, R86, R474) -/

/-- With room for it an event is formed at once. -/
theorem sendEvent_of_room {s : State} (h : EventRoom s) (status detail : Nat) (body : List Byte) :
    sendEvent s status detail body = withEvent s status detail body := by
  obtain ⟨room, run⟩ := h
  have space : eventSpace s = s := if_neg fun x => x.1 run
  unfold sendEvent sendEventOf
  simp only [space, room, if_true]
  rfl

/-- With the event queue full an event is dropped and counted, its number passed over. -/
theorem sendEvent_of_full {s : State} (h : 1024 ≤ eventCount s) (status detail : Nat) (body : List Byte) :
    sendEvent s status detail body = onMp s fun m => { m with
      evtDrop := min (m.evtDrop + 1) (2 ^ 32 - 1)
      dropRun := m.dropRun + 1
      dropFirst := if m.dropRun = 0 then m.evtSeq else m.dropFirst
      evtSeq := (m.evtSeq + 1) % 2 ^ 32 } := by
  have full : ¬ eventCount s < 1024 := Nat.not_lt.mpr h
  have space : eventSpace s = s := if_neg fun x => full x.2
  unfold sendEvent sendEventOf
  simp only [space, full, if_false]
  rfl

/-- Sending an event changes the MP's side alone. -/
theorem sendEvent_mp (s : State) (status detail : Nat) (body : List Byte) :
    sendEvent s status detail body = { s with mp := (sendEvent s status detail body).mp } := by
  obtain ⟨m, hm⟩ : ∃ m, eventSpace s = { s with mp := m } := by
    unfold eventSpace
    split <;> exact ⟨_, rfl⟩
  unfold sendEvent sendEventOf
  simp only [hm]
  split <;> rfl

/-- A FAULT event that repeats none of a failed tick is counted at the team node and sent. -/
theorem faultEvent_of_first {s : State} {c : Nat} (h : (getNode s c).suppress.faults = 0) (t status insn addr : Nat) :
    faultEvent s c t status insn addr = sendEvent (onNode s c fun n => { n with eff := { n.eff with faults := n.eff.faults + 1 } })
      status 0x0006 (faultBody c t insn addr) := by
  simp only [faultEvent, spendNat, h, if_true]
  rfl

/-- One that a replay repeats (R474) is not sent; the team node counts it off. -/
theorem faultEvent_of_repeat {s : State} {c : Nat} (h : (getNode s c).suppress.faults ≠ 0) (t status insn addr : Nat) :
    faultEvent s c t status insn addr = onNode s c fun n => { n with suppress := { n.suppress with faults := n.suppress.faults - 1 } } := by
  simp only [faultEvent, spendNat, h, if_false]
  rfl

/-- A FAULT event changes the team nodes' records and the MP's side alone. -/
theorem faultEvent_only (s : State) (c t status insn addr : Nat) :
    faultEvent s c t status insn addr = { s with
      mp := (faultEvent s c t status insn addr).mp
      tower := { s.tower with slots := (faultEvent s c t status insn addr).tower.slots } } := by
  by_cases h : (getNode s c).suppress.faults = 0
  · rw [faultEvent_of_first h, sendEvent_mp]
    rfl
  · rw [faultEvent_of_repeat h]
    rfl

theorem getCore_faultEvent (s : State) (c t status insn addr x : Nat) : getCore (faultEvent s c t status insn addr) x = getCore s x := by
  rw [faultEvent_only]
  rfl

/-! ### A thread stops (R36) -/

section
variable {s : State} {c t : Nat} {th : Thread} (h : getThread s c t = some th) (status addr : Nat)
include h

theorem stopThread_eq : stopThread s c t status addr = endOf (faultEvent s c t status th.pc addr) c t := by
  simp only [stopThread, h]

theorem getThread_faultEvent (insn : Nat) : getThread (faultEvent s c t status insn addr) c t = some th := by
  unfold getThread
  rw [getCore_faultEvent]
  exact h

/-- What a stopped thread leaves of its core is what a thread leaves that quits its program. -/
theorem getCore_stopThread_same : getCore (stopThread s c t status addr) c = quitCore s.now t th (getCore s c) := by
  rw [stopThread_eq h, getCore_endOf_same (getThread_faultEvent h ..), getCore_faultEvent, faultEvent_only]

theorem getCore_stopThread_other {x : Nat} (hx : x ≠ c) : getCore (stopThread s c t status addr) x = getCore s x := by
  rw [stopThread_eq h, getCore_endOf_other (getThread_faultEvent h ..) hx, getCore_faultEvent]

/-- A stopped thread changes the MP's side and the team nodes' records by its FAULT event alone; beside them only cores and watches change. -/
theorem stopThread_only : stopThread s c t status addr = { faultEvent s c t status th.pc addr with
    tower := { (faultEvent s c t status th.pc addr).tower with
      cores := (stopThread s c t status addr).tower.cores
      watches := (stopThread s c t status addr).tower.watches } } := by
  rw [stopThread_eq h]
  exact endOf_only (getThread_faultEvent h ..)

theorem stopThread_mp : (stopThread s c t status addr).mp = (faultEvent s c t status th.pc addr).mp := by rw [stopThread_only h]

theorem stopThread_mem : (stopThread s c t status addr).mem = s.mem := by rw [stopThread_only h, faultEvent_only]

theorem getNode_stopThread (x : Nat) : getNode (stopThread s c t status addr) x = getNode (faultEvent s c t status th.pc addr) x := by
  rw [stopThread_only h]
  rfl

end

/-- Settles O12: a stop is the FAULT event and then the end of the thread; the one is all that reaches the MP, the other all that reaches the cores. -/
theorem faultStopsOneThread : Obligations.FaultStopsOneThread := by
  unfold Obligations.FaultStopsOneThread
  intro s c t status addr th h
  have core := getCore_stopThread_same h status addr
  refine ⟨⟨endedThread th, ?_, rfl, fun _ => rfl⟩, ?_, ?_, ?_, ?_, ?_, ?_, ?_⟩
  · rw [getThread, core, quitCore_threads_same]
  · intro x hx
    rw [core, quitCore_ctxs] at hx
    exact bne_iff_ne.mp (List.mem_filter.mp hx).2
  · intro x o hx ho hst
    rw [getThread, core]
    exact quitCore_threads_other hx ho hst
  · exact fun x hx => getCore_stopThread_other h status addr hx
  · exact stopThread_mem h status addr
  · intro first room
    rw [stopThread_mp h, faultEvent_of_first first, sendEvent_of_room]
    · rfl
    · exact room
  · intro first full
    rw [stopThread_mp h, faultEvent_of_first first, sendEvent_of_full]
    · rfl
    · exact full
  · intro again form
    rw [stopThread_mp h, getNode_stopThread h, faultEvent_of_repeat again]
    exact ⟨rfl, by rw [getNode_onNode form.slots, if_pos rfl]⟩

end Sys2Proof.Machine
end

section
/-! SUPPORT. No command stops the block: what the operations shared by commands answer, and from it what every command answers. -/

namespace Sys2Proof.Machine

/-! ### The operations that commands share go on -/

theorem goesOn_next (s : State) : goesOn (.next s) := ⟨s, rfl⟩

theorem cmdRow_goesOn (op : Nat) (p : Pkt) (s : State) : goesOn (cmdRow op p s) := goesOn_next _

theorem issueRaw_goesOn (c t resv : Nat) (s : State) (k : Thread → State) : goesOn (issueRaw c t resv s k) := goesOn_next _

theorem jtagTake_goesOn (s : State) (on : Bool) (i : JtagIns) (dr : Nat) : goesOn (jtagTake s on i dr) := goesOn_next _

theorem rxFrame_goesOn (f : NetFrame) (s : State) (k : State → State) : goesOn (rxFrame f s k) := by
  unfold rxFrame
  split
  · exact goesOn_next _
  · split <;> exact goesOn_next _

theorem rxTaken_goesOn (f : NetFrame) (s : State) (k : State → State) : goesOn (rxTaken f s k) := rxFrame_goesOn ..

theorem rxMessage_goesOn (type : Nat) (m : PackRx) (s : State) (k : State → PackHdr → State) : goesOn (rxMessage type m s k) :=
  rxTaken_goesOn ..

theorem rxPack_goesOn (type : Nat) (m : PackRx) (s : State) (k : State → Pack → PackHdr → State) : goesOn (rxPack type m s k) :=
  rxMessage_goesOn ..

theorem rcFrame_goesOn (m : RocePkt) (s : State) (k : State → RcConn → State) : goesOn (rcFrame m s k) := rxTaken_goesOn ..

theorem rcRequestWith_goesOn (again : State → RcConn → State) (m : RocePkt) (s : State) (k : State → RcConn → State) :
    goesOn (rcRequestWith again m s k) := rcFrame_goesOn ..

theorem rcRequest_goesOn (m : RocePkt) (s : State) (k : State → RcConn → State) : goesOn (rcRequest m s k) := rcRequestWith_goesOn ..

theorem rxFlit_goesOn (kind : Nat) (raw : List Byte) (s : State) (k : State → FlitHdr → List Byte → State) : goesOn (rxFlit kind raw s k) := by
  unfold rxFlit
  split
  · exact goesOn_next _
  · split
    · exact goesOn_next _
    · dsimp only
      split <;> exact goesOn_next _

theorem convHead_goesOn (s : State) (c : Nat) (op : ConvOp) (run : State → QEntry (ConvOp × Nat) → ConvDesc → State × Except Nat Unit) :
    goesOn (convHead s c op run) := by
  unfold convHead
  split
  · split
    · exact goesOn_next _
    · dsimp only
      split
      · exact goesOn_next _
      · split <;> exact goesOn_next _
  · exact goesOn_next _

/-! ### Commands whose meaning needs a proof of its own -/

theorem execMalformedFrame_goesOn (f : NetFrame) (kind : BadFrame) (s : State) : goesOn (execMalformedFrame f kind s) := by
  unfold execMalformedFrame
  split
  · exact goesOn_next _
  · cases kind with
    | fcs => exact goesOn_next _
    | _ => exact rxFrame_goesOn ..

theorem execInitFlit_goesOn (raw : List Byte) (s : State) : goesOn (execInitFlit raw s) := by
  unfold execInitFlit
  split
  · exact rxFlit_goesOn ..
  · split
    · exact goesOn_next _
    · split
      · exact goesOn_next _
      · dsimp only
        split <;> exact goesOn_next _

theorem execCopybackDone_goesOn (tensor : W32) (s : State) : goesOn (execCopybackDone tensor s) := by
  unfold execCopybackDone
  split
  · split
    · exact goesOn_next _
    · split <;> exact goesOn_next _
  · exact goesOn_next _

/-- The meaning is unfolded as a function: at a given address the kernel, comparing it with its unfolding, would evaluate the address map. -/
theorem execStackScrub_goesOn (f : ScrubFinding) (s : State) : goesOn (execStackScrub f s) := by
  suffices h : ∀ g, g = execStackScrub → goesOn (g f s) from h _ rfl
  intro g hg
  delta execStackScrub at hg
  subst hg
  dsimp only
  split
  · split
    · exact goesOn_next _
    · split
      · exact goesOn_next _
      · split <;> exact goesOn_next _
  · split
    · split
      · exact goesOn_next _
      · split <;> exact goesOn_next _
    · exact goesOn_next _

/-! ### Every command goes on -/

/-- Settles O3: each command is an operation shared by many, one next state, or a choice among next states. -/
theorem everyCommandGoesOn : Obligations.EveryCommandGoesOn := by
  unfold Obligations.EveryCommandGoesOn
  intro c s
  unfold exec
  cases c with
  -- a command's packet arrives, over a link that is UP (R436)
  | devIdentify _ | devReset _ | devEcho _ | csRead _ | csWrite _ | csCommit _ | csDiscard _ | memRead _ | memWrite _ | memFill _ | memCopy _
  | syncSet _ | syncRead _ | streamWait _ | progLoad _ | progUnload _ | taskSubmit _ | taskCancel _ | tensorDefine _ | tensorDrop _ | stepFence _
  | epochQuery _ | evalSnapshot _ | packDefine _ | packRelease _ | portQuery _ | rcOpen _ | rcClose _ | fwChunk _ | fwStatus _ | fwArm _
  | idAttest _ | idPubkey _ | thermRead _ | thermWaive _ | diagTeams _ | diagScan _ | bringStatus _ | topoRead _ | topoAccept _ | topoAbandon _
  | clrOverrun _ | clrCarry _ | tickClrRecDrop _ | quarClr _ _ | clrPace _ | clrShortfall _ | clrMalformed _ | clrEvtDrop _ | clrBulkOrphan _
  | clrBxl _ | clrDeadReread _ | clrDeadDrop _ | clrRed _ | clrL1 _ | clrNmErr _ | clrStkErr _ | clrAs _ | clrDrop _ | clrTrap _ | clrNanCnt _
  | clrEntryDrop _ | clrRuns _ | clrAlarm _ | watchClrRecDrop _ | clrContrib _ | clrRefused _ | clrTally _ | clrVote _ | clrFail _ | clrFactor _
  | clrWait _ | clrLast _ | clrRel _ | clrAlert _ | clrTherm _ | clrNet _ =>
    exact cmdRow_goesOn ..
  -- an instruction issues from its thread, which stops at an invalid encoding (R159)
  | addi _ | andi _ | ori _ | xori _ | shifti _ | slti _ | movz _ | movk _ | add _ | sub _ | and _ | or _ | xor _ | sll _ | srl _ | sra _ | slt _
  | sltu _ | min _ | max _ | minu _ | maxu _ | mul _ | mulhs _ | mulhu _ | divs _ | divu _ | rems _ | remu _ | sel _ | ld _ | st _ | branch _
  | jal _ | jalr _ | signal _ | wait _ | sread _ | sstart _ | swait _ | mmul _ | mdrain _ | mfence _ | mstat _ | vclaim _ | rrow _ | rfence _
  | rstat _ | cfence _ | cstat _ | afence _ | psend _ | pfence _ | nwrite _ | endThread _ | nop _ | fadd _ | fsub _ | fmul _ | ffma _ | fdiv _
  | fsqrt _ | fmin _ | fmax _ | fabs _ | fneg _ | fcmpeq _ | fcmplt _ | fcmple _ | fcvtS64 _ | fcvtFS64 _ | fcvtBf16 _ | fcvtFBf16 _ | fcvtFp16 _
  | fcvtFFp16 _ | vrelease _ | vsetvl _ | vstat _ | vld _ | vst _ | vbcast _ | vext _ | vperm _ | vslidedn _ | vslideup _ | vqmov _ | vqset _
  | vep _ | vadd _ | vsub _ | vmul _ | vfma _ | vmin _ | vmax _ | vabs _ | vneg _ | vdiv _ | vsqrt _ | vrcp _ | vrsqrt _ | vexp2 _ | vlog2 _
  | vand _ | vor _ | vxor _ | vshl _ | vshr _ | vcmpeq _ | vcmplt _ | vcmple _ | vsel _ | camax _ | ccvt _ | cdec _ | apush _ | apop _ | apeek _
  | amark _ | aunmark _ | aused _ | vcvt _ | vred _ =>
    exact issueRaw_goesOn ..
  -- a frame or a pack datagram arrives at a port (R406, Table 15.8)
  | arpRequest _ | neighbourSolicitation _ | icmpDiscard _ => exact rxFrame_goesOn ..
  | ptpMessage _ | cnpReceived _ | rxDrop _ => exact rxTaken_goesOn ..
  | nack _ => exact rxMessage_goesOn ..
  | contrib _ | scale _ | scaleAck _ | ack _ | reduced _ | shardDone _ | vote _ | repair _ => exact rxPack_goesOn ..
  | rcAck _ => exact rcFrame_goesOn ..
  | rdmaRead _ => exact rcRequestWith_goesOn ..
  | rdmaWrite _ | rcInvalidRequest _ => exact rcRequest_goesOn ..
  -- a flit arrives
  | dataFlit _ | creditFlit _ | idleFlit _ =>
    exact rxFlit_goesOn ..
  -- the head of a conversion queue runs (R263)
  | camaxExecute _ | ccvtExecute _ | cdecExecute _ =>
    dsimp only [execCamaxExecute, execCcvtExecute, execCdecExecute]
    exact convHead_goesOn ..
  -- the test port takes an instruction (R553)
  | bypass | idcode | extest | extestPulse | extestTrain | clamp | highz =>
    exact jtagTake_goesOn ..
  -- the meaning is written as one next state
  | bulkPacket _ _ _ | replySend _ | eventQueueSpace | tickOutFall | replayMarginOpen | ppsEdge | quarantine _ | rampWindowEnd | smaxFwd _
  | smaxBwd _ | lnormFwd _ | lnormBwd _ | rmsFwd _ | rmsBwd _ | stackLost _ | moduleLost _ _ | hubLost _ | replayTimeout | trainTimeout
  | recoveryTimeout | initResend | coreFault _ _ _ | teamCommonFault _ | laneFail _ _ | rstNFall | mpWatchdog | i3cRead _ | trstNLow
  | trickleCapRelease =>
    exact goesOn_next _
  -- the meaning branches, each branch a next state; the lines follow the units
  | commitTimeout
  | snapshotCopy | snapshotCopyDone | pushStart | updateStart _ | updateFinish _ | updateInterrupt _ _ | factorRefresh _
  | clrCnt _ _
  | tickBoundary _ | taskSpanStart | holdover
  | tickOverrun _ | taskEnd _ | grantExhausted _
  | resetRampDone | resetEffect | memoryCommandComplete _
  | syncSignalApply _ _ | wake _ _
  | streamCompletion _ | rcRetry _ _ | rateRecovery _ _
  | mmulExecute _ | mdrainExecute _
  | stackApply _ | spillRefillDone _
  | psendExecute _ | stagedConvert _ _ _
  | nanReport _ | stillAlarm
  | partitionFlushDone _
  | voteSend _ | voteTimeout _ | fallbackDecision _ | ackTimer _ | retransmit _ | scaleResend _ _ _ | repairTimer _ _
  | pfcFrame _ _ _ _ | pfcWatchdog _ _ _ | linkDown _ _ _ | linkUp _ _ | anRetry _ _
  | recovery _ | signalDetect _ | trainDone _
  | coreHang _ | restoreDone _ | clockBondLoss _ | farrierScanSlot _
  | ffrWrite | windowReopen | rollbackFuseProgram | netRingScan
  | sensorSample _ _ | thermalModel _ | sensorSuspect _ _ | flowEstimate _ | flowLow | throttleDeepen _ | throttleRelease _ | graceEnd _
  | thermalTrip | tripRelease | railFault _ | rstNRise | suppliesAndReset _ | clockAndMpBoot _ | bondSelfTest _ | nearMemoryTest _ | hubBringup _
  | computeWaveRelease _ | computePowerup _ | firmwareBroadcast _ | repairRound _ | topologyAgreement _ | computePowerDownDone
  | samplePreload =>
    simp only [execCommitTimeout, execSnapshotCopy, execSnapshotCopyDone, execPushStart, execUpdateStart, execUpdateFinish, execUpdateInterrupt,
      execFactorRefresh, execClrCnt, execTickBoundary, execTaskSpanStart, execHoldover, execTickOverrun, execTaskEnd, execGrantExhausted,
      execResetRampDone, execResetEffect, execMemoryCommandComplete, execSyncSignalApply, execWake, execStreamCompletion, execRcRetry,
      execRateRecovery, execMmulExecute, execMdrainExecute, execStackApply, execSpillRefillDone, execPsendExecute, execStagedConvert,
      execNanReport, execStillAlarm, execPartitionFlushDone, execVoteSend, execVoteTimeout, execFallbackDecision, execAckTimer, execRetransmit,
      execScaleResend, execRepairTimer, execPfcFrame, execPfcWatchdog, execLinkDown, execLinkUp, execAnRetry, execRecovery, execSignalDetect,
      execTrainDone, execCoreHang, execRestoreDone, execClockBondLoss, execFarrierScanSlot, execFfrWrite, execWindowReopen,
      execRollbackFuseProgram, execNetRingScan, execSensorSample, execThermalModel, execSensorSuspect, execFlowEstimate, execFlowLow,
      execThrottleDeepen, execThrottleRelease, execGraceEnd, execThermalTrip, execTripRelease, execRailFault, execRstNRise, execSuppliesAndReset,
      execClockAndMpBoot, execBondSelfTest, execNearMemoryTest, execHubBringup, execComputeWaveRelease, execComputePowerup,
      execFirmwareBroadcast, execRepairRound, execTopologyAgreement, execComputePowerDownDone, execSamplePreload]
    repeat' split
    all_goals exact goesOn_next _
  -- a meaning that branches and goes on through the lemmas above, or is unfolded apart
  | copybackDone tensor => exact execCopybackDone_goesOn tensor s
  | stackScrub f => exact execStackScrub_goesOn f s
  | malformedFrame f kind => exact execMalformedFrame_goesOn f kind s
  | initFlit raw => exact execInitFlit_goesOn raw s

end Sys2Proof.Machine
end
